-- ==== Sys2Proof/Word.lean ====
section
/-! DEFINITION. The machine's words (R4, R5): halfwords of code, 64-bit registers, 128-bit vectors. -/

namespace Sys2Proof

/-- A 64-bit register or address. -/
abbrev Word := BitVec 64
/-- A 16-bit instruction word (R79). -/
abbrev Half := BitVec 16
/-- A byte of memory. -/
abbrev Byte := BitVec 8
/-- A vector register or a message (R115, R353). -/
abbrev V128 := BitVec 128

end Sys2Proof
end

