-- ==== Sys2Proof/Config.lean ====
section
/-! DEFINITION. What an implementation fixes and the spec leaves open: constants without a body, so that nothing proved of the
model can rest on their values. -/

namespace Sys2Proof.Config

/-- A byte of a DRAM row after a LOOP pattern run, whose contents are not defined (R261); log entry 18. -/
opaque loopByte : Nat → Nat → BitVec 8

/-- The ECC state of an atom of such a row, modulo 3: 0 good, 1 correctable, 2 uncorrectable (R261); log entry 18. -/
opaque loopEcc : Nat → Nat

/-- PADDR (0) and WHERE (1) of a HOTREMOVE entry of a stack and die, which R258 does not state; log entry 18. -/
opaque entryField : Nat → Nat → Nat → Nat

/-- What a cluster's meter adds after 1,024 cycles, in µJ: the weighted sum of its activity counts (R433), by the cluster and a
fresh number; log entry 18. -/
opaque energyOf : Nat → Nat → Nat

/-- The cycles from a launch's dispatch to the cycle in which its last cluster reports ready (R69), by a fresh number; log
entry 2. -/
opaque readyDelay : Nat → Nat

/-- The address of an access that a failed link stops after its translation (R72, R429), by a fresh number; log entry 32. -/
opaque openAddr : Nat → BitVec 64

/-- The event that a die-to-die link which stays down posts, for which R62 lists no code (R72); log entry 32. -/
opaque linkCode : Nat

/-- Whether a unit acts in a cycle and in which order (R20 to R23, R207 to R209): by the cycle and a place; log entry 3. -/
opaque order : Nat → Nat → Nat

/-- The bank of an L2 that holds a set (R449), modulo 2^15, by the set; log entry 3. -/
opaque l2Bank : Nat → Nat

/-- How many rings an interface visits in a cycle, modulo 36 (R249): by the cycle and the cluster; log entry 3. -/
opaque visits : Nat → Nat → Nat

/-- Whether a completer of host memory refuses an AtomicOp (R234): by the port, the offset, the fn and the size; log entry 10. -/
opaque atomicRefused : Nat → Nat → Nat → Nat → Bool

/-- The length of the lease that a home grants, less one, modulo 4,096 (R210), by the cycle and the context; log entry 7. -/
opaque lease : Nat → Nat → Nat

/-- What the lanes of a channel show in a pattern run (R261): 0 the lanes in error, 1 the bursts, by the cycle; log entry 18. -/
opaque lanes : Nat → Nat → Nat → Nat → Nat

/-- The channel of an LPDDR-6 atom, modulo 48 (R2, R258), which no rule gives; log entry 27. -/
opaque lpddrChan : Nat → Nat

/-- The sector of an LPDDR-6 channel that the patrol scrub comes to, modulo 2^32, and above it the number of its physical sector (R256), by
the channel and a count; log entry 27. -/
opaque scrubSector : Nat → Nat → Nat

/-- The values of the signed configuration image (R431), by field and index; log entry 18. -/
opaque image : Nat → Nat → Nat

/-- The steward firmware (R430), byte by byte of a steward core's SRAM; log entry 18. -/
opaque firmware : Nat → BitVec 8

/-- Where a steward core starts and where its traps go (R430, R391): 0 the first, 1 the second; log entry 18. -/
opaque stewardEntry : Nat → BitVec 64

/-- The SHA-384 digest in a measurement block (R432): the block's index and the number of its extensions; log entry 18. -/
opaque digest : Nat → Nat → BitVec 384

/-- The bytes of the certificate chain (R432); log entry 18. -/
opaque certSize : Nat

/-- The certificate chain from the Kwedan root to the device identity certificate (R432), byte by byte; log entry 18. -/
opaque certByte : Nat → BitVec 8

/-- A key or signature value of an SPDM exchange (R432); log entry 18. -/
opaque spdmValue : Nat → BitVec 384

/-- The retention exit delay of the configuration image (R431, R437); log entry 18. -/
opaque exitDelay : Nat

/-- The value that THAW with mode 1 records where no access faulted (R405); log entry 22. -/
opaque thawValue : Nat → BitVec 64

end Sys2Proof.Config
end

