-- ==== Sys2Proof/Syntax.lean ====
section
/-! DEFINITION. The instructions: one constructor for each row of the table of operations and events. An encoded
instruction carries the operand fields of its chain (`Fld`); an event carries the units it acts on and the choices the
spec leaves to the device, to the host or to the physical world. -/

namespace Sys2Proof

/-- The operand fields a chain delivers (R79 to R87): registers with the PXR bits joined on, the guard, x where it names a
predicate, ext6, the PXH payload, the number of PXI words and the widened immediate, not yet extended. -/
structure Fld where
  /-- the guard predicate pg; 0 is unguarded (R84) -/
  g : BitVec 3 := 0
  /-- field a, or the count or predicate that stands in its place -/
  a : BitVec 6 := 0
  /-- field b -/
  b : BitVec 6 := 0
  /-- field d, or the function bits that stand in its place -/
  d : BitVec 6 := 0
  /-- x where it names the destination predicate (R84) -/
  x : BitVec 3 := 0
  /-- ext6 of the PXP (R86) -/
  ext : BitVec 6 := 0
  /-- the payload of the PXH (R87) -/
  h : BitVec 10 := 0
  /-- the number of PXI words (R83) -/
  k : Nat := 0
  /-- the widened immediate, n + 10k bits (R83) -/
  imm : BitVec 49 := 0
deriving DecidableEq, Repr

/-- A request from the host or a peer (R425, R426, R429): kind 0 a read, 1 a posted write, 2 and 3 a read and a write of BAR0,
8 + fn an atomic of R233; its address, its size in bytes, the bytes of a write or the operands of an atomic, its ordering, its T
bit, its IDE stream (0 for none, 1 the link stream, 2 to 5 the selective ones), whether that stream's integrity check passes, and
its requester. -/
structure BusReq where
  kind : Nat
  addr : Nat
  size : Nat
  data : List Byte
  relaxed : Bool
  tbit : Bool
  stream : Nat
  intact : Bool
  rid : Nat
deriving DecidableEq, Repr

/-- One constructor per row of the table of operations and events; the docstring of each is the table's own summary. -/
inductive Instr where
  /-- R55: Write that re-examines a queue, checking the ring count and clearing RINGERR. -/
  | qschDoorbell (e q : Nat)
  /-- R53: Write of EN that enables, stops or transfers dispatch between schedulers. -/
  | qschCtlWrite (e v : Nat)
  /-- R61: Maps, remaps or unmaps a slot, clearing its accounting and blocked marking. -/
  | qsCtlWrite (e slot v : Nat)
  /-- R62: Stewards advance the event ring head, letting buffered events enter and HELD clear. -/
  | qschEvheadWrite (e v : Nat)
  /-- R63: GTIME reaches a periodic slot's deadline, which advances and resets the budgets. -/
  | replenish (slot : Nat)
  /-- R63: A slot's time or energy charge first exceeds its budget and OVERRUN is posted. -/
  | overrun (slot kind : Nat)
  /-- R65: The scheduler re-reads waited semaphores of queue heads every 65,536 cycles. -/
  | headReexamine (slot : Nat)
  /-- R66: A slot whose head waited a period or stall period is marked BLOCKEXT and may borrow. -/
  | blockMark (slot : Nat)
  /-- R65: Chooses the least-deadline ready head and refuses, waits or places it. -/
  | dispatchDecision
  /-- R65: A chosen head has waited QSCH_STALLP cycles for credit or clusters. -/
  | dispstall
  /-- R69: GTIME reaches the start time S and every thread enters RUN. -/
  | launchStart (l : Nat)
  /-- R420: A launch whose threads are done and whose root circuit came back clean retires. -/
  | retire (l : Nat)
  /-- R77: A fetch block arrives at the front end and the waiting thread becomes eligible. -/
  | fetchBlockArrival (pid : Nat)
  /-- R225: A blocking access's data returns and its destination is written. -/
  | loadDataReturn (pid lease : Nat)
  /-- R211: A store reaches its home and is performed after waiting for or passing leases. -/
  | storeAtHome (core path n : Nat)
  /-- R230: A reservation reaches the head of its home queue and the word is returned. -/
  | reservationGrant (pid : Nat)
  /-- R393: A pending late fault, PROMISE or PREEMPT is taken before an instruction issues. -/
  | asyncTrapTake (pid : Nat)
  /-- R176: The sequencer issues a ready vector entry of a context. -/
  | vectorIssue (pid : Nat)
  /-- R397: A TLB miss walk completes with a translation or a fault. -/
  | pageWalk (pcl asid va : Nat)
  /-- R354: A message enters a mailbox entry and may wake a parked thread. -/
  | messageDeliver (n : Nat)
  /-- R355: A freed entry admits the oldest held message. -/
  | messageAdmit (pid : Nat)
  /-- R360: GTIME reaches a parked RECVT's deadline. -/
  | recvtTimeout (pid : Nat)
  /-- R362: GTIME reaches the alarm time and ALARM is posted. -/
  | alarmFire (pid : Nat)
  /-- R369: A domain probe circuit returns to its leader and is decided. -/
  | circuitComplete (l level leader : Nat)
  /-- R379: A conflicting write aborts a speculative thread to its checkpoint. -/
  | specAbort (pid : Nat)
  /-- R380: A thread ceases to be speculative and its buffered stores drain. -/
  | storeDrain (pid : Nat)
  /-- R268: A copy command's last write is performed and COPYDONE is posted. -/
  | copyComplete (pcl slot : Nat)
  /-- R288: A counted write lowers a slot's pending counter at the queue unit. -/
  | countedDecrement (n : Nat)
  /-- R279: Combined CFREEs reach the sender, which receives ALLFREE. -/
  | allfree (pcl tag : Nat)
  /-- R300: The stream unit reads ahead and records any fault. -/
  | streamLookahead (pid r : Nat)
  /-- R302: The stream unit drains a resident stream context to make room. -/
  | streamContextDrain (pid : Nat)
  /-- R329: A matrix job's writes are performed, DONE advances and JOBDONE may post. -/
  | matrixJobComplete (pcl half slot : Nat)
  /-- R331: The engine drains a resident tile context to the save area. -/
  | matrixContextDrain (pcl half slot : Nat)
  /-- R408: KCTL_PRE with ONECORE 0 pre-empts a whole cluster. -/
  | preemptCluster (pcl : Nat)
  /-- R408: KCTL_PRE with ONECORE 1 pre-empts one core. -/
  | preemptCore (pcl core : Nat)
  /-- R408: A cluster finishes its save and SAVED is posted. -/
  | clusterSaved (pcl : Nat)
  /-- R413: KCTL_REST moves and reloads a saved vcluster. -/
  | restore (h pcl : Nat)
  /-- R413: KCTL_REST with DISCARD kills the threads of a save handle. -/
  | restoreDiscard (h : Nat)
  /-- R402: A steward answers an XFAULT record, retrying or failing the engine access. -/
  | kctlReply (k fail : Nat)
  /-- R248: Writing COMMIT starts the check of the staged region matrices. -/
  | amapCommit
  /-- R248: The commit ends with a status and possibly activates the mapping. -/
  | amapCommitDone
  /-- R252: The migration engine takes a queued request and moves the page. -/
  | migration (e : Nat)
  /-- R255: Write with GO that maps out a DRAM die or is refused. -/
  | rmapMapout (stack die : Nat)
  /-- R256: Every 2^20 cycles a channel's next sector is read and corrected. -/
  | patrolScrub (stack ch : Nat)
  /-- R258: Empties an error log and clears OVF. -/
  | elogClr (blk : Nat)
  /-- R261: Writing GO starts a pattern run on a channel. -/
  | hphyPatGo (stack ch v : Nat)
  /-- R261: A pattern run finishes and sets DONE. -/
  | hphyPatDone (stack ch lanes nbad : Nat)
  /-- R262: Assigns spare lanes, ignored when invalid or online. -/
  | hphyLrepWrite (stack ch v : Nat)
  /-- R424: Host write passed on as a QSCH doorbell after earlier writes. -/
  | hlDoorbell (e q : Nat)
  /-- R424: Write-one-to-clear of host event bits. -/
  | hlEventClear (e v : Nat)
  /-- R435: HL_RETAIN ENTER or a steward request enters the retention state. -/
  | retainEnter
  /-- R435: The power-warning input asserted for 64 cycles enters retention. -/
  | powerWarning
  /-- R437: HL_RETAIN RESUME leaves retention, advancing GTIME and restoring clusters. -/
  | retainResume
  /-- R437: The warning stays deasserted for the exit delay and resumption begins. -/
  | powerWarningClear
  /-- R437: Power cut during retention loses all state. -/
  | powerLoss
  /-- R430: Boot ROM verifies images, measures, configures and starts the stewards. -/
  | reset (steps : Nat)
  /-- R425: A host request at a port is served in order or freezes the host function. -/
  | hostRequest (e : Nat) (r : BusReq)
  /-- R428: TDISP message fixing BAR2, IDE and queue bindings. -/
  | lockInterface (e : Nat)
  /-- R428: Secured-session message installing a copy-engine key slot. -/
  | keyInstall (e pcl slot owner sid key : Nat)
  /-- R432: SPDM request returning measurement digests. -/
  | getMeasurements (e idx : Nat)
  /-- R430: SPDM version request, served even after BOOTFAIL. -/
  | getVersion (e : Nat)
  /-- R429: A Greja port stays down after retraining and blocked masters freeze. -/
  | linkdown (port : Nat)
  /-- R72: A die-to-die link stays down and freezes masters whose accesses cannot complete. -/
  | ucieLinkDown (die : Nat)
  /-- R433: Every 1,024 cycles each cluster's energy meter adds its weighted activity. -/
  | meterUpdate
  /-- R433: Every 65,536 cycles the governor adds EGOV_RATE to the credit up to CMAX. -/
  | creditReplenish
  /-- R423: A write to a steward-window register without behaviour of its own. -/
  | registerWrite (pa size v : Nat)
  /-- R214: A copy or matrix engine writes one owned unit at its home at one instant and releases its ownership. -/
  | engineUnitWrite (pcl eng slot n : Nat)
  /-- R260: A write of HPHY_CHCTL sets or clears ONLINE, releasing accesses that wait on the channel and gating delay, LREP and GO writes.
  -/
  | hphyChctlWrite (stack ch v : Nat)
  /-- R429: A load, store or AMO from a peer device arrives over a Greja port and is performed at its home. -/
  | peerRequest (peer : Nat) (r : BusReq)
  /-- R428: A TDISP message moves the TDI from CONFIG_LOCKED to RUN. -/
  | startInterfaceRequest (e : Nat)
  /-- R428: A TDISP message returns the TDI to CONFIG_UNLOCKED, including from ERROR. -/
  | stopInterfaceRequest (e : Nat)
  /-- R427: A key-programming message inside an SPDM secured session keys an IDE stream. -/
  | ideKeyProgramming (e stream : Nat)
  /-- R432: An SPDM key-exchange message opens a secured session with ECDHE. -/
  | keyExchange (e : Nat)
  /-- R432: An SPDM request negotiates algorithms and is answered with ERROR when none is common. -/
  | negotiateAlgorithms (e common : Nat)
  /-- R432: An SPDM request returns the certificate chain from the Kwedan root to the device identity certificate. -/
  | getCertificate (e : Nat)
  /-- R127: Adds two window registers into W[a]. -/
  | add (f : Fld)
  /-- R127: Subtracts W[b] from W[a]. -/
  | sub (f : Fld)
  /-- R127: Bitwise AND of two window registers. -/
  | and (f : Fld)
  /-- R127: Bitwise OR of two window registers. -/
  | or (f : Fld)
  /-- R127: Bitwise XOR of two window registers. -/
  | xor (f : Fld)
  /-- R127: Shifts W[a] left by W[b][5:0]. -/
  | shl (f : Fld)
  /-- R127: Logical right shift of W[a] by W[b][5:0]. -/
  | shr (f : Fld)
  /-- R127: Arithmetic right shift of W[a] by W[b][5:0]. -/
  | sra (f : Fld)
  /-- R127: Low 64 bits of the product. -/
  | mul (f : Fld)
  /-- R127: High 64 bits of the signed product. -/
  | mulh (f : Fld)
  /-- R127: High 64 bits of the unsigned product. -/
  | mulhu (f : Fld)
  /-- R127: Signed minimum. -/
  | min (f : Fld)
  /-- R127: Signed maximum. -/
  | max (f : Fld)
  /-- R127: Unsigned minimum. -/
  | minu (f : Fld)
  /-- R127: Unsigned maximum. -/
  | maxu (f : Fld)
  /-- R127: Copies W[b] to W[a]. -/
  | mov (f : Fld)
  /-- R128: Adds a sign-extended immediate to W[a]. -/
  | addi (f : Fld)
  /-- R128: Loads a sign-extended immediate into W[a]. -/
  | li (f : Fld)
  /-- R129: Left shift by an immediate. -/
  | shli (f : Fld)
  /-- R129: Logical right shift by an immediate. -/
  | shri (f : Fld)
  /-- R129: Arithmetic right shift by an immediate. -/
  | srai (f : Fld)
  /-- R129: AND with a sign-extended immediate. -/
  | andi (f : Fld)
  /-- R129: OR with a zero-extended immediate. -/
  | ori (f : Fld)
  /-- R129: XOR with a zero-extended immediate. -/
  | xori (f : Fld)
  /-- R129: Multiplies W[a] by a sign-extended immediate. -/
  | muli (f : Fld)
  /-- R131: Signed division on the shared divider, never trapping. -/
  | div (f : Fld)
  /-- R131: Unsigned division. -/
  | divu (f : Fld)
  /-- R131: Signed remainder. -/
  | rem (f : Fld)
  /-- R131: Unsigned remainder. -/
  | remu (f : Fld)
  /-- R132: Counts leading zeros of W[b]. -/
  | clz (f : Fld)
  /-- R132: Counts trailing zeros of W[b]. -/
  | ctz (f : Fld)
  /-- R132: Counts set bits of W[b]. -/
  | popc (f : Fld)
  /-- R132: Reverses the bits of W[b]. -/
  | brev (f : Fld)
  /-- R132: Sign-extends the low byte. -/
  | sextb (f : Fld)
  /-- R132: Sign-extends the low halfword. -/
  | sexth (f : Fld)
  /-- R132: Sign-extends the low word. -/
  | sextw (f : Fld)
  /-- R132: Zero-extends the low byte. -/
  | zextb (f : Fld)
  /-- R132: Zero-extends the low halfword. -/
  | zexth (f : Fld)
  /-- R132: Zero-extends the low word. -/
  | zextw (f : Fld)
  /-- R132: Absolute value of W[b]. -/
  | abs (f : Fld)
  /-- R132: Negates W[b]. -/
  | neg (f : Fld)
  /-- R133: Sets a predicate when the registers are equal. -/
  | eq (f : Fld)
  /-- R133: Sets a predicate when the registers differ. -/
  | ne (f : Fld)
  /-- R133: Signed less-than compare. -/
  | lt (f : Fld)
  /-- R133: Signed greater-or-equal compare. -/
  | ge (f : Fld)
  /-- R133: Unsigned less-than compare. -/
  | ltu (f : Fld)
  /-- R133: Unsigned greater-or-equal compare. -/
  | geu (f : Fld)
  /-- R133: Sets a predicate when the AND is nonzero. -/
  | tst (f : Fld)
  /-- R133: Sets a predicate when the AND is zero. -/
  | tstn (f : Fld)
  /-- R134: Compare for equality with an immediate. -/
  | eqi (f : Fld)
  /-- R134: Compare for inequality with an immediate. -/
  | nei (f : Fld)
  /-- R134: Signed less-than with an immediate. -/
  | lti (f : Fld)
  /-- R134: Signed greater-or-equal with an immediate. -/
  | gei (f : Fld)
  /-- R134: Unsigned less-than with an immediate. -/
  | ltui (f : Fld)
  /-- R134: Unsigned greater-or-equal with an immediate. -/
  | geui (f : Fld)
  /-- R136: ANDs two predicates. -/
  | pand (f : Fld)
  /-- R136: ORs two predicates. -/
  | por (f : Fld)
  /-- R136: XORs two predicates. -/
  | pxor (f : Fld)
  /-- R136: Writes the inverse of a predicate. -/
  | pnot (f : Fld)
  /-- R136: Copies a predicate. -/
  | pmov (f : Fld)
  /-- R136: Sets a predicate to 1. -/
  | pset (f : Fld)
  /-- R136: Clears a predicate. -/
  | pclr (f : Fld)
  /-- R136: Selects between predicates by p1. -/
  | psel (f : Fld)
  /-- R136: Reads PW into a window register. -/
  | prdw (f : Fld)
  /-- R136: Writes p1-p7 from a window register. -/
  | pwrw (f : Fld)
  /-- R228: Plain 64-bit load with scaled offset. -/
  | ld (f : Fld)
  /-- R228: Plain 64-bit store with scaled offset. -/
  | st (f : Fld)
  /-- R137: Moves W[b] to W[a] when the selecting predicate holds with the given sense. -/
  | cmov (f : Fld)
  /-- R139: Calls a block-relative target, forming a window unit and spilling if needed. -/
  | call (f : Fld)
  /-- R138: Branches to a block when the predicate is 1. -/
  | br (f : Fld)
  /-- R138: Branches to a block when the predicate is 0. -/
  | brn (f : Fld)
  /-- R145: Advances the PC only. -/
  | nop (f : Fld)
  /-- R141: Jumps to an ENTRY target held in a register after the R140 check. -/
  | jmpr (f : Fld)
  /-- R142: Calls an ENTRY target held in a register. -/
  | callr (f : Fld)
  /-- R143: Returns through the newest unit, refilling it, or ends the thread. -/
  | ret (f : Fld)
  /-- R146: Writes a block-relative address into W[a]. -/
  | lpc (f : Fld)
  /-- R145: Makes the next instruction ineligible for four cycles. -/
  | yield (f : Fld)
  /-- R147: Pushes W[b] onto q0 or q1, blocking when full. -/
  | qput (f : Fld)
  /-- R147: Pops q2 or q3 into W[a], blocking when empty. -/
  | qget (f : Fld)
  /-- R145: Sets the frame size, spilling if needed. -/
  | entry (f : Fld)
  /-- R148: Waits until all earlier page-1 instructions complete. -/
  | vwait (f : Fld)
  /-- R149: Reads GTIME into W[a]. -/
  | gtime (f : Fld)
  /-- R149: Reads the thread id into W[a]. -/
  | tid (f : Fld)
  /-- R190: Lane-wise vector add, dispatched to the sequencer. -/
  | vadd (f : Fld)
  /-- R190: Lane-wise vector subtract. -/
  | vsub (f : Fld)
  /-- R190: Lane-wise vector multiply. -/
  | vmul (f : Fld)
  /-- R190: High half of lane-wise integer products. -/
  | vmulh (f : Fld)
  /-- R190: Lane-wise minimum. -/
  | vmin (f : Fld)
  /-- R190: Lane-wise maximum. -/
  | vmax (f : Fld)
  /-- R190: Bitwise vector AND. -/
  | vand (f : Fld)
  /-- R190: Bitwise vector OR. -/
  | vor (f : Fld)
  /-- R190: Bitwise vector XOR. -/
  | vxor (f : Fld)
  /-- R190: Lane-wise left shift. -/
  | vshl (f : Fld)
  /-- R190: Lane-wise logical right shift. -/
  | vshr (f : Fld)
  /-- R190: Lane-wise arithmetic right shift. -/
  | vsra (f : Fld)
  /-- R190: Lane-wise absolute value. -/
  | vabs (f : Fld)
  /-- R190: Lane-wise negation. -/
  | vneg (f : Fld)
  /-- R190: Copies V[b] to V[a] bit for bit. -/
  | vmov (f : Fld)
  /-- R190: Lane-wise average. -/
  | vavg (f : Fld)
  /-- R191: Fused multiply-add into V[d]. -/
  | vfma (f : Fld)
  /-- R191: Fused multiply-subtract into V[d]. -/
  | vfms (f : Fld)
  /-- R192: Lane-wise equality mask. -/
  | veq (f : Fld)
  /-- R192: Lane-wise inequality mask. -/
  | vne (f : Fld)
  /-- R192: Lane-wise less-than mask. -/
  | vlt (f : Fld)
  /-- R192: Lane-wise greater-or-equal mask. -/
  | vge (f : Fld)
  /-- R192: Lane-wise less-or-equal mask. -/
  | vle (f : Fld)
  /-- R192: Lane-wise greater-than mask. -/
  | vgt (f : Fld)
  /-- R192: Lane-wise unordered mask. -/
  | vunord (f : Fld)
  /-- R192: Lane-wise ordered mask. -/
  | vord (f : Fld)
  /-- R193: Bitwise select by the mask in V[d]. -/
  | vsel (f : Fld)
  /-- R194: Reciprocal estimate. -/
  | vrcp (f : Fld)
  /-- R194: Reciprocal square-root estimate. -/
  | vrsq (f : Fld)
  /-- R194: Newton step for the reciprocal. -/
  | vrcpr (f : Fld)
  /-- R194: Newton step for the reciprocal square root. -/
  | vrsqr (f : Fld)
  /-- R194: Lane-wise base-2 exponential. -/
  | vexp2 (f : Fld)
  /-- R194: Lane-wise base-2 logarithm. -/
  | vlog2 (f : Fld)
  /-- R194: Lane-wise square root on the divide unit. -/
  | vsqrt (f : Fld)
  /-- R194: Lane-wise division on the divide unit. -/
  | vdiv (f : Fld)
  /-- R194: Rounds lanes toward minus infinity. -/
  | vfloor (f : Fld)
  /-- R194: Rounds lanes toward plus infinity. -/
  | vceil (f : Fld)
  /-- R194: Rounds lanes to nearest even. -/
  | vrndn (f : Fld)
  /-- R194: Rounds lanes toward zero. -/
  | vtrunc (f : Fld)
  /-- R194: Writes a one-hot class mask per lane. -/
  | vclass (f : Fld)
  /-- R195: Converts a part of V[a] between element types. -/
  | vcvt (f : Fld)
  /-- R196: Permutes lanes by index. -/
  | vshuf (f : Fld)
  /-- R196: Broadcasts lane 0 of V[b]. -/
  | vbcast (f : Fld)
  /-- R196: Interleaves the low halves. -/
  | vzipl (f : Fld)
  /-- R196: Interleaves the high halves. -/
  | vziph (f : Fld)
  /-- R196: De-interleaves even lanes. -/
  | vuzpl (f : Fld)
  /-- R196: De-interleaves odd lanes. -/
  | vuzph (f : Fld)
  /-- R197: Tree sum of the lanes of V[b]. -/
  | vrsum (f : Fld)
  /-- R197: Minimum over the lanes of V[b]. -/
  | vrmin (f : Fld)
  /-- R197: Maximum over the lanes of V[b]. -/
  | vrmax (f : Fld)
  /-- R198: Four grouped dot products rounded once. -/
  | vdot (f : Fld)
  /-- R199: Pops q0 or q1 and fills every lane. -/
  | vsplat (f : Fld)
  /-- R199: Pushes the low half of V[b] onto q2 or q3. -/
  | vputq (f : Fld)
  /-- R199: Pushes the high half of V[b]. -/
  | vputqh (f : Fld)
  /-- R199: Pops two queue entries into V[a]. -/
  | vgetq2 (f : Fld)
  /-- R200: Loads 16 bytes at an address popped from q0. -/
  | vld (f : Fld)
  /-- R200: Loads 16 bytes at an address popped from q1. -/
  | vld1 (f : Fld)
  /-- R200: Stores 16 bytes at an address popped from q0. -/
  | vst (f : Fld)
  /-- R200: Stores 16 bytes at an address popped from q1. -/
  | vst1 (f : Fld)
  /-- R200: Loads one element and broadcasts it. -/
  | vlde (f : Fld)
  /-- R201: Repeats the following L page-1 chains N times. -/
  | vloop (f : Fld)
  /-- R229: Sized load at register plus register. -/
  | ldr (f : Fld)
  /-- R229: Sized store at register plus register. -/
  | str (f : Fld)
  /-- R229: Sized load at register plus scaled immediate. -/
  | ldi (f : Fld)
  /-- R229: Sized store at register plus scaled immediate. -/
  | sti (f : Fld)
  /-- R230: Sends a reservation to the word's home and waits for the grant. -/
  | arsv (f : Fld)
  /-- R230: Writes the held word and ends the hold. -/
  | arel (f : Fld)
  /-- R233: Fused atomic add. -/
  | aadd (f : Fld)
  /-- R233: Fused atomic AND. -/
  | aand (f : Fld)
  /-- R233: Fused atomic OR. -/
  | aor (f : Fld)
  /-- R233: Fused atomic XOR. -/
  | axor (f : Fld)
  /-- R233: Fused atomic signed minimum. -/
  | amin (f : Fld)
  /-- R233: Fused atomic signed maximum. -/
  | amax (f : Fld)
  /-- R233: Fused atomic unsigned minimum. -/
  | aminu (f : Fld)
  /-- R233: Fused atomic unsigned maximum. -/
  | amaxu (f : Fld)
  /-- R233: Fused atomic swap. -/
  | aswap (f : Fld)
  /-- R233: Fused atomic compare-and-swap. -/
  | acas (f : Fld)
  /-- R233: Fused atomic floating-point add. -/
  | afadd (f : Fld)
  /-- R233: Fused atomic floating-point minimum. -/
  | afmin (f : Fld)
  /-- R235: Four-lane atomic add with TAMASK restart. -/
  | vamoAadd (f : Fld)
  /-- R235: Four-lane atomic AND. -/
  | vamoAand (f : Fld)
  /-- R235: Four-lane atomic OR. -/
  | vamoAor (f : Fld)
  /-- R235: Four-lane atomic XOR. -/
  | vamoAxor (f : Fld)
  /-- R235: Four-lane atomic signed minimum. -/
  | vamoAmin (f : Fld)
  /-- R235: Four-lane atomic signed maximum. -/
  | vamoAmax (f : Fld)
  /-- R235: Four-lane atomic unsigned minimum. -/
  | vamoAminu (f : Fld)
  /-- R235: Four-lane atomic unsigned maximum. -/
  | vamoAmaxu (f : Fld)
  /-- R235: Four-lane atomic swap. -/
  | vamoAswap (f : Fld)
  /-- R235: Four-lane atomic compare-and-swap. -/
  | vamoAcas (f : Fld)
  /-- R235: Four-lane atomic floating-point add. -/
  | vamoAfadd (f : Fld)
  /-- R235: Four-lane atomic floating-point minimum. -/
  | vamoAfmin (f : Fld)
  /-- R237: Release then acquire at core scope. -/
  | fenceCore (f : Fld)
  /-- R237: Release then acquire at cluster scope. -/
  | fenceCluster (f : Fld)
  /-- R237: Release then acquire at die scope. -/
  | fenceDie (f : Fld)
  /-- R237: Release then acquire at device scope. -/
  | fenceDevice (f : Fld)
  /-- R237: Release then acquire at system scope. -/
  | fenceSystem (f : Fld)
  /-- R237: Orders alias against loop-back accesses of the own slice. -/
  | fenceLoop (f : Fld)
  /-- R239: Requests a line into the cluster L1 under a lease. -/
  | pref (f : Fld)
  /-- R239: Writes the dirty sectors of an L2 line to DRAM. -/
  | cwb (f : Fld)
  /-- R239: Discards the cluster L1 copy of a line. -/
  | cinv (f : Fld)
  /-- R240: Sets an address-range retention register and reserves L2 ways. -/
  | pin (f : Fld)
  /-- R241: Releases an address-range retention register. -/
  | unpin (f : Fld)
  /-- R239: Sets RH to GTIME. -/
  | lsync (f : Fld)
  /-- R239: Asks the migration engine to place a managed page in a tier. -/
  | migr (f : Fld)
  /-- R265: Reads a request block and queues a global-to-cluster copy. -/
  | cfetch (f : Fld)
  /-- R265: Queues a cluster-to-global copy. -/
  | cstore (f : Fld)
  /-- R265: Queues a push into a slice of the launch. -/
  | csend (f : Fld)
  /-- R278: Queues a multicast to a set of clusters. -/
  | cmcast (f : Fld)
  /-- R277: Queues an indexed row gather. -/
  | cgath (f : Fld)
  /-- R277: Queues an indexed row scatter. -/
  | cscat (f : Fld)
  /-- R279: Records that the cluster has finished with a multicast. -/
  | cfree (f : Fld)
  /-- R281: Queues an AES-GCM sealing copy. -/
  | cseal (f : Fld)
  /-- R281: Queues an AES-GCM opening copy into the own slice. -/
  | copen (f : Fld)
  /-- R283: Activates or deactivates a token queue at its home. -/
  | qinit (f : Fld)
  /-- R286: Requests a permit for the next sequence. -/
  | qprod (f : Fld)
  /-- R286: Records an arrival on the producer's oldest permit. -/
  | qarrive (f : Fld)
  /-- R289: Adds expected bytes to a slot's pending counter. -/
  | qexpect (f : Fld)
  /-- R286: Requests the token of the next sequence. -/
  | qcons (f : Fld)
  /-- R286: Retires the consumer's oldest token. -/
  | qretire (f : Fld)
  /-- R290: Drops a producer from a queue. -/
  | qdrop (f : Fld)
  /-- R287: Returns the queue status word. -/
  | qstat (f : Fld)
  /-- R310: Opens a fibre in a stream register in READ or WRITE mode. -/
  | sopen (f : Fld)
  /-- R312: Closes a stream register. -/
  | sclose (f : Fld)
  /-- R313: Stores a stream register image. -/
  | ssave (f : Fld)
  /-- R313: Loads a stream register image. -/
  | sload (f : Fld)
  /-- R311: Opens the child fibre of the current element. -/
  | schild (f : Fld)
  /-- R314: Makes an intersection combinator and settles it. -/
  | sisect (f : Fld)
  /-- R314: Makes a union combinator. -/
  | sunion (f : Fld)
  /-- R316: Advances a stream or combinator to its next element. -/
  | snext (f : Fld)
  /-- R320: Reads the current coordinate. -/
  | scrd (f : Fld)
  /-- R320: Reads the position or match mask. -/
  | spos (f : Fld)
  /-- R318: Gallops to the first coordinate at least a key. -/
  | sskip (f : Fld)
  /-- R319: Advances a READ register by n positions. -/
  | sskipn (f : Fld)
  /-- R321: Pushes value addresses of live inputs onto a queue. -/
  | svalq (f : Fld)
  /-- R321: Pushes current coordinates onto a queue. -/
  | scrdq (f : Fld)
  /-- R320: Writes a predicate when the stream is exhausted. -/
  | sdone (f : Fld)
  /-- R320: Reads the remaining or appended length. -/
  | slen (f : Fld)
  /-- R322: Pushes up to n value addresses and advances. -/
  | sbatch (f : Fld)
  /-- R321: Loads values of live inputs and pushes them. -/
  | svld (f : Fld)
  /-- R323: Appends a coordinate to a WRITE fibre. -/
  | sapp (f : Fld)
  /-- R323: Stores the value of the last appended element. -/
  | sappv (f : Fld)
  /-- R323: Writes the fibre's end position and closes it. -/
  | sseal (f : Fld)
  /-- R325: Requests membership of a matrix group under a key. -/
  | mconv (f : Fld)
  /-- R326: Leaves or withdraws from a matrix group. -/
  | mleave (f : Fld)
  /-- R345: Job that stores the tile-context image. -/
  | msave (f : Fld)
  /-- R345: Job that replaces the context from an image. -/
  | mrest (f : Fld)
  /-- R332: Reads the job word or a tile status word. -/
  | mstat (f : Fld)
  /-- R340: Job that loads a recurrence microprogram. -/
  | mucode (f : Fld)
  /-- R343: Job that sets TAU, DELTA, BOUND or a tile FRAC. -/
  | msets (f : Fld)
  /-- R346: Reads or empties the pivot log. -/
  | mplog (f : Fld)
  /-- R336: Job that accumulates A x B into a tile. -/
  | mma (f : Fld)
  /-- R337: Job with 2:4 sparse A. -/
  | mmas (f : Fld)
  /-- R338: Job with block-scaled operands. -/
  | mmax (f : Fld)
  /-- R339: Job that runs the group's microprogram recurrence. -/
  | mrec (f : Fld)
  /-- R341: Job that zeroes a tile. -/
  | mzero (f : Fld)
  /-- R341: Job that loads a tile from memory. -/
  | mldt (f : Fld)
  /-- R341: Job that stores a tile to memory. -/
  | mstt (f : Fld)
  /-- R341: Job that transposes a tile. -/
  | mtrans (f : Fld)
  /-- R342: Job that converts a tile's type. -/
  | mcvt (f : Fld)
  /-- R341: Job that sums tile rows. -/
  | mrsum (f : Fld)
  /-- R341: Job that copies a tile. -/
  | mcopy (f : Fld)
  /-- R348: Job that LU-factors a matrix in place. -/
  | mlup (f : Fld)
  /-- R349: Job that Cholesky-factors a matrix. -/
  | mchol (f : Fld)
  /-- R350: Job that solves a triangular system. -/
  | mtrsm (f : Fld)
  /-- R351: Job that checks a QX tile against BOUND. -/
  | mfxchk (f : Fld)
  /-- R358: Places a user message in the send slot after a release. -/
  | send (f : Fld)
  /-- R359: Removes the chosen message or parks. -/
  | recv (f : Fld)
  /-- R360: RECV with a GTIME deadline. -/
  | recvt (f : Fld)
  /-- R361: Copies the chosen message without removing it. -/
  | mpeek (f : Fld)
  /-- R362: Sets or cancels the context's alarm. -/
  | alarm (f : Fld)
  /-- R361: Counts held messages accepted by a mask. -/
  | mcount (f : Fld)
  /-- R364: Sends in a matching time slot or raises SLOTVIOL. -/
  | sends (f : Fld)
  /-- R365: Reads the time to the next slot towards a vcluster. -/
  | slotrd (f : Fld)
  /-- R367: Arrives in a domain, advances VT and checkpoints. -/
  | dsync (f : Fld)
  /-- R367: DSYNC that then waits until not speculative. -/
  | dsyncw (f : Fld)
  /-- R371: Reads the domain phase and arrival bits. -/
  | dphase (f : Fld)
  /-- R366: Arrives conditionally in a domain. -/
  | dcomm (f : Fld)
  /-- R371: Reads the result of the domain's last circuit. -/
  | dprobe (f : Fld)
  /-- R372: Reads, forms or dissolves a domain level. -/
  | dlevel (f : Fld)
  /-- R374: Appends a child launch record to a DEVAPP queue. -/
  | launch (f : Fld)
  /-- R382: Enqueues a timestamped task at the task leader. -/
  | tenq (f : Fld)
  /-- R383: Takes the least-key pending task and checkpoints. -/
  | tnext (f : Fld)
  /-- R384: Finishes the held task and makes the thread idle. -/
  | tdone (f : Fld)
  /-- R385: Aborts a speculative thread to its checkpoint. -/
  | tabort (f : Fld)
  /-- R386: Reads VT or the speculation status word. -/
  | vtrd (f : Fld)
  /-- R386: Reads the GVT of a domain. -/
  | gvtrd (f : Fld)
  /-- R386: Disables speculative issue. -/
  | spoff (f : Fld)
  /-- R386: Enables speculative issue. -/
  | spon (f : Fld)
  /-- R414: Raises SWTRAP with an immediate. -/
  | trap (f : Fld)
  /-- R394: Returns from the innermost handler. -/
  | eret (f : Fld)
  /-- R415: Reads a system register by number. -/
  | rdsr (f : Fld)
  /-- R415: Writes a system register by number. -/
  | wrsr (f : Fld)
  /-- R416: Removes the translation of one page device-wide. -/
  | tlbinv (f : Fld)
  /-- R416: Removes every translation of an address space. -/
  | tlbinva (f : Fld)
  /-- R417: Writes a context's thread record and makes it SAVED. -/
  | ctxsave (f : Fld)
  /-- R417: Reads a thread record into a context. -/
  | ctxrest (f : Fld)
  /-- R418: Reads a word of a coprocessor-ring entry. -/
  | ringrd (f : Fld)
  /-- R405: Resumes a frozen master or makes it raise PROT. -/
  | thaw (f : Fld)
  /-- R414: Raises BRK. -/
  | ebrk (f : Fld)
  /-- R406: Ends a master in any state. -/
  | kill (f : Fld)
deriving DecidableEq, Repr

end Sys2Proof
end

