-- ==== Sys2Proof/Decode.lean ====
section
/-! DEFINITION. The decoder of word chains in the check order of R88, the encoding tables of R89 and the rules that give
each field its class, and the encoder written from the same tables. -/

namespace Sys2Proof

/-- The layouts of a base word (R79): A, B, C, D and E; Ci is C with the immediate in b (LD, ST, LDI, STI); N has eight
immediate bits below fn (TRAP). -/
inductive Fmt where
  | A | B | C | Ci | D | E | N
deriving DecidableEq, Repr

/-- What a field holds: a register class of R80, or a pair or run of one; a field that must be 0; raw bits; raw bits of which
only the values in a mask are allowed; the page-5 operands, a vector pair when the source bit is set; nothing. -/
inductive Cls where
  | lack | raw | zero | sel (mask : Nat)
  | w | wp | w5 | v | v2 | v3 | p | s | t | q01 | q23 | op5a | op5b
deriving DecidableEq, Repr

/-- The mode columns of R188. -/
inductive ModeRule where
  | ws | none | int | float | any
deriving DecidableEq, Repr

/-- What ext6 means on an instruction (R86): nothing; a vector type out of a mask and a mode rule; VCVT; the sized accesses of
R222; the page-5 input types out of a mask (R336 to R339) and the tile type (R333). -/
inductive Ext where
  | none | vec (types : Nat) (m : ModeRule) | vcvt
  | ld | st | amo | amof | vamo | vamof
  | mma (types : Nat) | mmas (types : Nat) | mmem (types : Nat) | tile
deriving DecidableEq, Repr

/-- The PXH layout of an instruction (R87, R223, R333): none allowed; memory; memory with every bit reserved; memory with
notify; vector. -/
inductive Hint where
  | none | mem | mem0 | note | vec
deriving DecidableEq, Repr

/-- A base-word value that the description excludes beyond its fields' classes (check 7): a shift amount above 63 (R130), an
ENTRY size above 64 (R145), streams that are not distinct (R309), the part and types of VCVT (R195). -/
inductive Excl where
  | none | shift | entry | distinct | vcvt
deriving DecidableEq, Repr

/-- One row of the encoding tables; `id` counts the rows of its page. -/
structure Row where
  page : Nat
  maj : Nat
  fn : Option Nat := none
  fmt : Fmt
  ca : Cls := .lack
  cb : Cls := .lack
  cd : Cls := .lack
  ext : Ext := .none
  hint : Hint := .none
  xp : Bool := false
  excl : Excl := .none
  id : Nat
deriving DecidableEq, Repr

/-! ## Field classes -/

/-- Does the field name a register, so that a PXR extends it (R84)? -/
def Cls.isReg : Cls → Bool
  | .lack | .raw | .zero | .sel _ => false
  | _ => true

/-- The first register number past the class, runs included (R80, R333). -/
def Cls.lim (c : Cls) (ext : BitVec 6) : Nat :=
  match c with
  | .wp => 63
  | .w5 => 60
  | .v => 24
  | .v2 => 23
  | .v3 => 22
  | .p | .s | .t => 8
  | .q01 | .q23 => 4
  | .op5a => if ext.getLsbD 1 then 23 else 63
  | .op5b => if ext.getLsbD 0 then 23 else 63
  | _ => 64

/-- A value of the field that check 7 refuses: a field that must be 0, a value outside the allowed ones, a queue named in the
wrong direction (R112). -/
def Cls.bad7 (c : Cls) (v : Nat) : Bool :=
  match c with
  | .zero => v != 0
  | .sel m => !m.testBit v
  | .q01 => v == 2 || v == 3
  | .q23 => v == 0 || v == 1
  | _ => false

/-- The immediate field that a PXI widens (R83, R89): its width in the base word, or 0 for none. -/
def Fmt.immBits : Fmt → Nat
  | .E | .Ci => 4
  | .B | .N => 8
  | .D => 9
  | _ => 0

/-! ## Types and ext6 -/

/-- Integer type codes: I8 to I64 and N8 to N64 (R188). -/
def tyIsInt (t : Nat) : Bool := t < 8
/-- Float type codes: F32, BF16 and F16. -/
def tyIsFloat (t : Nat) : Bool := t == 8 || t == 9 || t == 10
/-- The width in bits of a type code (R151). -/
def tyWidth (t : Nat) : Nat :=
  match t with
  | 0 | 4 => 8
  | 1 | 5 => 16
  | 2 | 6 => 32
  | 3 | 7 => 64
  | 8 => 32
  | 9 | 10 => 16
  | 11 | 12 => 8
  | 13 => 4
  | 14 => 32
  | _ => 8

/-- Is the mode a reserved value for this type (R188)? A nonzero one always is where the mode bits are reserved, also beside type 0xF; for
QX the bits have no meaning outside VCVT. -/
def ModeRule.bad (m : ModeRule) (t mode : Nat) : Bool :=
  if mode == 0 then false
  else if tyIsInt t && mode ≥ 2 then true
  else match m with
    | .ws => t == 14
    | .none => true
    | .int => t != 15 && !tyIsInt t
    | .float => t != 15 && !tyIsFloat t
    | .any => t == 14

/-- Check 4 on ext6: a bit without a meaning for the instruction (R86, R222). -/
def Ext.bad4 (e : Ext) (x : Nat) : Bool :=
  let size := x / 16
  let sign := x / 8 % 2
  let ord := x / 2 % 4
  let low := x % 2
  match e with
  | .none => x != 0
  | .vec _ m => m.bad (x / 4) (x % 4)
  | .vcvt => tyIsInt (x / 4) && x % 4 ≥ 2
  | .ld => low != 0 || (sign == 1 && size == 3) || ord == 2
  | .st => low != 0 || sign != 0 || ord == 1
  | .amo => low != 0 || (sign == 1 && size == 3)
  | .amof => low != 0 || !(size == 1 || size == 2)
  | .vamo => low != 0 || size == 3
  | .vamof => low != 0 || !(size == 1 || size == 2)
  | _ => false

/-- Check 9 on the type (R86, R188, R195, R333, R336 to R339): 0 passes, 1 is reported at the PXP, 2 at the base word. A VCVT
that pairs QX with a type other than a float is reported at the word that names the type beside QX (R195; log entry 23). -/
def Ext.bad9 (e : Ext) (x ts : Nat) : Nat :=
  let t := x / 4
  match e with
  | .vec m _ => if m.testBit t then 0 else 1
  | .vcvt =>
    if t == 15 then 1
    else if ts == 15 then 2
    else if t == 14 && !tyIsFloat ts then 2
    else if ts == 14 && !tyIsFloat t then 1
    else 0
  | .mma m => if m.testBit t && !(t == 14 && x % 4 != 0) then 0 else 1
  | .mmas m => if m.testBit t && x / 2 % 2 == 0 then 0 else 1
  | .mmem m => if m.testBit t && x % 4 == 0 then 0 else 1
  | .tile => if (t == 8 || t == 2 || t == 14) && x % 4 == 0 then 0 else 1
  | _ => 0

/-- The bits of a PXH that are reserved in a layout (R87, R223). -/
def Hint.reserved : Hint → Nat
  | .none => 0
  | .mem => 0x0FF
  | .mem0 => 0x3FF
  | .note => 0x07F
  | .vec => 0x3FC

/-- A base-word value the description excludes (check 7). -/
def Excl.bad (e : Excl) (f : Fld) : Bool :=
  match e with
  | .none => false
  | .shift => 63 < f.imm.toNat
  | .entry => 64 < f.a.toNat * 16 + f.b.toNat
  | .distinct => f.d == f.a || f.d == f.b || f.a == f.b
  | .vcvt =>
    let td := f.ext.toNat / 4
    let ts := f.b.toNat
    if td == ts then true
    else if td == 15 || ts == 15 then false
    else
      let wd := tyWidth td
      let ws := tyWidth ts
      f.d.toNat > (if ws < wd then wd / ws else ws / wd) - 1

/-! ## The rows -/

def rowAdd : Row := { page := 0, maj := 0, fn := some 0, fmt := .A, ca := .w, cb := .w, id := 0 }
def rowSub : Row := { page := 0, maj := 0, fn := some 1, fmt := .A, ca := .w, cb := .w, id := 1 }
def rowAnd : Row := { page := 0, maj := 0, fn := some 2, fmt := .A, ca := .w, cb := .w, id := 2 }
def rowOr : Row := { page := 0, maj := 0, fn := some 3, fmt := .A, ca := .w, cb := .w, id := 3 }
def rowXor : Row := { page := 0, maj := 0, fn := some 4, fmt := .A, ca := .w, cb := .w, id := 4 }
def rowShl : Row := { page := 0, maj := 0, fn := some 5, fmt := .A, ca := .w, cb := .w, id := 5 }
def rowShr : Row := { page := 0, maj := 0, fn := some 6, fmt := .A, ca := .w, cb := .w, id := 6 }
def rowSra : Row := { page := 0, maj := 0, fn := some 7, fmt := .A, ca := .w, cb := .w, id := 7 }
def rowMul : Row := { page := 0, maj := 0, fn := some 8, fmt := .A, ca := .w, cb := .w, id := 8 }
def rowMulh : Row := { page := 0, maj := 0, fn := some 9, fmt := .A, ca := .w, cb := .w, id := 9 }
def rowMulhu : Row := { page := 0, maj := 0, fn := some 10, fmt := .A, ca := .w, cb := .w, id := 10 }
def rowMin : Row := { page := 0, maj := 0, fn := some 11, fmt := .A, ca := .w, cb := .w, id := 11 }
def rowMax : Row := { page := 0, maj := 0, fn := some 12, fmt := .A, ca := .w, cb := .w, id := 12 }
def rowMinu : Row := { page := 0, maj := 0, fn := some 13, fmt := .A, ca := .w, cb := .w, id := 13 }
def rowMaxu : Row := { page := 0, maj := 0, fn := some 14, fmt := .A, ca := .w, cb := .w, id := 14 }
def rowMov : Row := { page := 0, maj := 0, fn := some 15, fmt := .A, ca := .w, cb := .w, id := 15 }
def rowAddi : Row := { page := 0, maj := 1, fmt := .B, ca := .w, id := 16 }
def rowLi : Row := { page := 0, maj := 2, fmt := .B, ca := .w, id := 17 }
def rowShli : Row := { page := 0, maj := 3, fn := some 0, fmt := .E, ca := .w, excl := .shift, id := 18 }
def rowShri : Row := { page := 0, maj := 3, fn := some 1, fmt := .E, ca := .w, excl := .shift, id := 19 }
def rowSrai : Row := { page := 0, maj := 3, fn := some 2, fmt := .E, ca := .w, excl := .shift, id := 20 }
def rowAndi : Row := { page := 0, maj := 3, fn := some 3, fmt := .E, ca := .w, id := 21 }
def rowOri : Row := { page := 0, maj := 3, fn := some 4, fmt := .E, ca := .w, id := 22 }
def rowXori : Row := { page := 0, maj := 3, fn := some 5, fmt := .E, ca := .w, id := 23 }
def rowMuli : Row := { page := 0, maj := 3, fn := some 6, fmt := .E, ca := .w, id := 24 }
def rowDiv : Row := { page := 0, maj := 4, fn := some 0, fmt := .A, ca := .w, cb := .w, id := 25 }
def rowDivu : Row := { page := 0, maj := 4, fn := some 1, fmt := .A, ca := .w, cb := .w, id := 26 }
def rowRem : Row := { page := 0, maj := 4, fn := some 2, fmt := .A, ca := .w, cb := .w, id := 27 }
def rowRemu : Row := { page := 0, maj := 4, fn := some 3, fmt := .A, ca := .w, cb := .w, id := 28 }
def rowClz : Row := { page := 0, maj := 4, fn := some 4, fmt := .A, ca := .w, cb := .w, id := 29 }
def rowCtz : Row := { page := 0, maj := 4, fn := some 5, fmt := .A, ca := .w, cb := .w, id := 30 }
def rowPopc : Row := { page := 0, maj := 4, fn := some 6, fmt := .A, ca := .w, cb := .w, id := 31 }
def rowBrev : Row := { page := 0, maj := 4, fn := some 7, fmt := .A, ca := .w, cb := .w, id := 32 }
def rowSextb : Row := { page := 0, maj := 4, fn := some 8, fmt := .A, ca := .w, cb := .w, id := 33 }
def rowSexth : Row := { page := 0, maj := 4, fn := some 9, fmt := .A, ca := .w, cb := .w, id := 34 }
def rowSextw : Row := { page := 0, maj := 4, fn := some 10, fmt := .A, ca := .w, cb := .w, id := 35 }
def rowZextb : Row := { page := 0, maj := 4, fn := some 11, fmt := .A, ca := .w, cb := .w, id := 36 }
def rowZexth : Row := { page := 0, maj := 4, fn := some 12, fmt := .A, ca := .w, cb := .w, id := 37 }
def rowZextw : Row := { page := 0, maj := 4, fn := some 13, fmt := .A, ca := .w, cb := .w, id := 38 }
def rowAbs : Row := { page := 0, maj := 4, fn := some 14, fmt := .A, ca := .w, cb := .w, id := 39 }
def rowNeg : Row := { page := 0, maj := 4, fn := some 15, fmt := .A, ca := .w, cb := .w, id := 40 }
def rowEq : Row := { page := 0, maj := 5, fn := some 0, fmt := .A, ca := .w, cb := .w, xp := true, id := 41 }
def rowNe : Row := { page := 0, maj := 5, fn := some 1, fmt := .A, ca := .w, cb := .w, xp := true, id := 42 }
def rowLt : Row := { page := 0, maj := 5, fn := some 2, fmt := .A, ca := .w, cb := .w, xp := true, id := 43 }
def rowGe : Row := { page := 0, maj := 5, fn := some 3, fmt := .A, ca := .w, cb := .w, xp := true, id := 44 }
def rowLtu : Row := { page := 0, maj := 5, fn := some 4, fmt := .A, ca := .w, cb := .w, xp := true, id := 45 }
def rowGeu : Row := { page := 0, maj := 5, fn := some 5, fmt := .A, ca := .w, cb := .w, xp := true, id := 46 }
def rowTst : Row := { page := 0, maj := 5, fn := some 6, fmt := .A, ca := .w, cb := .w, xp := true, id := 47 }
def rowTstn : Row := { page := 0, maj := 5, fn := some 7, fmt := .A, ca := .w, cb := .w, xp := true, id := 48 }
def rowEqi : Row := { page := 0, maj := 6, fn := some 0, fmt := .E, ca := .w, xp := true, id := 49 }
def rowNei : Row := { page := 0, maj := 6, fn := some 1, fmt := .E, ca := .w, xp := true, id := 50 }
def rowLti : Row := { page := 0, maj := 6, fn := some 2, fmt := .E, ca := .w, xp := true, id := 51 }
def rowGei : Row := { page := 0, maj := 6, fn := some 3, fmt := .E, ca := .w, xp := true, id := 52 }
def rowLtui : Row := { page := 0, maj := 6, fn := some 4, fmt := .E, ca := .w, xp := true, id := 53 }
def rowGeui : Row := { page := 0, maj := 6, fn := some 5, fmt := .E, ca := .w, xp := true, id := 54 }
def rowPand : Row := { page := 0, maj := 7, fn := some 0, fmt := .A, ca := .p, cb := .p, id := 55 }
def rowPor : Row := { page := 0, maj := 7, fn := some 1, fmt := .A, ca := .p, cb := .p, id := 56 }
def rowPxor : Row := { page := 0, maj := 7, fn := some 2, fmt := .A, ca := .p, cb := .p, id := 57 }
def rowPnot : Row := { page := 0, maj := 7, fn := some 3, fmt := .A, ca := .p, cb := .p, id := 58 }
def rowPmov : Row := { page := 0, maj := 7, fn := some 4, fmt := .A, ca := .p, cb := .p, id := 59 }
def rowPset : Row := { page := 0, maj := 7, fn := some 5, fmt := .A, ca := .p, cb := .zero, id := 60 }
def rowPclr : Row := { page := 0, maj := 7, fn := some 6, fmt := .A, ca := .p, cb := .zero, id := 61 }
def rowPsel : Row := { page := 0, maj := 7, fn := some 7, fmt := .A, ca := .p, cb := .p, id := 62 }
def rowPrdw : Row := { page := 0, maj := 7, fn := some 8, fmt := .A, ca := .w, cb := .zero, id := 63 }
def rowPwrw : Row := { page := 0, maj := 7, fn := some 9, fmt := .A, ca := .zero, cb := .w, id := 64 }
def rowLd : Row := { page := 0, maj := 8, fmt := .Ci, ca := .w, cd := .w, hint := .mem, id := 65 }
def rowSt : Row := { page := 0, maj := 9, fmt := .Ci, ca := .w, cd := .w, hint := .mem, id := 66 }
def rowCmov : Row := { page := 0, maj := 10, fmt := .C, ca := .w, cb := .w, cd := .raw, id := 67 }
def rowCall : Row := { page := 0, maj := 11, fmt := .B, ca := .sel 0xFFFE, id := 68 }
def rowBr : Row := { page := 0, maj := 12, fmt := .D, ca := .raw, id := 69 }
def rowBrn : Row := { page := 0, maj := 13, fmt := .D, ca := .sel 0xFE, id := 70 }
def rowNop : Row := { page := 0, maj := 14, fn := some 0, fmt := .A, ca := .zero, cb := .zero, id := 71 }
def rowJmpr : Row := { page := 0, maj := 14, fn := some 1, fmt := .A, ca := .w, cb := .zero, id := 72 }
def rowCallr : Row := { page := 0, maj := 14, fn := some 2, fmt := .A, ca := .w, cb := .sel 0xFFFE, id := 73 }
def rowRet : Row := { page := 0, maj := 14, fn := some 3, fmt := .A, ca := .zero, cb := .zero, id := 74 }
def rowLpc : Row := { page := 0, maj := 14, fn := some 4, fmt := .E, ca := .w, id := 75 }
def rowYield : Row := { page := 0, maj := 14, fn := some 5, fmt := .A, ca := .zero, cb := .zero, id := 76 }
def rowQput : Row := { page := 0, maj := 14, fn := some 6, fmt := .A, ca := .q01, cb := .w, id := 77 }
def rowQget : Row := { page := 0, maj := 14, fn := some 7, fmt := .A, ca := .w, cb := .q23, id := 78 }
def rowEntry : Row := { page := 0, maj := 14, fn := some 8, fmt := .A, ca := .raw, cb := .raw, excl := .entry, id := 79 }
def rowVwait : Row := { page := 0, maj := 14, fn := some 9, fmt := .A, ca := .zero, cb := .zero, id := 80 }
def rowGtime : Row := { page := 0, maj := 14, fn := some 10, fmt := .A, ca := .w, cb := .zero, id := 81 }
def rowTid : Row := { page := 0, maj := 14, fn := some 11, fmt := .A, ca := .w, cb := .zero, id := 82 }
def rowVadd : Row := { page := 1, maj := 0, fn := some 0, fmt := .A, ca := .v, cb := .v, ext := .vec 0x47FF .ws, hint := .vec, id := 0 }
def rowVsub : Row := { page := 1, maj := 0, fn := some 1, fmt := .A, ca := .v, cb := .v, ext := .vec 0x47FF .ws, hint := .vec, id := 1 }
def rowVmul : Row := { page := 1, maj := 0, fn := some 2, fmt := .A, ca := .v, cb := .v, ext := .vec 0x07FF .ws, hint := .vec, id := 2 }
def rowVmulh : Row := { page := 1, maj := 0, fn := some 3, fmt := .A, ca := .v, cb := .v, ext := .vec 0x00FF .none, hint := .vec, id := 3 }
def rowVmin : Row := { page := 1, maj := 0, fn := some 4, fmt := .A, ca := .v, cb := .v, ext := .vec 0x47FF .none, hint := .vec, id := 4 }
def rowVmax : Row := { page := 1, maj := 0, fn := some 5, fmt := .A, ca := .v, cb := .v, ext := .vec 0x47FF .none, hint := .vec, id := 5 }
def rowVand : Row := { page := 1, maj := 0, fn := some 6, fmt := .A, ca := .v, cb := .v, ext := .vec 0x7FFF .none, hint := .vec, id := 6 }
def rowVor : Row := { page := 1, maj := 0, fn := some 7, fmt := .A, ca := .v, cb := .v, ext := .vec 0x7FFF .none, hint := .vec, id := 7 }
def rowVxor : Row := { page := 1, maj := 0, fn := some 8, fmt := .A, ca := .v, cb := .v, ext := .vec 0x7FFF .none, hint := .vec, id := 8 }
def rowVshl : Row := { page := 1, maj := 0, fn := some 9, fmt := .A, ca := .v, cb := .v, ext := .vec 0x00FF .ws, hint := .vec, id := 9 }
def rowVshr : Row := { page := 1, maj := 0, fn := some 10, fmt := .A, ca := .v, cb := .v, ext := .vec 0x00FF .none, hint := .vec, id := 10 }
def rowVsra : Row := { page := 1, maj := 0, fn := some 11, fmt := .A, ca := .v, cb := .v, ext := .vec 0x000F .none, hint := .vec, id := 11 }
def rowVabs : Row := { page := 1, maj := 0, fn := some 12, fmt := .A, ca := .v, cb := .v, ext := .vec 0x47FF .int, hint := .vec, id := 12 }
def rowVneg : Row := { page := 1, maj := 0, fn := some 13, fmt := .A, ca := .v, cb := .v, ext := .vec 0x47FF .int, hint := .vec, id := 13 }
def rowVmov : Row := { page := 1, maj := 0, fn := some 14, fmt := .A, ca := .v, cb := .v, ext := .vec 0x7FFF .none, hint := .vec, id := 14 }
def rowVavg : Row := { page := 1, maj := 0, fn := some 15, fmt := .A, ca := .v, cb := .v, ext := .vec 0x47FF .float, hint := .vec, id := 15 }
def rowVfma : Row := { page := 1, maj := 1, fmt := .C, ca := .v, cb := .v, cd := .v, ext := .vec 0x07FF .ws, hint := .vec, id := 16 }
def rowVfms : Row := { page := 1, maj := 2, fmt := .C, ca := .v, cb := .v, cd := .v, ext := .vec 0x07FF .ws, hint := .vec, id := 17 }
def rowVeq : Row := { page := 1, maj := 3, fn := some 0, fmt := .A, ca := .v, cb := .v, ext := .vec 0x47FF .none, hint := .vec, id := 18 }
def rowVne : Row := { page := 1, maj := 3, fn := some 1, fmt := .A, ca := .v, cb := .v, ext := .vec 0x47FF .none, hint := .vec, id := 19 }
def rowVlt : Row := { page := 1, maj := 3, fn := some 2, fmt := .A, ca := .v, cb := .v, ext := .vec 0x47FF .none, hint := .vec, id := 20 }
def rowVge : Row := { page := 1, maj := 3, fn := some 3, fmt := .A, ca := .v, cb := .v, ext := .vec 0x47FF .none, hint := .vec, id := 21 }
def rowVle : Row := { page := 1, maj := 3, fn := some 4, fmt := .A, ca := .v, cb := .v, ext := .vec 0x47FF .none, hint := .vec, id := 22 }
def rowVgt : Row := { page := 1, maj := 3, fn := some 5, fmt := .A, ca := .v, cb := .v, ext := .vec 0x47FF .none, hint := .vec, id := 23 }
def rowVunord : Row := { page := 1, maj := 3, fn := some 6, fmt := .A, ca := .v, cb := .v, ext := .vec 0x0700 .none, hint := .vec, id := 24 }
def rowVord : Row := { page := 1, maj := 3, fn := some 7, fmt := .A, ca := .v, cb := .v, ext := .vec 0x0700 .none, hint := .vec, id := 25 }
def rowVsel : Row := { page := 1, maj := 4, fmt := .C, ca := .v, cb := .v, cd := .v, ext := .vec 0x7FFF .none, hint := .vec, id := 26 }
def rowVrcp : Row := { page := 1, maj := 5, fn := some 0, fmt := .A, ca := .v, cb := .v, ext := .vec 0x0700 .any, hint := .vec, id := 27 }
def rowVrsq : Row := { page := 1, maj := 5, fn := some 1, fmt := .A, ca := .v, cb := .v, ext := .vec 0x0700 .any, hint := .vec, id := 28 }
def rowVrcpr : Row := { page := 1, maj := 5, fn := some 2, fmt := .A, ca := .v, cb := .v, ext := .vec 0x0700 .any, hint := .vec, id := 29 }
def rowVrsqr : Row := { page := 1, maj := 5, fn := some 3, fmt := .A, ca := .v, cb := .v, ext := .vec 0x0700 .any, hint := .vec, id := 30 }
def rowVexp2 : Row := { page := 1, maj := 5, fn := some 4, fmt := .A, ca := .v, cb := .v, ext := .vec 0x0700 .any, hint := .vec, id := 31 }
def rowVlog2 : Row := { page := 1, maj := 5, fn := some 5, fmt := .A, ca := .v, cb := .v, ext := .vec 0x0700 .any, hint := .vec, id := 32 }
def rowVsqrt : Row := { page := 1, maj := 5, fn := some 6, fmt := .A, ca := .v, cb := .v, ext := .vec 0x0700 .any, hint := .vec, id := 33 }
def rowVdiv : Row := { page := 1, maj := 5, fn := some 7, fmt := .A, ca := .v, cb := .v, ext := .vec 0x0700 .any, hint := .vec, id := 34 }
def rowVfloor : Row := { page := 1, maj := 5, fn := some 8, fmt := .A, ca := .v, cb := .v, ext := .vec 0x0700 .any, hint := .vec, id := 35 }
def rowVceil : Row := { page := 1, maj := 5, fn := some 9, fmt := .A, ca := .v, cb := .v, ext := .vec 0x0700 .any, hint := .vec, id := 36 }
def rowVrndn : Row := { page := 1, maj := 5, fn := some 10, fmt := .A, ca := .v, cb := .v, ext := .vec 0x0700 .any, hint := .vec, id := 37 }
def rowVtrunc : Row := { page := 1, maj := 5, fn := some 11, fmt := .A, ca := .v, cb := .v, ext := .vec 0x0700 .any, hint := .vec, id := 38 }
def rowVclass : Row := { page := 1, maj := 5, fn := some 12, fmt := .A, ca := .v, cb := .v, ext := .vec 0x0700 .none, hint := .vec, id := 39 }
def rowVcvt : Row := { page := 1, maj := 6, fmt := .C, ca := .v, cb := .raw, cd := .raw, ext := .vcvt, hint := .vec, excl := .vcvt, id := 40 }
def rowVshuf : Row := { page := 1, maj := 7, fn := some 0, fmt := .A, ca := .v, cb := .v, ext := .vec 0x5FFF .none, hint := .vec, id := 41 }
def rowVbcast : Row := { page := 1, maj := 7, fn := some 1, fmt := .A, ca := .v, cb := .v, ext := .vec 0x7FFF .none, hint := .vec, id := 42 }
def rowVzipl : Row := { page := 1, maj := 7, fn := some 2, fmt := .A, ca := .v, cb := .v, ext := .vec 0x7FFF .none, hint := .vec, id := 43 }
def rowVziph : Row := { page := 1, maj := 7, fn := some 3, fmt := .A, ca := .v, cb := .v, ext := .vec 0x7FFF .none, hint := .vec, id := 44 }
def rowVuzpl : Row := { page := 1, maj := 7, fn := some 4, fmt := .A, ca := .v, cb := .v, ext := .vec 0x7FFF .none, hint := .vec, id := 45 }
def rowVuzph : Row := { page := 1, maj := 7, fn := some 5, fmt := .A, ca := .v, cb := .v, ext := .vec 0x7FFF .none, hint := .vec, id := 46 }
def rowVrsum : Row := { page := 1, maj := 7, fn := some 6, fmt := .A, ca := .v, cb := .v, ext := .vec 0x7FFF .ws, hint := .vec, id := 47 }
def rowVrmin : Row := { page := 1, maj := 7, fn := some 7, fmt := .A, ca := .v, cb := .v, ext := .vec 0x7FFF .none, hint := .vec, id := 48 }
def rowVrmax : Row := { page := 1, maj := 7, fn := some 8, fmt := .A, ca := .v, cb := .v, ext := .vec 0x7FFF .none, hint := .vec, id := 49 }
def rowVdot : Row := { page := 1, maj := 7, fn := some 9, fmt := .A, ca := .v, cb := .v, ext := .vec 0x3E33 .ws, hint := .vec, id := 50 }
def rowVsplat : Row := { page := 1, maj := 8, fn := some 0, fmt := .A, ca := .v, cb := .q01, ext := .vec 0x7FFF .none, hint := .vec, id := 51 }
def rowVputq : Row := { page := 1, maj := 8, fn := some 1, fmt := .A, ca := .q23, cb := .v, ext := .vec 0x7FFF .none, hint := .vec, id := 52 }
def rowVputqh : Row := { page := 1, maj := 8, fn := some 2, fmt := .A, ca := .q23, cb := .v, ext := .vec 0x7FFF .none, hint := .vec, id := 53 }
def rowVgetq2 : Row := { page := 1, maj := 8, fn := some 3, fmt := .A, ca := .v, cb := .q01, ext := .vec 0x7FFF .none, hint := .vec, id := 54 }
def rowVld : Row := { page := 1, maj := 9, fn := some 0, fmt := .E, ca := .v, ext := .vec 0x7FFF .none, hint := .mem, id := 55 }
def rowVld1 : Row := { page := 1, maj := 9, fn := some 1, fmt := .E, ca := .v, ext := .vec 0x7FFF .none, hint := .mem, id := 56 }
def rowVst : Row := { page := 1, maj := 9, fn := some 2, fmt := .E, ca := .v, ext := .vec 0x7FFF .none, hint := .mem, id := 57 }
def rowVst1 : Row := { page := 1, maj := 9, fn := some 3, fmt := .E, ca := .v, ext := .vec 0x7FFF .none, hint := .mem, id := 58 }
def rowVlde : Row := { page := 1, maj := 9, fn := some 4, fmt := .E, ca := .v, ext := .vec 0x5FFF .none, hint := .mem, id := 59 }
def rowVloop : Row := { page := 1, maj := 10, fmt := .B, ca := .sel 0xFFFE, ext := .vec 0x0001 .none, hint := .vec, id := 60 }
def rowLdr : Row := { page := 2, maj := 0, fmt := .C, ca := .w, cb := .w, cd := .w, ext := .ld, hint := .mem, id := 0 }
def rowStr : Row := { page := 2, maj := 1, fmt := .C, ca := .w, cb := .w, cd := .w, ext := .st, hint := .mem, id := 1 }
def rowLdi : Row := { page := 2, maj := 2, fmt := .Ci, ca := .w, cd := .w, ext := .ld, hint := .mem, id := 2 }
def rowSti : Row := { page := 2, maj := 3, fmt := .Ci, ca := .w, cd := .w, ext := .st, hint := .mem, id := 3 }
def rowArsv : Row := { page := 2, maj := 4, fmt := .C, ca := .w, cb := .w, cd := .w, ext := .ld, hint := .mem, id := 4 }
def rowArel : Row := { page := 2, maj := 5, fmt := .C, ca := .w, cb := .w, cd := .w, ext := .st, hint := .mem, id := 5 }
def rowAadd : Row := { page := 2, maj := 6, fn := some 0, fmt := .A, ca := .w, cb := .w, ext := .amo, hint := .mem, id := 6 }
def rowAand : Row := { page := 2, maj := 6, fn := some 1, fmt := .A, ca := .w, cb := .w, ext := .amo, hint := .mem, id := 7 }
def rowAor : Row := { page := 2, maj := 6, fn := some 2, fmt := .A, ca := .w, cb := .w, ext := .amo, hint := .mem, id := 8 }
def rowAxor : Row := { page := 2, maj := 6, fn := some 3, fmt := .A, ca := .w, cb := .w, ext := .amo, hint := .mem, id := 9 }
def rowAmin : Row := { page := 2, maj := 6, fn := some 4, fmt := .A, ca := .w, cb := .w, ext := .amo, hint := .mem, id := 10 }
def rowAmax : Row := { page := 2, maj := 6, fn := some 5, fmt := .A, ca := .w, cb := .w, ext := .amo, hint := .mem, id := 11 }
def rowAminu : Row := { page := 2, maj := 6, fn := some 6, fmt := .A, ca := .w, cb := .w, ext := .amo, hint := .mem, id := 12 }
def rowAmaxu : Row := { page := 2, maj := 6, fn := some 7, fmt := .A, ca := .w, cb := .w, ext := .amo, hint := .mem, id := 13 }
def rowAswap : Row := { page := 2, maj := 6, fn := some 8, fmt := .A, ca := .w, cb := .w, ext := .amo, hint := .mem, id := 14 }
def rowAcas : Row := { page := 2, maj := 6, fn := some 9, fmt := .A, ca := .w, cb := .wp, ext := .amo, hint := .mem, id := 15 }
def rowAfadd : Row := { page := 2, maj := 6, fn := some 10, fmt := .A, ca := .w, cb := .w, ext := .amof, hint := .mem, id := 16 }
def rowAfmin : Row := { page := 2, maj := 6, fn := some 11, fmt := .A, ca := .w, cb := .w, ext := .amof, hint := .mem, id := 17 }
def rowVamoAadd : Row := { page := 2, maj := 7, fn := some 0, fmt := .A, ca := .w, cb := .v2, ext := .vamo, hint := .mem, id := 18 }
def rowVamoAand : Row := { page := 2, maj := 7, fn := some 1, fmt := .A, ca := .w, cb := .v2, ext := .vamo, hint := .mem, id := 19 }
def rowVamoAor : Row := { page := 2, maj := 7, fn := some 2, fmt := .A, ca := .w, cb := .v2, ext := .vamo, hint := .mem, id := 20 }
def rowVamoAxor : Row := { page := 2, maj := 7, fn := some 3, fmt := .A, ca := .w, cb := .v2, ext := .vamo, hint := .mem, id := 21 }
def rowVamoAmin : Row := { page := 2, maj := 7, fn := some 4, fmt := .A, ca := .w, cb := .v2, ext := .vamo, hint := .mem, id := 22 }
def rowVamoAmax : Row := { page := 2, maj := 7, fn := some 5, fmt := .A, ca := .w, cb := .v2, ext := .vamo, hint := .mem, id := 23 }
def rowVamoAminu : Row := { page := 2, maj := 7, fn := some 6, fmt := .A, ca := .w, cb := .v2, ext := .vamo, hint := .mem, id := 24 }
def rowVamoAmaxu : Row := { page := 2, maj := 7, fn := some 7, fmt := .A, ca := .w, cb := .v2, ext := .vamo, hint := .mem, id := 25 }
def rowVamoAswap : Row := { page := 2, maj := 7, fn := some 8, fmt := .A, ca := .w, cb := .v2, ext := .vamo, hint := .mem, id := 26 }
def rowVamoAcas : Row := { page := 2, maj := 7, fn := some 9, fmt := .A, ca := .w, cb := .v3, ext := .vamo, hint := .mem, id := 27 }
def rowVamoAfadd : Row := { page := 2, maj := 7, fn := some 10, fmt := .A, ca := .w, cb := .v2, ext := .vamof, hint := .mem, id := 28 }
def rowVamoAfmin : Row := { page := 2, maj := 7, fn := some 11, fmt := .A, ca := .w, cb := .v2, ext := .vamof, hint := .mem, id := 29 }
def rowFenceCore : Row := { page := 2, maj := 8, fn := some 0, fmt := .A, ca := .zero, cb := .zero, hint := .mem0, id := 30 }
def rowFenceCluster : Row := { page := 2, maj := 8, fn := some 1, fmt := .A, ca := .zero, cb := .zero, hint := .mem0, id := 31 }
def rowFenceDie : Row := { page := 2, maj := 8, fn := some 2, fmt := .A, ca := .zero, cb := .zero, hint := .mem0, id := 32 }
def rowFenceDevice : Row := { page := 2, maj := 8, fn := some 3, fmt := .A, ca := .zero, cb := .zero, hint := .mem0, id := 33 }
def rowFenceSystem : Row := { page := 2, maj := 8, fn := some 4, fmt := .A, ca := .zero, cb := .zero, hint := .mem0, id := 34 }
def rowFenceLoop : Row := { page := 2, maj := 8, fn := some 5, fmt := .A, ca := .zero, cb := .zero, hint := .mem0, id := 35 }
def rowPref : Row := { page := 2, maj := 9, fn := some 0, fmt := .A, ca := .w, cb := .zero, hint := .mem, id := 36 }
def rowCwb : Row := { page := 2, maj := 9, fn := some 1, fmt := .A, ca := .w, cb := .zero, hint := .mem0, id := 37 }
def rowCinv : Row := { page := 2, maj := 9, fn := some 2, fmt := .A, ca := .w, cb := .zero, hint := .mem0, id := 38 }
def rowPin : Row := { page := 2, maj := 9, fn := some 3, fmt := .A, ca := .w, cb := .w, hint := .mem0, id := 39 }
def rowUnpin : Row := { page := 2, maj := 9, fn := some 4, fmt := .A, ca := .w, cb := .zero, hint := .mem0, id := 40 }
def rowLsync : Row := { page := 2, maj := 9, fn := some 5, fmt := .A, ca := .zero, cb := .zero, hint := .mem0, id := 41 }
def rowMigr : Row := { page := 2, maj := 9, fn := some 6, fmt := .A, ca := .w, cb := .w, hint := .mem0, id := 42 }
def rowCfetch : Row := { page := 3, maj := 0, fn := some 0, fmt := .A, ca := .w, cb := .w, hint := .mem, id := 0 }
def rowCstore : Row := { page := 3, maj := 0, fn := some 1, fmt := .A, ca := .w, cb := .w, hint := .mem, id := 1 }
def rowCsend : Row := { page := 3, maj := 0, fn := some 2, fmt := .A, ca := .w, cb := .w, hint := .mem, id := 2 }
def rowCmcast : Row := { page := 3, maj := 0, fn := some 3, fmt := .A, ca := .w, cb := .w, hint := .mem, id := 3 }
def rowCgath : Row := { page := 3, maj := 0, fn := some 4, fmt := .A, ca := .w, cb := .w, hint := .mem, id := 4 }
def rowCscat : Row := { page := 3, maj := 0, fn := some 5, fmt := .A, ca := .w, cb := .w, hint := .mem, id := 5 }
def rowCfree : Row := { page := 3, maj := 0, fn := some 6, fmt := .A, ca := .w, cb := .zero, hint := .mem, id := 6 }
def rowCseal : Row := { page := 3, maj := 0, fn := some 7, fmt := .A, ca := .w, cb := .w, hint := .mem, id := 7 }
def rowCopen : Row := { page := 3, maj := 0, fn := some 8, fmt := .A, ca := .w, cb := .w, hint := .mem, id := 8 }
def rowQinit : Row := { page := 3, maj := 1, fn := some 0, fmt := .A, ca := .w, cb := .w, id := 9 }
def rowQprod : Row := { page := 3, maj := 1, fn := some 1, fmt := .A, ca := .w, cb := .zero, id := 10 }
def rowQarrive : Row := { page := 3, maj := 1, fn := some 2, fmt := .A, ca := .w, cb := .zero, id := 11 }
def rowQexpect : Row := { page := 3, maj := 1, fn := some 3, fmt := .A, ca := .w, cb := .w, id := 12 }
def rowQcons : Row := { page := 3, maj := 1, fn := some 4, fmt := .A, ca := .w, cb := .zero, id := 13 }
def rowQretire : Row := { page := 3, maj := 1, fn := some 5, fmt := .A, ca := .w, cb := .zero, id := 14 }
def rowQdrop : Row := { page := 3, maj := 1, fn := some 6, fmt := .A, ca := .w, cb := .zero, id := 15 }
def rowQstat : Row := { page := 3, maj := 1, fn := some 7, fmt := .A, ca := .w, cb := .w, id := 16 }
def rowSopen : Row := { page := 4, maj := 0, fn := some 0, fmt := .A, ca := .s, cb := .wp, hint := .mem, id := 0 }
def rowSclose : Row := { page := 4, maj := 0, fn := some 1, fmt := .A, ca := .s, cb := .zero, hint := .mem, id := 1 }
def rowSsave : Row := { page := 4, maj := 0, fn := some 2, fmt := .A, ca := .s, cb := .w, hint := .mem, id := 2 }
def rowSload : Row := { page := 4, maj := 0, fn := some 3, fmt := .A, ca := .s, cb := .w, hint := .mem, id := 3 }
def rowSchild : Row := { page := 4, maj := 0, fn := some 4, fmt := .A, ca := .s, cb := .s, hint := .mem, id := 4 }
def rowSisect : Row := { page := 4, maj := 1, fmt := .C, ca := .s, cb := .s, cd := .s, excl := .distinct, id := 5 }
def rowSunion : Row := { page := 4, maj := 2, fmt := .C, ca := .s, cb := .s, cd := .s, excl := .distinct, id := 6 }
def rowSnext : Row := { page := 4, maj := 3, fn := some 0, fmt := .A, ca := .s, cb := .zero, id := 7 }
def rowScrd : Row := { page := 4, maj := 3, fn := some 1, fmt := .A, ca := .w, cb := .s, id := 8 }
def rowSpos : Row := { page := 4, maj := 3, fn := some 2, fmt := .A, ca := .w, cb := .s, id := 9 }
def rowSskip : Row := { page := 4, maj := 3, fn := some 3, fmt := .A, ca := .s, cb := .w, id := 10 }
def rowSskipn : Row := { page := 4, maj := 3, fn := some 4, fmt := .A, ca := .s, cb := .w, id := 11 }
def rowSvalq : Row := { page := 4, maj := 3, fn := some 5, fmt := .A, ca := .q01, cb := .s, id := 12 }
def rowScrdq : Row := { page := 4, maj := 3, fn := some 6, fmt := .A, ca := .q01, cb := .s, id := 13 }
def rowSdone : Row := { page := 4, maj := 3, fn := some 7, fmt := .A, ca := .s, cb := .zero, xp := true, id := 14 }
def rowSlen : Row := { page := 4, maj := 3, fn := some 8, fmt := .A, ca := .w, cb := .s, id := 15 }
def rowSbatch : Row := { page := 4, maj := 3, fn := some 9, fmt := .A, ca := .w, cb := .s, id := 16 }
def rowSvld : Row := { page := 4, maj := 4, fn := some 0, fmt := .A, ca := .q01, cb := .s, hint := .mem, id := 17 }
def rowSapp : Row := { page := 4, maj := 5, fn := some 0, fmt := .A, ca := .s, cb := .w, id := 18 }
def rowSappv : Row := { page := 4, maj := 5, fn := some 1, fmt := .A, ca := .s, cb := .w, id := 19 }
def rowSseal : Row := { page := 4, maj := 5, fn := some 2, fmt := .A, ca := .s, cb := .zero, id := 20 }
def rowMconv : Row := { page := 5, maj := 0, fn := some 0, fmt := .A, ca := .w, cb := .w, id := 0 }
def rowMleave : Row := { page := 5, maj := 0, fn := some 1, fmt := .A, ca := .w, cb := .zero, id := 1 }
def rowMsave : Row := { page := 5, maj := 0, fn := some 2, fmt := .A, ca := .w, cb := .zero, id := 2 }
def rowMrest : Row := { page := 5, maj := 0, fn := some 3, fmt := .A, ca := .w, cb := .zero, id := 3 }
def rowMstat : Row := { page := 5, maj := 0, fn := some 4, fmt := .A, ca := .w, cb := .sel 0xFF01, id := 4 }
def rowMucode : Row := { page := 5, maj := 0, fn := some 5, fmt := .A, ca := .w, cb := .w, id := 5 }
def rowMsets : Row := { page := 5, maj := 0, fn := some 6, fmt := .A, ca := .w, cb := .sel 0xFF07, id := 6 }
def rowMplog : Row := { page := 5, maj := 0, fn := some 7, fmt := .A, ca := .w, cb := .w, id := 7 }
def rowMma : Row := { page := 5, maj := 1, fmt := .C, ca := .op5a, cb := .op5b, cd := .t, ext := .mma 0x7E11, hint := .note, id := 8 }
def rowMmas : Row := { page := 5, maj := 2, fmt := .C, ca := .wp, cb := .op5b, cd := .t, ext := .mmas 0x1E11, hint := .note, id := 9 }
def rowMmax : Row := { page := 5, maj := 3, fmt := .C, ca := .wp, cb := .wp, cd := .t, ext := .mmem 0x3800, hint := .note, id := 10 }
def rowMrec : Row := { page := 5, maj := 4, fmt := .C, ca := .wp, cb := .wp, cd := .t, ext := .mmem 0x0744, hint := .note, id := 11 }
def rowMzero : Row := { page := 5, maj := 5, fn := some 0, fmt := .A, ca := .t, cb := .zero, ext := .tile, hint := .note, id := 12 }
def rowMldt : Row := { page := 5, maj := 5, fn := some 1, fmt := .A, ca := .t, cb := .wp, ext := .tile, hint := .note, id := 13 }
def rowMstt : Row := { page := 5, maj := 5, fn := some 2, fmt := .A, ca := .t, cb := .wp, hint := .note, id := 14 }
def rowMtrans : Row := { page := 5, maj := 5, fn := some 3, fmt := .A, ca := .t, cb := .t, hint := .note, id := 15 }
def rowMcvt : Row := { page := 5, maj := 5, fn := some 4, fmt := .A, ca := .t, cb := .t, ext := .tile, hint := .note, id := 16 }
def rowMrsum : Row := { page := 5, maj := 5, fn := some 5, fmt := .A, ca := .t, cb := .t, hint := .note, id := 17 }
def rowMcopy : Row := { page := 5, maj := 5, fn := some 6, fmt := .A, ca := .t, cb := .t, hint := .note, id := 18 }
def rowMlup : Row := { page := 5, maj := 6, fn := some 0, fmt := .A, ca := .t, cb := .wp, hint := .note, id := 19 }
def rowMchol : Row := { page := 5, maj := 6, fn := some 1, fmt := .A, ca := .t, cb := .wp, hint := .note, id := 20 }
def rowMtrsm : Row := { page := 5, maj := 6, fn := some 2, fmt := .A, ca := .t, cb := .w5, hint := .note, id := 21 }
def rowMfxchk : Row := { page := 5, maj := 6, fn := some 3, fmt := .A, ca := .t, cb := .zero, hint := .note, id := 22 }
def rowSend : Row := { page := 6, maj := 0, fn := some 0, fmt := .A, ca := .w, cb := .wp, id := 0 }
def rowRecv : Row := { page := 6, maj := 0, fn := some 1, fmt := .A, ca := .wp, cb := .zero, id := 1 }
def rowRecvt : Row := { page := 6, maj := 0, fn := some 2, fmt := .A, ca := .wp, cb := .w, xp := true, id := 2 }
def rowMpeek : Row := { page := 6, maj := 0, fn := some 3, fmt := .A, ca := .wp, cb := .zero, xp := true, id := 3 }
def rowAlarm : Row := { page := 6, maj := 0, fn := some 4, fmt := .A, ca := .w, cb := .w, id := 4 }
def rowMcount : Row := { page := 6, maj := 0, fn := some 5, fmt := .A, ca := .w, cb := .zero, id := 5 }
def rowSends : Row := { page := 6, maj := 0, fn := some 6, fmt := .A, ca := .w, cb := .wp, id := 6 }
def rowSlotrd : Row := { page := 6, maj := 0, fn := some 7, fmt := .A, ca := .w, cb := .w, id := 7 }
def rowDsync : Row := { page := 6, maj := 1, fn := some 0, fmt := .A, ca := .zero, cb := .sel 0x1F, id := 8 }
def rowDsyncw : Row := { page := 6, maj := 1, fn := some 1, fmt := .A, ca := .zero, cb := .sel 0x1F, id := 9 }
def rowDphase : Row := { page := 6, maj := 1, fn := some 2, fmt := .A, ca := .w, cb := .sel 0x1F, id := 10 }
def rowDcomm : Row := { page := 6, maj := 1, fn := some 3, fmt := .A, ca := .zero, cb := .sel 0x1F, id := 11 }
def rowDprobe : Row := { page := 6, maj := 1, fn := some 4, fmt := .A, ca := .w, cb := .sel 0x1F, id := 12 }
def rowDlevel : Row := { page := 6, maj := 1, fn := some 5, fmt := .A, ca := .w, cb := .w, id := 13 }
def rowLaunch : Row := { page := 6, maj := 1, fn := some 6, fmt := .A, ca := .w, cb := .w, id := 14 }
def rowTenq : Row := { page := 6, maj := 2, fn := some 0, fmt := .A, ca := .w, cb := .wp, id := 15 }
def rowTnext : Row := { page := 6, maj := 2, fn := some 1, fmt := .A, ca := .wp, cb := .sel 0x1F, xp := true, id := 16 }
def rowTdone : Row := { page := 6, maj := 2, fn := some 2, fmt := .A, ca := .zero, cb := .zero, id := 17 }
def rowTabort : Row := { page := 6, maj := 2, fn := some 3, fmt := .A, ca := .zero, cb := .zero, id := 18 }
def rowVtrd : Row := { page := 6, maj := 2, fn := some 4, fmt := .A, ca := .w, cb := .sel 0x3, id := 19 }
def rowGvtrd : Row := { page := 6, maj := 2, fn := some 5, fmt := .A, ca := .w, cb := .sel 0x1F, id := 20 }
def rowSpoff : Row := { page := 6, maj := 2, fn := some 6, fmt := .A, ca := .zero, cb := .zero, id := 21 }
def rowSpon : Row := { page := 6, maj := 2, fn := some 7, fmt := .A, ca := .zero, cb := .zero, id := 22 }
def rowTrap : Row := { page := 7, maj := 0, fn := some 0, fmt := .N, id := 0 }
def rowEret : Row := { page := 7, maj := 0, fn := some 1, fmt := .A, ca := .zero, cb := .zero, id := 1 }
def rowRdsr : Row := { page := 7, maj := 0, fn := some 2, fmt := .E, ca := .w, id := 2 }
def rowWrsr : Row := { page := 7, maj := 0, fn := some 3, fmt := .E, ca := .w, id := 3 }
def rowTlbinv : Row := { page := 7, maj := 0, fn := some 4, fmt := .A, ca := .w, cb := .w, id := 4 }
def rowTlbinva : Row := { page := 7, maj := 0, fn := some 5, fmt := .A, ca := .w, cb := .zero, id := 5 }
def rowCtxsave : Row := { page := 7, maj := 0, fn := some 6, fmt := .A, ca := .w, cb := .sel 0xF, id := 6 }
def rowCtxrest : Row := { page := 7, maj := 0, fn := some 7, fmt := .A, ca := .w, cb := .sel 0xF, id := 7 }
def rowRingrd : Row := { page := 7, maj := 0, fn := some 8, fmt := .A, ca := .w, cb := .w, id := 8 }
def rowThaw : Row := { page := 7, maj := 0, fn := some 9, fmt := .A, ca := .w, cb := .w, id := 9 }
def rowEbrk : Row := { page := 7, maj := 0, fn := some 10, fmt := .A, ca := .zero, cb := .zero, id := 10 }
def rowKill : Row := { page := 7, maj := 0, fn := some 11, fmt := .A, ca := .w, cb := .zero, id := 11 }

/-- The instructions of page 0 (R89). -/
def rowsPage0 : List Row :=
  [rowAdd, rowSub, rowAnd, rowOr, rowXor, rowShl, rowShr, rowSra, rowMul, rowMulh, rowMulhu, rowMin, rowMax, rowMinu,
  rowMaxu, rowMov, rowAddi, rowLi, rowShli, rowShri, rowSrai, rowAndi, rowOri, rowXori, rowMuli, rowDiv, rowDivu,
  rowRem, rowRemu, rowClz, rowCtz, rowPopc, rowBrev, rowSextb, rowSexth, rowSextw, rowZextb, rowZexth, rowZextw,
  rowAbs] ++   [rowNeg, rowEq, rowNe, rowLt, rowGe, rowLtu, rowGeu, rowTst, rowTstn, rowEqi, rowNei, rowLti, rowGei,
  rowLtui, rowGeui, rowPand, rowPor, rowPxor, rowPnot, rowPmov, rowPset, rowPclr, rowPsel, rowPrdw, rowPwrw, rowLd,
  rowSt, rowCmov, rowCall, rowBr, rowBrn, rowNop, rowJmpr, rowCallr, rowRet, rowLpc, rowYield, rowQput, rowQget,
  rowEntry] ++   [rowVwait, rowGtime, rowTid]

/-- The instructions of page 1 (R89). -/
def rowsPage1 : List Row :=
  [rowVadd, rowVsub, rowVmul, rowVmulh, rowVmin, rowVmax, rowVand, rowVor, rowVxor, rowVshl, rowVshr, rowVsra,
  rowVabs, rowVneg, rowVmov, rowVavg, rowVfma, rowVfms, rowVeq, rowVne, rowVlt, rowVge, rowVle, rowVgt, rowVunord,
  rowVord, rowVsel, rowVrcp, rowVrsq, rowVrcpr, rowVrsqr, rowVexp2, rowVlog2, rowVsqrt, rowVdiv, rowVfloor, rowVceil,
  rowVrndn, rowVtrunc, rowVclass] ++   [rowVcvt, rowVshuf, rowVbcast, rowVzipl, rowVziph, rowVuzpl, rowVuzph,
  rowVrsum, rowVrmin, rowVrmax, rowVdot, rowVsplat, rowVputq, rowVputqh, rowVgetq2, rowVld, rowVld1, rowVst, rowVst1,
  rowVlde, rowVloop]

/-- The instructions of page 2 (R89). -/
def rowsPage2 : List Row :=
  [rowLdr, rowStr, rowLdi, rowSti, rowArsv, rowArel, rowAadd, rowAand, rowAor, rowAxor, rowAmin, rowAmax, rowAminu,
  rowAmaxu, rowAswap, rowAcas, rowAfadd, rowAfmin, rowVamoAadd, rowVamoAand, rowVamoAor, rowVamoAxor, rowVamoAmin,
  rowVamoAmax, rowVamoAminu, rowVamoAmaxu, rowVamoAswap, rowVamoAcas, rowVamoAfadd, rowVamoAfmin, rowFenceCore,
  rowFenceCluster, rowFenceDie, rowFenceDevice, rowFenceSystem, rowFenceLoop, rowPref, rowCwb, rowCinv, rowPin] ++
  [rowUnpin, rowLsync, rowMigr]

/-- The instructions of page 3 (R89). -/
def rowsPage3 : List Row :=
  [rowCfetch, rowCstore, rowCsend, rowCmcast, rowCgath, rowCscat, rowCfree, rowCseal, rowCopen, rowQinit, rowQprod,
  rowQarrive, rowQexpect, rowQcons, rowQretire, rowQdrop, rowQstat]

/-- The instructions of page 4 (R89). -/
def rowsPage4 : List Row :=
  [rowSopen, rowSclose, rowSsave, rowSload, rowSchild, rowSisect, rowSunion, rowSnext, rowScrd, rowSpos, rowSskip,
  rowSskipn, rowSvalq, rowScrdq, rowSdone, rowSlen, rowSbatch, rowSvld, rowSapp, rowSappv, rowSseal]

/-- The instructions of page 5 (R89). -/
def rowsPage5 : List Row :=
  [rowMconv, rowMleave, rowMsave, rowMrest, rowMstat, rowMucode, rowMsets, rowMplog, rowMma, rowMmas, rowMmax,
  rowMrec, rowMzero, rowMldt, rowMstt, rowMtrans, rowMcvt, rowMrsum, rowMcopy, rowMlup, rowMchol, rowMtrsm, rowMfxchk]

/-- The instructions of page 6 (R89). -/
def rowsPage6 : List Row :=
  [rowSend, rowRecv, rowRecvt, rowMpeek, rowAlarm, rowMcount, rowSends, rowSlotrd, rowDsync, rowDsyncw, rowDphase,
  rowDcomm, rowDprobe, rowDlevel, rowLaunch, rowTenq, rowTnext, rowTdone, rowTabort, rowVtrd, rowGvtrd, rowSpoff,
  rowSpon]

/-- The instructions of page 7 (R89). -/
def rowsPage7 : List Row :=
  [rowTrap, rowEret, rowRdsr, rowWrsr, rowTlbinv, rowTlbinva, rowCtxsave, rowCtxrest, rowRingrd, rowThaw, rowEbrk,
  rowKill]

/-- The rows of a page. -/
def rowsOf : Nat → List Row
  | 0 => rowsPage0
  | 1 => rowsPage1
  | 2 => rowsPage2
  | 3 => rowsPage3
  | 4 => rowsPage4
  | 5 => rowsPage5
  | 6 => rowsPage6
  | 7 => rowsPage7
  | _ => []

/-- The row that a page, a major and an fn code select (checks 6 and 7). -/
def findRow (page maj fn : Nat) : Option Row :=
  (rowsOf page).find? fun r => r.maj == maj && (r.fn == none || r.fn == some fn)

/-- Is the major assigned on the page (check 6)? -/
def majAssigned (page maj : Nat) : Bool := (rowsOf page).any fun r => r.maj == maj

/-! ## The decoder -/

/-- What decoding a chain gives: the trap ILLOP with its subcode, word and position (R88), or an instruction and the number
of its words. -/
inductive Dec where
  | bad (sub : Nat) (word : Half) (pos : Nat)
  | ok (i : Instr) (len : Nat)
deriving DecidableEq, Repr

/-- The same with the instruction as its row and fields. -/
inductive DecRow where
  | bad (sub : Nat) (word : Half) (pos : Nat)
  | ok (r : Row) (f : Fld) (len : Nat)
deriving DecidableEq, Repr

/-- Major 0xF is a prefix (R81). -/
def isPre (w : Half) : Bool := w.toNat / 4096 == 15
/-- The kind of a prefix: 0 PXI, 1 PXR, 2 PXP, 3 PXH (R81). -/
def preKind (w : Half) : Nat := w.toNat / 1024 % 4
/-- The payload of a prefix (R81). -/
def prePay (w : Half) : Nat := w.toNat % 1024

/-- The leading prefix words of a chain. -/
def prefixesOf : List Half → List Half
  | [] => []
  | w :: ws => if isPre w then w :: prefixesOf ws else []

/-- The words after the leading prefixes; the first is the base word. -/
def restOf : List Half → List Half
  | [] => []
  | w :: ws => if isPre w then restOf ws else w :: ws

/-- The first prefix of a kind, with its position from n. -/
def findKind (k : Nat) : List Half → Nat → Option (Nat × Half)
  | [], _ => none
  | w :: ws, n => if preKind w == k then some (n, w) else findKind k ws (n + 1)

/-- The second PXR, PXP or PXH (check 3): `seen` lists the kinds before it. -/
def findDup : List Half → List Nat → Nat → Option (Nat × Half)
  | [], _, _ => none
  | w :: ws, seen, n =>
    if preKind w != 0 && seen.contains (preKind w) then some (n, w)
    else findDup ws (preKind w :: seen) (n + 1)

/-- The PXI payloads joined, the first the most significant (R82, R83). -/
def pxiJoin : List Half → Nat → Nat
  | [], acc => acc
  | w :: ws, acc => pxiJoin ws (if preKind w == 0 then acc * 1024 + prePay w else acc)

/-- How many PXI words the prefixes hold. -/
def pxiCount : List Half → Nat
  | [] => 0
  | w :: ws => (if preKind w == 0 then 1 else 0) + pxiCount ws

/-- The earlier of two reports, in address order. -/
def earlier (p q : Option (Nat × Half)) : Option (Nat × Half) :=
  match p, q with
  | none, q => q
  | p, none => p
  | some (i, w), some (j, v) => if j < i then some (j, v) else some (i, w)

/-- A report when the condition holds. -/
def whenBad (b : Bool) (p : Option (Nat × Half)) : Option (Nat × Half) := if b then p else none

/-- The payload of an optional prefix; an absent one counts as 0 (R84, R86). -/
def payOf : Option (Nat × Half) → Nat
  | none => 0
  | some (_, w) => prePay w

/-- A field value: the base word's bits with the PXR bits above them where the field names a register (R84). -/
def fieldOf (c : Cls) (hi raw : Nat) : BitVec 6 := BitVec.ofNat 6 (if c.isReg then hi * 16 + raw else raw)

/-- The base word's own bits of field a, by format. -/
def rawA (fmt : Fmt) (b : Nat) : Nat :=
  match fmt with
  | .A | .C | .Ci | .E => b / 16 % 16
  | .B => b / 256 % 16
  | .D => b / 512 % 8
  | .N => 0
/-- The base word's own bits of field b. -/
def rawB (fmt : Fmt) (b : Nat) : Nat :=
  match fmt with
  | .A | .C => b % 16
  | _ => 0
/-- The base word's own bits of field d. -/
def rawD (fmt : Fmt) (b : Nat) : Nat :=
  match fmt with
  | .C | .Ci => b / 256 % 16
  | _ => 0

/-- Does the PXR's x extend field d (R84)? On page 4 it does not (R309). -/
def Row.xd (r : Row) : Bool := r.cd.isReg && r.page != 4

/-- The fields that a chain of prefixes `ps` and base word `b` delivers to row r. -/
def Row.fields (r : Row) (ps : List Half) (b : Nat) : Fld :=
  let xr := payOf (findKind 1 ps 0)
  let n := r.fmt.immBits
  { g := BitVec.ofNat 3 (xr % 8)
    a := fieldOf r.ca (xr / 256 % 4) (rawA r.fmt b)
    b := fieldOf r.cb (xr / 64 % 4) (rawB r.fmt b)
    d := fieldOf r.cd (xr / 8 % 4) (rawD r.fmt b)
    x := if r.xp then BitVec.ofNat 3 (xr / 8 % 8) else 0
    ext := BitVec.ofNat 6 (payOf (findKind 2 ps 0) % 64)
    h := BitVec.ofNat 10 (payOf (findKind 3 ps 0))
    k := pxiCount ps
    imm := if n = 0 then 0 else BitVec.ofNat 49 (pxiJoin ps 0 * 2 ^ n + b % 2 ^ n) }

/-- Checks 4 and 7 to 10 of R88 for a row: the first that fails, or none. -/
def Row.verdict (r : Row) (ps : List Half) (base : Half) : Option (Nat × Half × Nat) :=
  let b := base.toNat
  let f := r.fields ps b
  let pr := findKind 1 ps 0
  let pp := findKind 2 ps 0
  let ph := findKind 3 ps 0
  let xr := payOf pr
  let x := xr / 8 % 8
  let xBad := if r.xp then false else if r.xd then x ≥ 4 else x != 0
  let bad4 := earlier (whenBad (r.ext.bad4 f.ext.toNat) pp)
    (earlier (whenBad xBad pr) (whenBad (payOf ph &&& r.hint.reserved != 0) ph))
  let bad7 := r.ca.bad7 f.a.toNat || r.cb.bad7 f.b.toNat || r.cd.bad7 f.d.toNat || r.excl.bad f
  let bad8 := earlier (whenBad (r.fmt.immBits == 0) (findKind 0 ps 0))
    (earlier (whenBad (r.fmt == .D || (xr / 256 % 4 != 0 && !r.ca.isReg) || (xr / 64 % 4 != 0 && !r.cb.isReg)) pr)
      (whenBad (r.hint == .none) ph))
  let n9 := r.ext.bad9 f.ext.toNat f.b.toNat
  let bad10 := f.a.toNat ≥ r.ca.lim f.ext || f.b.toNat ≥ r.cb.lim f.ext || f.d.toNat ≥ r.cd.lim f.ext
  match bad4 with
  | some (i, w) => some (3, w, i)
  | none =>
    if bad7 then some (6, base, ps.length)
    else match bad8 with
      | some (i, w) => some (8, w, i)
      | none =>
        if n9 == 2 then some (10, base, ps.length)
        else if n9 == 1 then
          match pp with
          | some (i, w) => some (10, w, i)
          | none => some (10, base, ps.length)
        else if bad10 then some (11, base, ps.length)
        else none

/-- Check 4 where no row is selected: the bits that R86 and R87 reserve for the page and major alone, and x of a PXR on a major
none of whose forms gives it a meaning (log entry 23). -/
def pageBad4 (page maj fn : Nat) (ps : List Half) : Option (Nat × Half) :=
  let pp := findKind 2 ps 0
  let pr := findKind 1 ps 0
  let ph := findKind 3 ps 0
  let e := payOf pp % 64
  let extBad :=
    match page with
    | 1 => tyIsInt (e / 4) && e % 4 ≥ 2
    | 2 => if maj == 8 || maj == 9 then e != 0 else e % 2 != 0 || (maj == 7 && e / 16 == 3)
    | 5 => false
    | _ => e != 0
  let hintMask :=
    match page with
    | 0 => if maj == 8 || maj == 9 then 0xFF else 0
    | 1 => if maj == 9 then 0xFF else 0x3FC
    | 2 => if maj == 8 || (maj == 9 && fn != 0) then 0x3FF else 0xFF
    | 3 => if maj == 0 then 0xFF else 0
    | 4 => if maj == 0 || maj == 4 then 0xFF else 0
    | 5 => if maj == 0 then 0 else 0x7F
    | _ => 0
  let xBad := payOf pr / 8 % 8 != 0 && majAssigned page maj &&
    !((rowsOf page).any fun r => r.maj == maj && (r.xp || r.xd))
  earlier (whenBad extBad pp) (earlier (whenBad xBad pr) (whenBad (payOf ph &&& hintMask != 0) ph))

/-- Decodes a chain: `ws` holds the words from the chain's first to the last of its fetch block (R76, R88). -/
def decodeRow (ws : List Half) : DecRow :=
  let ps := prefixesOf ws
  match restOf ws with
  | [] => .bad 7 (ps.getLastD 0) ((ps.length - 1) % 8)
  | base :: _ =>
    match ps.drop 4 with
    | _ :: _ => .bad 1 (ps.getD 4 0) 4
    | [] =>
      match findDup ps [] 0 with
      | some (i, w) => .bad 2 w i
      | none =>
        let pp := findKind 2 ps 0
        let page := payOf pp / 64
        let maj := base.toNat / 4096
        if 8 ≤ page then
          match pp with
          | some (i, w) => .bad 4 w i
          | none => .bad 4 base ps.length
        else
          match findRow page maj (base.toNat / 256 % 16) with
          | none =>
            match pageBad4 page maj (base.toNat / 256 % 16) ps with
            | some (i, w) => .bad 3 w i
            | none => .bad (if majAssigned page maj then 6 else 5) base ps.length
          | some r =>
            match r.verdict ps base with
            | some (sub, w, i) => .bad sub w i
            | none => .ok r (r.fields ps base.toNat) (ps.length + 1)

/-- The constructors of page 0. -/
noncomputable def consPage0 : List (Fld → Instr) :=
  [.add, .sub, .and, .or, .xor, .shl, .shr, .sra, .mul, .mulh, .mulhu, .min, .max, .minu, .maxu, .mov, .addi, .li,
  .shli, .shri, .srai, .andi, .ori, .xori, .muli, .div, .divu, .rem, .remu, .clz, .ctz, .popc, .brev, .sextb, .sexth,
  .sextw, .zextb, .zexth, .zextw, .abs, .neg, .eq, .ne, .lt, .ge, .ltu, .geu, .tst, .tstn, .eqi, .nei, .lti, .gei,
  .ltui, .geui, .pand, .por, .pxor, .pnot, .pmov] ++   [.pset, .pclr, .psel, .prdw, .pwrw, .ld, .st, .cmov, .call,
  .br, .brn, .nop, .jmpr, .callr, .ret, .lpc, .yield, .qput, .qget, .entry, .vwait, .gtime, .tid]

/-- The constructors of page 1. -/
noncomputable def consPage1 : List (Fld → Instr) :=
  [.vadd, .vsub, .vmul, .vmulh, .vmin, .vmax, .vand, .vor, .vxor, .vshl, .vshr, .vsra, .vabs, .vneg, .vmov, .vavg,
  .vfma, .vfms, .veq, .vne, .vlt, .vge, .vle, .vgt, .vunord, .vord, .vsel, .vrcp, .vrsq, .vrcpr, .vrsqr, .vexp2,
  .vlog2, .vsqrt, .vdiv, .vfloor, .vceil, .vrndn, .vtrunc, .vclass, .vcvt, .vshuf, .vbcast, .vzipl, .vziph, .vuzpl,
  .vuzph, .vrsum, .vrmin, .vrmax, .vdot, .vsplat, .vputq, .vputqh, .vgetq2, .vld, .vld1, .vst, .vst1, .vlde] ++
  [.vloop]

/-- The constructors of page 2. -/
noncomputable def consPage2 : List (Fld → Instr) :=
  [.ldr, .str, .ldi, .sti, .arsv, .arel, .aadd, .aand, .aor, .axor, .amin, .amax, .aminu, .amaxu, .aswap, .acas,
  .afadd, .afmin, .vamoAadd, .vamoAand, .vamoAor, .vamoAxor, .vamoAmin, .vamoAmax, .vamoAminu, .vamoAmaxu, .vamoAswap,
  .vamoAcas, .vamoAfadd, .vamoAfmin, .fenceCore, .fenceCluster, .fenceDie, .fenceDevice, .fenceSystem, .fenceLoop,
  .pref, .cwb, .cinv, .pin, .unpin, .lsync, .migr]

/-- The constructors of page 3. -/
noncomputable def consPage3 : List (Fld → Instr) :=
  [.cfetch, .cstore, .csend, .cmcast, .cgath, .cscat, .cfree, .cseal, .copen, .qinit, .qprod, .qarrive, .qexpect,
  .qcons, .qretire, .qdrop, .qstat]

/-- The constructors of page 4. -/
noncomputable def consPage4 : List (Fld → Instr) :=
  [.sopen, .sclose, .ssave, .sload, .schild, .sisect, .sunion, .snext, .scrd, .spos, .sskip, .sskipn, .svalq, .scrdq,
  .sdone, .slen, .sbatch, .svld, .sapp, .sappv, .sseal]

/-- The constructors of page 5. -/
noncomputable def consPage5 : List (Fld → Instr) :=
  [.mconv, .mleave, .msave, .mrest, .mstat, .mucode, .msets, .mplog, .mma, .mmas, .mmax, .mrec, .mzero, .mldt, .mstt,
  .mtrans, .mcvt, .mrsum, .mcopy, .mlup, .mchol, .mtrsm, .mfxchk]

/-- The constructors of page 6. -/
noncomputable def consPage6 : List (Fld → Instr) :=
  [.send, .recv, .recvt, .mpeek, .alarm, .mcount, .sends, .slotrd, .dsync, .dsyncw, .dphase, .dcomm, .dprobe, .dlevel,
  .launch, .tenq, .tnext, .tdone, .tabort, .vtrd, .gvtrd, .spoff, .spon]

/-- The constructors of page 7. -/
noncomputable def consPage7 : List (Fld → Instr) :=
  [.trap, .eret, .rdsr, .wrsr, .tlbinv, .tlbinva, .ctxsave, .ctxrest, .ringrd, .thaw, .ebrk, .kill]

/-- The constructors of a page, in the order of its rows. -/
noncomputable def consOf : Nat → List (Fld → Instr)
  | 0 => consPage0
  | 1 => consPage1
  | 2 => consPage2
  | 3 => consPage3
  | 4 => consPage4
  | 5 => consPage5
  | 6 => consPage6
  | 7 => consPage7
  | _ => []

/-- The instruction of a row. -/
noncomputable def Row.instr (r : Row) (f : Fld) : Instr :=
  match (consOf r.page)[r.id]? with
  | some c => c f
  | none => .nop f

/-- Decodes a chain to an instruction (R88). The definition is marked noncomputable only because Lean's compiler cannot build
values of an inductive with this many constructors; the kernel evaluates it. -/
noncomputable def decodeChain (ws : List Half) : Dec :=
  match decodeRow ws with
  | .bad sub w i => .bad sub w i
  | .ok r f n => .ok (r.instr f) n

/-! ## The encoder -/

/-- The row of an instruction's encoding and its fields; an event has none. -/
def rowOf : Instr → Option (Row × Fld)
  | .add f => some (rowAdd, f)
  | .sub f => some (rowSub, f)
  | .and f => some (rowAnd, f)
  | .or f => some (rowOr, f)
  | .xor f => some (rowXor, f)
  | .shl f => some (rowShl, f)
  | .shr f => some (rowShr, f)
  | .sra f => some (rowSra, f)
  | .mul f => some (rowMul, f)
  | .mulh f => some (rowMulh, f)
  | .mulhu f => some (rowMulhu, f)
  | .min f => some (rowMin, f)
  | .max f => some (rowMax, f)
  | .minu f => some (rowMinu, f)
  | .maxu f => some (rowMaxu, f)
  | .mov f => some (rowMov, f)
  | .addi f => some (rowAddi, f)
  | .li f => some (rowLi, f)
  | .shli f => some (rowShli, f)
  | .shri f => some (rowShri, f)
  | .srai f => some (rowSrai, f)
  | .andi f => some (rowAndi, f)
  | .ori f => some (rowOri, f)
  | .xori f => some (rowXori, f)
  | .muli f => some (rowMuli, f)
  | .div f => some (rowDiv, f)
  | .divu f => some (rowDivu, f)
  | .rem f => some (rowRem, f)
  | .remu f => some (rowRemu, f)
  | .clz f => some (rowClz, f)
  | .ctz f => some (rowCtz, f)
  | .popc f => some (rowPopc, f)
  | .brev f => some (rowBrev, f)
  | .sextb f => some (rowSextb, f)
  | .sexth f => some (rowSexth, f)
  | .sextw f => some (rowSextw, f)
  | .zextb f => some (rowZextb, f)
  | .zexth f => some (rowZexth, f)
  | .zextw f => some (rowZextw, f)
  | .abs f => some (rowAbs, f)
  | .neg f => some (rowNeg, f)
  | .eq f => some (rowEq, f)
  | .ne f => some (rowNe, f)
  | .lt f => some (rowLt, f)
  | .ge f => some (rowGe, f)
  | .ltu f => some (rowLtu, f)
  | .geu f => some (rowGeu, f)
  | .tst f => some (rowTst, f)
  | .tstn f => some (rowTstn, f)
  | .eqi f => some (rowEqi, f)
  | .nei f => some (rowNei, f)
  | .lti f => some (rowLti, f)
  | .gei f => some (rowGei, f)
  | .ltui f => some (rowLtui, f)
  | .geui f => some (rowGeui, f)
  | .pand f => some (rowPand, f)
  | .por f => some (rowPor, f)
  | .pxor f => some (rowPxor, f)
  | .pnot f => some (rowPnot, f)
  | .pmov f => some (rowPmov, f)
  | .pset f => some (rowPset, f)
  | .pclr f => some (rowPclr, f)
  | .psel f => some (rowPsel, f)
  | .prdw f => some (rowPrdw, f)
  | .pwrw f => some (rowPwrw, f)
  | .ld f => some (rowLd, f)
  | .st f => some (rowSt, f)
  | .cmov f => some (rowCmov, f)
  | .call f => some (rowCall, f)
  | .br f => some (rowBr, f)
  | .brn f => some (rowBrn, f)
  | .nop f => some (rowNop, f)
  | .jmpr f => some (rowJmpr, f)
  | .callr f => some (rowCallr, f)
  | .ret f => some (rowRet, f)
  | .lpc f => some (rowLpc, f)
  | .yield f => some (rowYield, f)
  | .qput f => some (rowQput, f)
  | .qget f => some (rowQget, f)
  | .entry f => some (rowEntry, f)
  | .vwait f => some (rowVwait, f)
  | .gtime f => some (rowGtime, f)
  | .tid f => some (rowTid, f)
  | .vadd f => some (rowVadd, f)
  | .vsub f => some (rowVsub, f)
  | .vmul f => some (rowVmul, f)
  | .vmulh f => some (rowVmulh, f)
  | .vmin f => some (rowVmin, f)
  | .vmax f => some (rowVmax, f)
  | .vand f => some (rowVand, f)
  | .vor f => some (rowVor, f)
  | .vxor f => some (rowVxor, f)
  | .vshl f => some (rowVshl, f)
  | .vshr f => some (rowVshr, f)
  | .vsra f => some (rowVsra, f)
  | .vabs f => some (rowVabs, f)
  | .vneg f => some (rowVneg, f)
  | .vmov f => some (rowVmov, f)
  | .vavg f => some (rowVavg, f)
  | .vfma f => some (rowVfma, f)
  | .vfms f => some (rowVfms, f)
  | .veq f => some (rowVeq, f)
  | .vne f => some (rowVne, f)
  | .vlt f => some (rowVlt, f)
  | .vge f => some (rowVge, f)
  | .vle f => some (rowVle, f)
  | .vgt f => some (rowVgt, f)
  | .vunord f => some (rowVunord, f)
  | .vord f => some (rowVord, f)
  | .vsel f => some (rowVsel, f)
  | .vrcp f => some (rowVrcp, f)
  | .vrsq f => some (rowVrsq, f)
  | .vrcpr f => some (rowVrcpr, f)
  | .vrsqr f => some (rowVrsqr, f)
  | .vexp2 f => some (rowVexp2, f)
  | .vlog2 f => some (rowVlog2, f)
  | .vsqrt f => some (rowVsqrt, f)
  | .vdiv f => some (rowVdiv, f)
  | .vfloor f => some (rowVfloor, f)
  | .vceil f => some (rowVceil, f)
  | .vrndn f => some (rowVrndn, f)
  | .vtrunc f => some (rowVtrunc, f)
  | .vclass f => some (rowVclass, f)
  | .vcvt f => some (rowVcvt, f)
  | .vshuf f => some (rowVshuf, f)
  | .vbcast f => some (rowVbcast, f)
  | .vzipl f => some (rowVzipl, f)
  | .vziph f => some (rowVziph, f)
  | .vuzpl f => some (rowVuzpl, f)
  | .vuzph f => some (rowVuzph, f)
  | .vrsum f => some (rowVrsum, f)
  | .vrmin f => some (rowVrmin, f)
  | .vrmax f => some (rowVrmax, f)
  | .vdot f => some (rowVdot, f)
  | .vsplat f => some (rowVsplat, f)
  | .vputq f => some (rowVputq, f)
  | .vputqh f => some (rowVputqh, f)
  | .vgetq2 f => some (rowVgetq2, f)
  | .vld f => some (rowVld, f)
  | .vld1 f => some (rowVld1, f)
  | .vst f => some (rowVst, f)
  | .vst1 f => some (rowVst1, f)
  | .vlde f => some (rowVlde, f)
  | .vloop f => some (rowVloop, f)
  | .ldr f => some (rowLdr, f)
  | .str f => some (rowStr, f)
  | .ldi f => some (rowLdi, f)
  | .sti f => some (rowSti, f)
  | .arsv f => some (rowArsv, f)
  | .arel f => some (rowArel, f)
  | .aadd f => some (rowAadd, f)
  | .aand f => some (rowAand, f)
  | .aor f => some (rowAor, f)
  | .axor f => some (rowAxor, f)
  | .amin f => some (rowAmin, f)
  | .amax f => some (rowAmax, f)
  | .aminu f => some (rowAminu, f)
  | .amaxu f => some (rowAmaxu, f)
  | .aswap f => some (rowAswap, f)
  | .acas f => some (rowAcas, f)
  | .afadd f => some (rowAfadd, f)
  | .afmin f => some (rowAfmin, f)
  | .vamoAadd f => some (rowVamoAadd, f)
  | .vamoAand f => some (rowVamoAand, f)
  | .vamoAor f => some (rowVamoAor, f)
  | .vamoAxor f => some (rowVamoAxor, f)
  | .vamoAmin f => some (rowVamoAmin, f)
  | .vamoAmax f => some (rowVamoAmax, f)
  | .vamoAminu f => some (rowVamoAminu, f)
  | .vamoAmaxu f => some (rowVamoAmaxu, f)
  | .vamoAswap f => some (rowVamoAswap, f)
  | .vamoAcas f => some (rowVamoAcas, f)
  | .vamoAfadd f => some (rowVamoAfadd, f)
  | .vamoAfmin f => some (rowVamoAfmin, f)
  | .fenceCore f => some (rowFenceCore, f)
  | .fenceCluster f => some (rowFenceCluster, f)
  | .fenceDie f => some (rowFenceDie, f)
  | .fenceDevice f => some (rowFenceDevice, f)
  | .fenceSystem f => some (rowFenceSystem, f)
  | .fenceLoop f => some (rowFenceLoop, f)
  | .pref f => some (rowPref, f)
  | .cwb f => some (rowCwb, f)
  | .cinv f => some (rowCinv, f)
  | .pin f => some (rowPin, f)
  | .unpin f => some (rowUnpin, f)
  | .lsync f => some (rowLsync, f)
  | .migr f => some (rowMigr, f)
  | .cfetch f => some (rowCfetch, f)
  | .cstore f => some (rowCstore, f)
  | .csend f => some (rowCsend, f)
  | .cmcast f => some (rowCmcast, f)
  | .cgath f => some (rowCgath, f)
  | .cscat f => some (rowCscat, f)
  | .cfree f => some (rowCfree, f)
  | .cseal f => some (rowCseal, f)
  | .copen f => some (rowCopen, f)
  | .qinit f => some (rowQinit, f)
  | .qprod f => some (rowQprod, f)
  | .qarrive f => some (rowQarrive, f)
  | .qexpect f => some (rowQexpect, f)
  | .qcons f => some (rowQcons, f)
  | .qretire f => some (rowQretire, f)
  | .qdrop f => some (rowQdrop, f)
  | .qstat f => some (rowQstat, f)
  | .sopen f => some (rowSopen, f)
  | .sclose f => some (rowSclose, f)
  | .ssave f => some (rowSsave, f)
  | .sload f => some (rowSload, f)
  | .schild f => some (rowSchild, f)
  | .sisect f => some (rowSisect, f)
  | .sunion f => some (rowSunion, f)
  | .snext f => some (rowSnext, f)
  | .scrd f => some (rowScrd, f)
  | .spos f => some (rowSpos, f)
  | .sskip f => some (rowSskip, f)
  | .sskipn f => some (rowSskipn, f)
  | .svalq f => some (rowSvalq, f)
  | .scrdq f => some (rowScrdq, f)
  | .sdone f => some (rowSdone, f)
  | .slen f => some (rowSlen, f)
  | .sbatch f => some (rowSbatch, f)
  | .svld f => some (rowSvld, f)
  | .sapp f => some (rowSapp, f)
  | .sappv f => some (rowSappv, f)
  | .sseal f => some (rowSseal, f)
  | .mconv f => some (rowMconv, f)
  | .mleave f => some (rowMleave, f)
  | .msave f => some (rowMsave, f)
  | .mrest f => some (rowMrest, f)
  | .mstat f => some (rowMstat, f)
  | .mucode f => some (rowMucode, f)
  | .msets f => some (rowMsets, f)
  | .mplog f => some (rowMplog, f)
  | .mma f => some (rowMma, f)
  | .mmas f => some (rowMmas, f)
  | .mmax f => some (rowMmax, f)
  | .mrec f => some (rowMrec, f)
  | .mzero f => some (rowMzero, f)
  | .mldt f => some (rowMldt, f)
  | .mstt f => some (rowMstt, f)
  | .mtrans f => some (rowMtrans, f)
  | .mcvt f => some (rowMcvt, f)
  | .mrsum f => some (rowMrsum, f)
  | .mcopy f => some (rowMcopy, f)
  | .mlup f => some (rowMlup, f)
  | .mchol f => some (rowMchol, f)
  | .mtrsm f => some (rowMtrsm, f)
  | .mfxchk f => some (rowMfxchk, f)
  | .send f => some (rowSend, f)
  | .recv f => some (rowRecv, f)
  | .recvt f => some (rowRecvt, f)
  | .mpeek f => some (rowMpeek, f)
  | .alarm f => some (rowAlarm, f)
  | .mcount f => some (rowMcount, f)
  | .sends f => some (rowSends, f)
  | .slotrd f => some (rowSlotrd, f)
  | .dsync f => some (rowDsync, f)
  | .dsyncw f => some (rowDsyncw, f)
  | .dphase f => some (rowDphase, f)
  | .dcomm f => some (rowDcomm, f)
  | .dprobe f => some (rowDprobe, f)
  | .dlevel f => some (rowDlevel, f)
  | .launch f => some (rowLaunch, f)
  | .tenq f => some (rowTenq, f)
  | .tnext f => some (rowTnext, f)
  | .tdone f => some (rowTdone, f)
  | .tabort f => some (rowTabort, f)
  | .vtrd f => some (rowVtrd, f)
  | .gvtrd f => some (rowGvtrd, f)
  | .spoff f => some (rowSpoff, f)
  | .spon f => some (rowSpon, f)
  | .trap f => some (rowTrap, f)
  | .eret f => some (rowEret, f)
  | .rdsr f => some (rowRdsr, f)
  | .wrsr f => some (rowWrsr, f)
  | .tlbinv f => some (rowTlbinv, f)
  | .tlbinva f => some (rowTlbinva, f)
  | .ctxsave f => some (rowCtxsave, f)
  | .ctxrest f => some (rowCtxrest, f)
  | .ringrd f => some (rowRingrd, f)
  | .thaw f => some (rowThaw, f)
  | .ebrk f => some (rowEbrk, f)
  | .kill f => some (rowKill, f)
  | .qschDoorbell _ _ => none
  | .qschCtlWrite _ _ => none
  | .qsCtlWrite _ _ _ => none
  | .qschEvheadWrite _ _ => none
  | .replenish _ => none
  | .overrun _ _ => none
  | .headReexamine _ => none
  | .blockMark _ => none
  | .dispatchDecision => none
  | .dispstall => none
  | .launchStart _ => none
  | .retire _ => none
  | .fetchBlockArrival _ => none
  | .loadDataReturn _ _ => none
  | .storeAtHome _ _ _ => none
  | .reservationGrant _ => none
  | .asyncTrapTake _ => none
  | .vectorIssue _ => none
  | .pageWalk _ _ _ => none
  | .messageDeliver _ => none
  | .messageAdmit _ => none
  | .recvtTimeout _ => none
  | .alarmFire _ => none
  | .circuitComplete _ _ _ => none
  | .specAbort _ => none
  | .storeDrain _ => none
  | .copyComplete _ _ => none
  | .countedDecrement _ => none
  | .allfree _ _ => none
  | .streamLookahead _ _ => none
  | .streamContextDrain _ => none
  | .matrixJobComplete _ _ _ => none
  | .matrixContextDrain _ _ _ => none
  | .preemptCluster _ => none
  | .preemptCore _ _ => none
  | .clusterSaved _ => none
  | .restore _ _ => none
  | .restoreDiscard _ => none
  | .kctlReply _ _ => none
  | .amapCommit => none
  | .amapCommitDone => none
  | .migration _ => none
  | .rmapMapout _ _ => none
  | .patrolScrub _ _ => none
  | .elogClr _ => none
  | .hphyPatGo _ _ _ => none
  | .hphyPatDone _ _ _ _ => none
  | .hphyLrepWrite _ _ _ => none
  | .hlDoorbell _ _ => none
  | .hlEventClear _ _ => none
  | .retainEnter => none
  | .powerWarning => none
  | .retainResume => none
  | .powerWarningClear => none
  | .powerLoss => none
  | .reset _ => none
  | .hostRequest _ _ => none
  | .lockInterface _ => none
  | .keyInstall _ _ _ _ _ _ => none
  | .getMeasurements _ _ => none
  | .getVersion _ => none
  | .linkdown _ => none
  | .ucieLinkDown _ => none
  | .meterUpdate => none
  | .creditReplenish => none
  | .registerWrite _ _ _ => none
  | .engineUnitWrite _ _ _ _ => none
  | .hphyChctlWrite _ _ _ => none
  | .peerRequest _ _ => none
  | .startInterfaceRequest _ => none
  | .stopInterfaceRequest _ => none
  | .ideKeyProgramming _ _ => none
  | .keyExchange _ => none
  | .negotiateAlgorithms _ _ => none
  | .getCertificate _ => none

/-- The PXR payload that an instruction needs (R84, R94). -/
def Row.pxr (r : Row) (f : Fld) : Nat :=
  (if r.ca.isReg then f.a.toNat / 16 else 0) * 256 + (if r.cb.isReg then f.b.toNat / 16 else 0) * 64 +
    (if r.xd then f.d.toNat / 16 else f.x.toNat) * 8 + f.g.toNat

/-- k PXI words holding the k low ten-bit groups of m, the most significant first (R83). -/
def pxiWords : Nat → Nat → List Half
  | 0, _ => []
  | k + 1, m => BitVec.ofNat 16 (0xF000 + m / 1024 ^ k % 1024) :: pxiWords k m

/-- The base word of an instruction (R79). -/
def Row.baseWord (r : Row) (f : Fld) : Nat :=
  let fn := r.fn.getD 0
  r.maj * 4096 +
    match r.fmt with
    | .A => fn * 256 + f.a.toNat % 16 * 16 + f.b.toNat % 16
    | .B => f.a.toNat % 16 * 256 + f.imm.toNat % 256
    | .C => f.d.toNat % 16 * 256 + f.a.toNat % 16 * 16 + f.b.toNat % 16
    | .Ci => f.d.toNat % 16 * 256 + f.a.toNat % 16 * 16 + f.imm.toNat % 16
    | .D => f.a.toNat % 8 * 512 + f.imm.toNat % 512
    | .E => fn * 256 + f.a.toNat % 16 * 16 + f.imm.toNat % 16
    | .N => fn * 256 + f.imm.toNat % 256

/-- The prefix words in the order of R94: PXP, PXR, PXH, PXI. -/
def Row.preWords (r : Row) (f : Fld) : List Half :=
  (if r.page = 0 then [] else [BitVec.ofNat 16 (0xF800 + r.page * 64 + f.ext.toNat)]) ++
  (if r.pxr f = 0 then [] else [BitVec.ofNat 16 (0xF400 + r.pxr f)]) ++
  (if f.h.toNat = 0 then [] else [BitVec.ofNat 16 (0xFC00 + f.h.toNat)]) ++
  pxiWords f.k (f.imm.toNat / 2 ^ r.fmt.immBits)

/-- The words of an instruction, the first at the lowest address. -/
def Row.encode (r : Row) (f : Fld) : List Half := r.preWords f ++ [BitVec.ofNat 16 (r.baseWord f)]

/-- The words of a well-formed encoded instruction; an event has none. -/
def encode (i : Instr) : List Half :=
  match rowOf i with
  | some (r, f) => r.encode f
  | none => []

/-- The words of an opcode-table word, in memory order: the table writes the PXP in the upper half of its 32-bit words, and
the prefix stands first in memory (log entry 24). -/
def tableWords (nbits w : Nat) : List Half :=
  if nbits ≤ 16 then [BitVec.ofNat 16 w]
  else
    let lo : Half := BitVec.ofNat 16 w
    let hi : Half := BitVec.ofNat 16 (w / 65536)
    if isPre lo then [lo, hi] else [hi, lo]

/-- The instruction read from a word of the opcode table; every word after it is 0. -/
noncomputable def decodeTableWord (nbits w : Nat) : Option Instr :=
  match decodeChain (tableWords nbits w ++ List.replicate 8 0) with
  | .ok i _ => some i
  | .bad _ _ _ => none

end Sys2Proof
end

