-- ==== Sys2Proof/Machine/Maps.lean ====
section
/-! DEFINITION. Finite maps as plain data: lists of key and value pairs, and the memory's list of cells in its canonical
form. -/

namespace Sys2Proof.Machine

/-- A finite map from numbers, kept in rising order of its keys; a key that is not listed has the default that the reader
names. -/
abbrev SMap (α : Type) : Type := List (Nat × α)

/-- The value of a key. -/
def mget {α : Type} (d : α) : SMap α → Nat → α
  | [], _ => d
  | (j, v) :: m, k => if j < k then mget d m k else if j = k then v else d

/-- Sets the value of a key. -/
def mset {α : Type} : SMap α → Nat → α → SMap α
  | [], k, v => [(k, v)]
  | (j, w) :: m, k, v =>
    if j < k then (j, w) :: mset m k v else if j = k then (k, v) :: m else (k, v) :: (j, w) :: m

/-- Is the key listed? -/
def mhas {α : Type} : SMap α → Nat → Bool
  | [], _ => false
  | (j, _) :: m, k => if j < k then mhas m k else j == k

/-- The value of a key, where it is listed. -/
def mfind {α : Type} : SMap α → Nat → Option α
  | [], _ => none
  | (j, v) :: m, k => if j < k then mfind m k else if j = k then some v else none

/-- Removes a key. -/
def mdel {α : Type} (m : SMap α) (k : Nat) : SMap α := m.filter fun p => p.1 != k

/-- Sets the keys k, k + 1, ... to the values of a list. -/
def msetRun {α : Type} : SMap α → Nat → List α → SMap α
  | m, _, [] => m
  | m, k, v :: vs => msetRun (mset m k v) (k + 1) vs

/-- The byte at a key of memory; a byte that is not listed reads 0 (log entry 4). -/
def memGet : List (Nat × Byte) → Nat → Byte
  | [], _ => 0
  | (j, v) :: m, k => if j = k then v else memGet m k

/-- Puts a cell into a list at its place. -/
def memPut : List (Nat × Byte) → Nat → Byte → List (Nat × Byte)
  | [], k, v => [(k, v)]
  | (j, w) :: m, k, v => if j < k then (j, w) :: memPut m k v else (k, v) :: (j, w) :: m

/-- Removes a cell. -/
def memDel (m : List (Nat × Byte)) (k : Nat) : List (Nat × Byte) := m.filter fun p => p.1 != k

/-- Writes one byte, keeping the canonical form: a byte equal to what an unlisted one reads as is not listed. -/
def memSet (m : List (Nat × Byte)) (k : Nat) (v : Byte) : List (Nat × Byte) :=
  if v = 0 then memDel m k else memPut (memDel m k) k v

/-- The canonical form: keys strictly rising, and no byte listed that reads the same unlisted. -/
def Memory.wf : List (Nat × Byte) → Bool
  | [] => true
  | (_, v) :: [] => v != 0
  | (j, v) :: (k, w) :: m => v != 0 && decide (j < k) && Memory.wf ((k, w) :: m)

end Sys2Proof.Machine
end

