-- ==== Sys2Proof/Machine/State.lean ====
section
/-! DEFINITION. The state of a Scestra 4816: every thread context, core, cluster and device unit that the spec gives, as plain
data, and the state right after reset. A context is named by a number: `pcl * 64 + core * 4 + ctx` for the contexts of physical
cluster pcl, `2^18 + pcl * 16 + core` for a core's resident handler (R409), `2^19 + 4 * e + n` for steward core n of Encke e. -/

namespace Sys2Proof.Machine

/-! ## Threads -/

/-- The states of R13. -/
inductive TSt where
  | empty | resident | run | parked | qwait | frozen | saved | done
deriving DecidableEq, Repr

/-- The modes of R392: launch code, runtime code, the resident handler, steward firmware. -/
inductive Mode where
  | user | runtime | handler | steward
deriving DecidableEq, Repr

/-- Where a byte is homed: a core's slice (from offset 32,768 the handler's protected area, R409), physical memory (R244), or
a steward core's SRAM (R438). -/
inductive Loc where
  | slice (core off : Nat)
  | phys (pa : Nat)
  | sram (st off : Nat)
deriving DecidableEq, Repr

/-- A resident unit of the window: return address, k and NC (R101). -/
structure Link where
  ret : Word
  k : Nat
  nc : Nat
deriving DecidableEq, Repr

/-- The register window (R100 to R110): FB, the frame size n, the ring, the resident units with the newest first, NSPILL,
RBSP and RBSL. -/
structure Win where
  fb : Nat := 0
  n : Nat := 8
  ring : SMap Word := []
  units : List Link := []
  nspill : Nat := 0
  rbsp : Word := 0
  rbsl : Word := 0
deriving DecidableEq, Repr

/-- The system registers of R117 and R391 that no other record holds. -/
structure Sys where
  vt : Word := 0
  rh : Word := 0
  tcause : Word := 0
  tpc : Word := 0
  tval : Word := 0
  tseq : Word := 0
  tvec : Word := 0
  tamask : Word := 0
  fpcsr : Word := 0
  kcause : Word := 0
  kpc : Word := 0
  kval : Word := 0
  kseq : Word := 0
  kvec : Word := 0
  kstat : Word := 0
  asid : Word := 0
  ktext : Word := 0
  kscr0 : Word := 0
  kscr1 : Word := 0
deriving DecidableEq, Repr

/-- A sequencer entry (R173, R412): the row of its page, its fields, its base word, its sequence number, the address of its
chain, its guard, whether it is a VLOOP member, the values popped or read at dispatch (a VMEM that has popped keeps what it popped),
and FPCSR.RM at dispatch. -/
structure SeqEnt where
  page : Nat
  id : Nat
  f : Fld
  base : Half
  seqno : BitVec 12
  pc : Word
  guard : Bool
  member : Bool
  vals : List Word
  rm : Nat
deriving DecidableEq, Repr

/-- A vector access that has issued and is not performed yet (R176, R180): its entry, its address, its home, whether it stores, its
place in its path, the cycle of its issue, the sequence number of the VLOOP whose member it is, and whether the interface has sent it
on (R249). -/
structure VMem where
  e : SeqEnt
  addr : Word
  loc : Loc
  store : Bool
  sq : Nat
  t0 : Nat
  loop : Option Nat
  sent : Bool
deriving DecidableEq, Repr

/-- A VLOOP in progress: iterations left, the next member, the body length (R187, R411), its sequence number. -/
structure VLoop where
  left : Nat
  next : Nat
  len : Nat
  id : Nat
deriving DecidableEq, Repr

/-- A late fault waiting to be raised (R183, R330): subcode, sequence number, address, and 1 where the access was a store. -/
structure Late where
  sub : Nat
  seqno : BitVec 12
  addr : Word
  store : Bool
deriving DecidableEq, Repr

/-- A thread's vector stream (R173 to R187). `raised` says that the pending halt has been raised and awaits its restart
(R184); `bodyLeft` counts the VLOOP members still to dispatch (R202). `rdy` gives the cycles from which results are usable, by
register, and `busy` those at which issued operations complete (R177), each with the VLOOP whose member it is; `mem` holds the accesses
under way, and `tails` the entries of a finished VLOOP that its members' operations still hold (R173). `pushed` is the queue that the
stream last pushed and the cycle of the push, `fed` the same of the scalar stream (R113); a late fault of the stream is raised from cycle
`lateFrom` on. -/
structure Vec where
  v : SMap V128 := []
  seq : List SeqEnt := []
  dseq : BitVec 12 := 0
  halted : Bool := false
  raised : Bool := false
  discard : Bool := false
  late : List Late := []
  loop : Option VLoop := none
  bodyLeft : Nat := 0
  ha : Option (Nat × V128) := none
  hb : Option (Nat × V128) := none
  rdy : List (Nat × Nat) := []
  busy : List (Nat × Option Nat) := []
  mem : List VMem := []
  tails : List (Nat × Nat) := []
  pushed : Option (Nat × Nat) := none
  fed : Option (Nat × Nat) := none
  lateFrom : Nat := 0
deriving DecidableEq, Repr

/-- The image of a stream register (R298); beside it the address of the recorded fault with the level and reason of its walk, the
descriptor once read, and the entries that the lookahead has read, by address (R300). -/
structure Strm where
  mode : Nat := 0
  level : Nat := 0
  done : Bool := false
  fpend : Bool := false
  fkind : Nat := 0
  fsub : Nat := 0
  cls : Nat := 0
  ina : Nat := 0
  inb : Nat := 0
  phase : Nat := 0
  desc : Word := 0
  parent : Word := 0
  posn : Word := 0
  send : Word := 0
  crdv : Word := 0
  aux : Word := 0
  fpos : Word := 0
  faddr : Word := 0
  fwalk : Nat := 0
  dsc : List Byte := []
  look : List (Nat × Nat) := []
deriving DecidableEq, Repr

/-- A blocking access in progress (R225). kind: 1 load, 2 ARSV, 3 AMO, 4 VAMO lane, 5 an sc store that waits for its write, 6 an SSEAL that
does. `op` is the ordering of a load or store (R222) or the fn of an atomic (R233); `sq` places it in its path (R208), and `sent` says that
the interface has sent it on (R249); `win` is the window before the instruction, for a precise DRAMERR; `next` the address after the
instruction; `rh` the read horizon at issue, for a VAMO lane the base address W[a]. -/
structure Pend where
  kind : Nat
  op : Nat
  loc : Loc
  va : Word
  size : Nat
  sx : Bool
  d : Nat
  acq : Bool
  sent : Bool
  cls : Nat
  rh : Word
  t0 : Nat
  sq : Nat
  lane : Nat
  opnd : Word
  new : Word
  win : Win
  next : Word
deriving DecidableEq, Repr

/-- A hold (R230, R231): the held word, the address it was reached by, its size, and the instructions issued since. -/
structure Hold where
  loc : Loc
  va : Word
  size : Nat
  count : Nat
deriving DecidableEq, Repr

/-- A message on its way to a mailbox, or held before one (R353, R355). `src` is the poster: the sender's tid for USER, the
command as 2^20 slot + vcluster for COPYDONE (slot 64 for a refused one), the unit's number for the rest. `counted` marks SEND and SENDS,
`vt` is the VT it carries, `t0` the cycle of the first refusal, `dev` a peer device or 0; `sq` and `dseq` say which of the
sender's accesses its release waits for (R219, R358). -/
structure NetMsg where
  msg : V128
  lid : Nat
  dst : Nat
  kind : Nat
  src : Nat
  counted : Bool
  vt : Word
  t0 : Nat
  dev : Nat
  sq : Nat
  dseq : BitVec 12
deriving DecidableEq, Repr

/-- What a thread in RECV or RECVT waits for (R359, R360): the pair, the deadline and the register that held it, the predicate, the
address after it. -/
structure Park where
  a : Nat
  mask : Word
  deadline : Option Nat
  b : Nat := 0
  x : Nat
  nextPc : Word
deriving DecidableEq, Repr

/-- A buffered speculative store (R377). -/
structure SbEnt where
  loc : Loc
  va : Word
  size : Nat
  v : Nat
  cls : Nat
deriving DecidableEq, Repr

/-- A speculation checkpoint (R379). -/
structure Ckpt where
  pc : Word
  win : Win
  pw : BitVec 8
  v : SMap V128
  strm : SMap Strm
  spen : Bool
deriving DecidableEq, Repr

/-- A thread's messages, alarm and waits (R354 to R362). `alarm` holds the time and the tag. -/
structure Mail where
  box : List V128 := []
  held : List NetMsg := []
  slot : Option NetMsg := none
  alarm : Option (Nat × Nat) := none
  alarmHeld : Bool := false
  park : Option Park := none
deriving DecidableEq, Repr

/-- A thread's speculation and tasks (R375 to R384): the level of SDOM, SPEN, the store buffer, the checkpoint, a held task as
its level, its leader's unit and its key, a conflict found and not yet in effect, and TABORT's wait; arrivals by level, 1 conditional
and 2 unconditional (R366). -/
structure Spec where
  sdom : Nat := 4
  spen : Bool := true
  sb : List SbEnt := []
  ckpt : Option Ckpt := none
  task : Option (Nat × Nat × Nat) := none
  abort : Bool := false
  abortWait : Bool := false
  syncWait : Bool := false
  arr : SMap Nat := []
deriving DecidableEq, Repr

/-- A thread context (R12, R98). `svst` is the state in which it was saved, `grp` where its group stands as 2^16 half + number,
`jobs` the job instructions it dispatched that have not completed as jobs. -/
structure Thread where
  st : TSt := .empty
  svst : TSt := .empty
  lid : Nat := 0
  tid : Nat := 0
  pc : Word := 0
  mode : Mode := .user
  win : Win := {}
  pw : BitVec 8 := 1
  q : SMap (List Word) := []
  vec : Vec := {}
  strm : SMap Strm := []
  sys : Sys := {}
  pend : Option Pend := none
  hold : Option Hold := none
  mail : Mail := {}
  spec : Spec := {}
  qblk : Option (Nat × Bool) := none
  promise : List Word := []
  preempt : Option Nat := none
  stopReq : Bool := false
  drained : Bool := false
  notBefore : Nat := 0
  rdy : List (Nat × Nat) := []
  grp : Option Nat := none
  jobs : Nat := 0
  lastStrm : Nat := 0
deriving DecidableEq, Repr

/-! ## Cores -/

/-- A store in one of a core's paths (R208): its place in the path, the issuing context, its home, its bytes as a number, whether it
is an AREL's, the VT it writes with (R379), its class, whether it is a vector store, and whether the interface has sent it on (R249). -/
structure PathOp where
  sq : Nat
  c : Nat
  loc : Loc
  size : Nat
  v : Nat
  arel : Bool
  vt : Word
  cls : Nat
  vec : Bool
  sent : Bool
deriving DecidableEq, Repr

/-- A slot of a token queue (R285). -/
structure TqSlot where
  seq : Nat
  arr : Nat
  exps : Nat
  pend : Int
  err : Bool
  token : Bool
  retired : List Nat
deriving DecidableEq, Repr

/-- A producer or consumer of a token queue: its thread id, request and arrival cursors, the next sequence to be posted,
whether it has dropped. -/
structure TqParty where
  tid : Nat
  req : Nat
  acq : Nat
  posted : Nat
  dropped : Bool
deriving DecidableEq, Repr

/-- An active token queue of a queue unit (R282, R285); `off` is its descriptor's offset. -/
structure Tq where
  off : Nat
  data : Nat
  ssize : Nat
  tag : Nat
  level : Nat
  live : Nat
  init : Nat
  slots : List TqSlot
  prod : List TqParty
  cons : List TqParty
deriving DecidableEq, Repr

/-- An entry of the coprocessor ring (R407). -/
structure RingEnt where
  pc : Word
  ctx : Nat
  page : Nat
  maj : Nat
  seqno : BitVec 12
  status : Nat
  sub : Nat
  base : Half
  snap0 : Word
  snap1 : Word
deriving DecidableEq, Repr

/-- A domain as one unit holds it: its DINFO (R26), GVT (R375), BLACK (R368) and the last completed circuit: white, sum zero,
circuits completed, members not yet arrived (R371). -/
structure Dom where
  dinfo : Word := 0
  gvt : Word := 0
  black : Bool := false
  white : Bool := false
  sumZero : Bool := false
  circuits : Nat := 0
  missing : Nat := 0
deriving DecidableEq, Repr

/-- A core (R8): issue pointers, whether each stream has issued in this cycle, its paths (private port, loop-back port, request ring, the
stream unit's ring), the count that orders them, the source that its slice served last (R20), its queue unit, the threads whose stream
contexts are resident and one that waits for that (R302), the lookahead's request as context, register and whether the interface has sent it
on (R249, R300), its coprocessor ring with the newest first, its level-0 domain, the cycles from which its divider (R124) and its vector
divide unit (R177) are free. -/
structure Core where
  ptr : Nat := 0
  vptr : Nat := 0
  issued : Bool := false
  vissued : Bool := false
  priv : List PathOp := []
  loop : List PathOp := []
  ring : List PathOp := []
  sring : List PathOp := []
  nsq : Nat := 0
  turn : Nat := 5
  tq : List Tq := []
  strms : List Nat := []
  strmWant : Option Nat := none
  slook : Option (Nat × Nat × Bool) := none
  cring : List RingEnt := []
  dom : Dom := {}
  divFree : Nat := 0
  vdivFree : Nat := 0
deriving DecidableEq, Repr

/-! ## Clusters and their engines -/

/-- A line of the cluster L1 (R210): its physical line, its bytes, the grant instant and the expiry. -/
structure L1Line where
  line : Nat
  data : List Byte
  g : Nat
  e : Nat
deriving DecidableEq, Repr

/-- What an engine writes into one unit of ownership (R213, R214): the bytes by their place in the unit, how many bytes of
its command they stand for, and whether the interface has sent the write on (R249). -/
structure UnitW where
  loc : Loc
  cells : SMap Byte
  n : Nat
  sent : Bool := false
deriving DecidableEq, Repr

/-- One piece of a copy: bytes from a source, or fixed bytes where the source is `none`, to a destination (R271, R277). -/
structure Piece where
  src : Option Word
  fill : List Byte
  dst : Word
  len : Nat
deriving DecidableEq, Repr

/-- An accepted copy command (R263, R273): its issuer, code, block address, fields, promise, the pieces in its order; `prep`
says that its sources are read, `units` holds the units that it owns and has still to write, `fin` the cycle of its last write;
`dseq` says which vector accesses of the issuer its reads follow (R219); `asks` holds the costs of its reads that the interface has
still to send on (R249). state: 0 performing, 1 waiting on a steward record,
2 frozen, 3 done and waiting for its COPYDONE to be delivered. -/
structure Cmd where
  slot : Nat
  lid : Nat
  tid : Nat
  fn : Nat
  block : Word
  tag : Nat
  count : Bool
  pen : Bool
  qh : Word
  qseq : Nat
  kslot : Nat
  ctr : Word
  cls : Nat
  pieces : List Piece
  prep : Bool
  units : List UnitW
  total : Nat
  written : Nat
  promise : Nat
  fin : Nat
  vt : Word
  asid : Nat
  core : Nat
  priv : Bool
  tagAt : Word
  len : Nat
  src : Word
  dst : Word
  status : Nat
  state : Nat
  voided : Bool
  dseq : BitVec 12
  asks : List Nat
deriving DecidableEq, Repr

/-- A counted decrement on its way to a queue unit (R288): launch, home vcluster and core, descriptor offset, sequence, bytes,
whether it sets ERR, and the command it reports to, by its vcluster and slot. -/
structure CDec where
  lid : Nat
  vcl : Nat
  core : Nat
  off : Nat
  qseq : Nat
  bytes : Nat
  err : Bool
  cvcl : Nat
  slot : Nat
deriving DecidableEq, Repr

/-- A multicast record (R279): sender's cluster and tag, the receivers that have not freed, whether its COPYDONE is posted. -/
structure Mcast where
  tag : Nat
  lid : Nat
  tid : Nat
  wait : List Nat
  done : Bool
deriving DecidableEq, Repr

/-- A key slot (R280). -/
structure KeySlot where
  valid : Bool := false
  owner : Nat := 0
  sid : Nat := 0
  lastSeal : Nat := 0
  lastOpen : Nat := 0
  key : Nat := 0
  tdi : Option Nat := none
deriving DecidableEq, Repr

/-- A queued or running matrix job (R328, R412): its issuer by launch, thread and core number, major and fn as 16 maj + fn, its
fields, the window registers read at dispatch, its vector operands, its sequence number, its job number, the VT it writes with. -/
structure Job where
  lid : Nat
  tid : Nat
  core : Nat
  id : Nat
  f : Fld
  base : Half
  vals : List Word
  va : V128
  va1 : V128
  vb : V128
  vb1 : V128
  seqno : BitVec 12
  num : Nat
  vt : Word
  priv : Bool
deriving DecidableEq, Repr

/-- A group's tile context (R327, R343 to R346). `tiles` holds element (r, c) of tile t at 256 t + 16 r + c; `log` holds the pivot
log's entries, oldest first. -/
structure Tctx where
  tiles : SMap Nat := []
  status : SMap Word := []
  tau : Nat := 0
  delta : Nat := 0x33800000
  bound : Nat := 0x7FFFFFFF
  ident : Nat := 0
  prog : Option Word := none
  log : List Word := []
  ovf : Bool := false
deriving DecidableEq, Repr

/-- A job that has begun and has still to write memory (R329, R347): the units left, the context it leaves at its end; for a
solver the boundaries passed, its matrix and its factor as read at its start and worked on since, the flags and the log events so far
as kind, place and value. -/
structure Run where
  units : List UnitW := []
  after : Tctx := {}
  step : Nat := 0
  rows : List (List Nat) := []
  factor : List (List Nat) := []
  flags : Nat := 0
  events : List (Nat × Nat × Nat) := []
deriving DecidableEq, Repr

/-- A matrix group (R325 to R346): its KEY, launch, members' thread ids by ascending core, tile context, NEXT and DONE, queue, the
job under way, and how its context stands: frozen (R330), waiting for a steward (R402), its resident place, whether it lies in the
save area and in which group area there (R410), whether it has to run a job before it may be drained, the order of its latest start,
whether it ends with its last job, and whether a job of it has completed. -/
structure Group where
  key : Nat
  lid : Nat
  members : List Nat
  ctx : Tctx
  next : Nat := 0
  done : Nat := 0xFFFF
  jobs : List Job := []
  run : Option Run := none
  frozen : Bool := false
  wait : Bool := false
  place : Option Nat := none
  drained : Bool := false
  areaAt : Nat := 0
  fresh : Bool := false
  lastStart : Nat := 0
  ending : Bool := false
  ran : Bool := false
deriving DecidableEq, Repr

/-- A waiting convening (R325): its key, size and the thread ids that asked. -/
structure Conv where
  key : Nat
  n : Nat
  who : List Nat
deriving DecidableEq, Repr

/-- A matrix engine: its waiting convenings and its groups by number. -/
structure MEng where
  conv : List Conv := []
  groups : SMap Group := []
deriving DecidableEq, Repr

/-- A slot of R363 that an interface holds. -/
structure SlotEnt where
  core : Nat
  dstv : Nat
  start : Nat
  len : Nat
deriving DecidableEq, Repr

/-- A task of a task store (R381): the level it belongs to, its domain's leader as a unit (for level 0 the core), its key and
payload, and the last tie that the leader assigned to its timestamp. -/
structure Task where
  level : Nat
  unit : Nat
  key : Nat
  pay0 : Word
  pay1 : Word
  last : Nat
deriving DecidableEq, Repr

/-- A cluster (R8): the launch that holds it, its energy meter and clock step, its front end, L1, vcluster table, domains by
level 1 to 4 with the bitmaps of levels 2 and 3, slots, copy engine, key slots, matrix engines by half, task store, the weights of the
core rings, and the arbitration of R249: D by ring, and the ring to be visited next. -/
structure Cluster where
  launch : Option Nat := none
  vcl : Nat := 0
  lmem : Nat := 0
  saving : Bool := false
  savingCore : Option Nat := none
  meter : Nat := 0
  cstep : Nat := 0
  fblocks : List Nat := []
  l1 : List L1Line := []
  vct : SMap (BitVec 16) := []
  dom : SMap Dom := []
  dmap2 : SMap Word := []
  dmap3 : SMap Word := []
  slots : List SlotEnt := []
  log2f : Option Nat := none
  cmds : List Cmd := []
  plast : Nat := 0
  mcasts : List Mcast := []
  keys : SMap KeySlot := []
  meng : SMap MEng := []
  tasks : List Task := []
  held : List Task := []
  weights : Word := 0
  drr : SMap Nat := []
  drrAt : Nat := 0
deriving DecidableEq, Repr

/-! ## The device -/

/-- An object that the privileged runtime has loaded (R33 to R40): where its header stands, its address space, the address of
TEXT and DATA, its entries as offset, frame and ECTX, and the fields of its record and sections that the device uses. -/
structure Obj where
  addr : Word
  asid : Nat
  text : Word
  textSize : Nat
  data : Word
  dataSize : Nat
  entries : List (Nat × Nat × Nat)
  lmem : Nat
  clmin : Nat
  clmax : Nat
  localImg : List Byte
  queues : List (List Byte)
  domains : List (Nat × List Word)
  shape : Nat
  rows : Nat
  cols : Nat
  weights : Word
  log2f : Option Nat
  slots : List (Nat × SlotEnt)
  ucode : List (Word × BitVec 32)
deriving DecidableEq, Repr

/-- A placed launch (R57, R69): its queue, slot, record, address space, size, start time and cycle of readiness, clusters by
vcluster, save area, charge, what it has been charged, and how it ends. -/
structure Launch where
  active : Bool := false
  queue : Nat := 0
  slot : Nat := 0
  recPa : Nat := 0
  obj : Nat := 0
  entry : Word := 0
  asid : Nat := 0
  ncl : Nat := 0
  ectx : Nat := 0
  args : List Word := []
  start : Option Nat := none
  ready : Nat := 0
  pcls : SMap Nat := []
  save : Word := 0
  charge : Nat := 0
  tused : Nat := 0
  eused : Nat := 0
  signal : Bool := false
  sigsem : Word := 0
  killed : Bool := false
  clean : Bool := false
deriving DecidableEq, Repr

/-- A translation cached in a TLB (R398), of a core (`core`) or shared by a cluster: the page's base and size, the frame, and the
permissions K, X, W, R. -/
structure TlbEnt where
  pcl : Nat
  core : Option Nat := none
  asid : Nat
  va : Nat
  size : Nat
  pa : Nat
  k : Bool
  x : Bool
  w : Bool
  r : Bool
deriving DecidableEq, Repr

/-- A miss of a cluster's TLBs (R398): it holds one of the cluster's 64 miss registers and stands in its die's queue of walks. -/
structure Miss where
  pcl : Nat
  asid : Nat
  page : Nat
deriving DecidableEq, Repr

/-- A speculative tag or mark (R378): the unit (a granule of a slice, or a sector of global memory with the mask of its
granules), the thread, its VT and SDOM. -/
structure Mark where
  loc : Loc
  mask : Nat
  c : Nat
  vt : Word
  sdom : Nat
deriving DecidableEq, Repr

/-- A reserved word at its home (R230): the context that holds it. A reservation reaches its home when it is granted; those
that wait stand in their threads. -/
structure Resv where
  loc : Loc
  size : Nat
  holder : Nat
deriving DecidableEq, Repr

/-- A unit owned by an engine context (R213). eng: 0 copy, 1 and 2 the matrix engines of half 0 and 1; id: command slot or
group. -/
structure Own where
  loc : Loc
  size : Nat
  pcl : Nat
  eng : Nat
  id : Nat
deriving DecidableEq, Repr

/-- A line of the L2 (R203, R226, R240, R449): the way it stands in, its place in
the order of use, its evict class, and its valid and its dirty sectors. -/
structure L2Line where
  line : Nat
  way : Nat
  stamp : Nat
  cls : Nat
  valid : Nat
  dirty : Nat
deriving DecidableEq, Repr

/-- An address-range retention register (R240, R242); `mask` names the ways that it sets aside in every set. -/
structure Arr where
  base : Word := 0
  size : Nat := 0
  ways : Nat := 0
  hits : Nat := 0
  ovf : Nat := 0
  mask : Nat := 0
  pa : Nat := 0
  holder : Option Nat := none
  last : Option Nat := none
deriving DecidableEq, Repr

/-- A steward record (R401). -/
structure SRec where
  w0 : Word := 0
  w1 : Word := 0
  w2 : Word := 0
  w3 : Word := 0
deriving DecidableEq, Repr

/-- A scheduler slot (R59, R60, R66). `waitFrom` holds the index of the owner's head, and since when it stands there;
`replAt` the cycle of the latest replenishment. -/
structure QSlot where
  map : Bool := false
  qnum : Nat := 0
  period : Nat := 0
  tbud : Nat := 0
  ebud : Nat := 0
  deadline : Nat := 0
  tspent : Nat := 0
  espent : Nat := 0
  bv : Bool := false
  borrow : Nat := 0
  nplaced : Nat := 0
  eovr : Bool := false
  tovr : Bool := false
  state : Nat := 0
  waitFrom : Option (Nat × Nat) := none
  replAt : Option Nat := none
deriving DecidableEq, Repr

/-- A chosen head at which the decision stopped (R65): its slot, queue and index, since when, and 0 for credit or 1 for
clusters. -/
structure Stalled where
  slot : Nat
  queue : Nat
  head : Nat
  since : Nat
  why : Nat
deriving DecidableEq, Repr

/-- The launch scheduler (R53 to R67) with the event ring and its overflow buffer (R62): the TAILs that it keeps for DEVAPP
queues, the queues in RINGERR, by queue the head whose semaphore it found at its value (as its index plus 1), the cycle of the latest
completion signal, the chosen heads that wait, the queues whose examination waits for memory, and those whose doorbell does (R260). -/
structure Sched where
  en0 : Bool := false
  en1 : Bool := false
  standby0 : Bool := false
  standby1 : Bool := true
  held : Bool := false
  qtbase : Nat := 0
  eclaim : Nat := 0
  credit : Nat := 0
  evbase : Nat := 0
  evhead : Nat := 0
  evtail : Nat := 0
  stallp : Nat := 0x01C9C380
  evbuf : List (Word × Word) := []
  slots : SMap QSlot := []
  tails : SMap Nat := []
  ringerr : List Nat := []
  sems : SMap Nat := []
  sigAt : Option Nat := none
  stalls : List Stalled := []
  late : List Nat := []
  bells : List Nat := []
deriving DecidableEq, Repr

/-- One region of the physical map: staged or active (R246, R247); the rows that differ from their reset value. -/
structure Region where
  en : Bool := false
  base : Nat := 0
  log2sz : Nat := 0
  rows : SMap Nat := []
deriving DecidableEq, Repr

/-- The AMAP block (R247, R248). -/
structure Amap where
  staged : SMap Region := [(0, { en := true, log2sz := 39 })]
  active : SMap Region := [(0, { en := true, log2sz := 39 })]
  status : Nat := 0
  busy : Bool := false
deriving DecidableEq, Repr

/-- The migration of the page at the head of an engine's queue (R252): the frame it goes to, the next of its 256 sectors to copy, the
sectors that were written since. -/
structure Mov where
  frame : Nat
  next : Nat := 0
  dirty : List Nat := []
deriving DecidableEq, Repr

/-- A migration engine (R251, R252): its registers, the queued requests as page and tier, and the migration in progress of the page at
the head. -/
structure Pmig where
  en : Bool := false
  ppt : Nat := 0
  npages : Nat := 0
  freeh : Nat := 0
  nfreeh : Nat := 0
  freel : Nat := 0
  nfreel : Nat := 0
  queue : List (Nat × Nat) := []
  mov : Option Mov := none
deriving DecidableEq, Repr

/-- A stack's repair state (R253 to R255): the mode and THR of the configuration image, the mapped-out dies, REFUSED, the
redirected atoms with LOST, the candidates with their counts, the most recently seen first. -/
structure Rmap where
  mode : Nat := 0
  thr : Nat := 1
  out : Nat := 0
  refused : Bool := false
  full : Bool := false
  table : SMap Bool := []
  cand : List (Nat × Nat) := []
deriving DecidableEq, Repr

/-- An error log (R258, R259). -/
structure Elog where
  ents : List SRec := []
  ovf : Bool := false
  ecnt : SMap Word := []
  eseq : SMap Nat := []
deriving DecidableEq, Repr

/-- An error event of this cycle, which takes its sequence number at the cycle's end (R257): its log, its channel, type, PADDR and
WHERE, and its place in the order of stack, channel and pseudo-channel. -/
structure ErrEv where
  blk : Nat
  ch : Option Nat
  type : Nat
  addr : Nat
  whr : Nat
  place : Nat
deriving DecidableEq, Repr

/-- A channel's PHY registers (R260 to R262); `bursts` are those of the latest run. `scrub` is the sector that the patrol comes to, `owed`
how many sectors it owes while the channel is not ONLINE (R256). -/
structure Phy where
  rdly : SMap Nat := []
  wdly : SMap Nat := []
  pat : Nat := 0
  done : Bool := false
  running : Bool := false
  bursts : Nat := 0
  perr : Word := 0
  lrep : Nat := 0
  online : Bool := false
  scrub : Nat := 0
  owed : Nat := 0
deriving DecidableEq, Repr

/-- The energy governor (R433). -/
structure Egov where
  auto : Bool := false
  rate : Nat := 0
  cmax : Nat := 0
  cstep : Nat := 0
  dev : Nat := 0
deriving DecidableEq, Repr

/-- The states of the TDI (R428). -/
inductive Tdi where
  | unlocked | locked | run | error
deriving DecidableEq, Repr

/-- A host port (R424 to R432): HL_EVENT, the freeze of the host function with the requests held, the TDI with the bindings
fixed at the lock, the IDE streams that are secure, the SPDM session, measurement block 5, and what the port has sent out. -/
structure Port where
  event : Nat := 0
  frozen : Bool := false
  held : List BusReq := []
  tdi : Tdi := .unlocked
  bndQt : Nat := 0
  bnd : List (Nat × Nat × Nat) := []
  ide : SMap Bool := []
  bound : List Nat := []
  session : Bool := false
  negotiated : Bool := false
  locks : Nat := 0
  out : List (Nat × List Byte) := []
  msi : Nat := 0
deriving DecidableEq, Repr

/-- The retention state machine (R435 to R437): retained; on the way in, with the save handles that stood before; on the way
out, with the handles still to restore; the value at which GTIME stopped; retention ticks; the warning input. -/
structure Retain where
  on : Bool := false
  entering : Bool := false
  resuming : Bool := false
  before : List Nat := []
  todo : List Nat := []
  gx : Nat := 0
  ticks : Nat := 0
  warning : Bool := false
deriving DecidableEq, Repr

/-- A saved cluster by its handle (R408, R410): the launch and vcluster, its old place, GTIME at the save, its contexts and
cores with the state of the device areas of the save area (R410), its cluster state, its spilled messages, the marks on its
slices, the steward records of its masters; `single` names the core of a single core's save. -/
structure Saved where
  lid : Nat
  vcl : Nat
  oldPcl : Nat
  time : Nat
  single : Option Nat
  thr : SMap Thread
  cores : SMap Core
  clu : Cluster
  msgs : List NetMsg
  marks : List Mark
  recs : List Nat
deriving DecidableEq, Repr

/-- What a turn of the model does (log entry 1): a context issues its next scalar instruction; a context is asked whether it issues, and
goes to the ordered requests of the cycle where its instruction is one; the ordered requests by their key, each with the contexts of
its core that follow it; a cluster's interface sends requests on (R249); a slice serves one of its sources (R20); a unit acts; what is due
by the end of the cycle; a cycle ends. -/
inductive Turn where
  | issue (c : Nat)
  | choose (c : Nat)
  | lates (q : List (Nat × List Nat))
  | arb (p : Nat)
  | slice (k : Nat)
  | ev (i : Instr)
  | close
  | tick
deriving DecidableEq, Repr

/-- What the fetch of the instruction in execution left: the address after its base word, and the words of its chain. -/
structure Ir where
  next : Word := 0
  words : List Half := []
deriving DecidableEq, Repr

/-- The units that the boot ROM, the host link and the peers keep (R424 to R437). -/
structure Outer where
  ports : SMap Port := []
  retain : Retain := {}
  bootfail : Bool := false
  booted : Bool := false
  meas : Nat := 0
  linkDown : List Nat := []
  dieDown : List Nat := []
  peerPort : SMap Nat := []
  peerBind : List (Nat × Nat) := []
  peerOut : List NetMsg := []
  peerReply : List (Nat × List Byte) := []
deriving DecidableEq, Repr

/-- Memory's repair, logs, PHY and placement units (R244 to R262). -/
structure Dram where
  amap : Amap := {}
  pmig : SMap Pmig := []
  rmap : SMap Rmap := []
  elog : SMap Elog := []
  gseq : Nat := 1
  errs : List ErrEv := []
  phy : SMap Phy := []
  poison : List Nat := []
  weak : List Nat := []
deriving DecidableEq, Repr

/-- The orderable forms (R1). -/
inductive Form where
  | d | p | m
deriving DecidableEq, Repr

/-- The machine. `cur`, `ir`, `waited`, `agenda` and `fresh` are the model's own: the context in execution, what its fetch
left, whether it had to wait, the turns of the current cycle still to come (log entry 1), and the count that open values are
applied to (log entry 2). `rsvq` holds the contexts whose reservations have arrived at their homes, in the order of arrival (R230), and
`wts` the write timestamps of sectors (R211); `leaseq` the lines whose home has a write that waits for leases (R211); `walks` the misses of the TLBs in the order of their arrival (R398). -/
structure State where
  gtime : Nat := 0
  form : Form := .m
  mem : List Host.Cell := []
  thr : SMap Thread := []
  cores : SMap Core := []
  clus : SMap Cluster := []
  launches : SMap Launch := []
  objects : List Obj := []
  net : List NetMsg := []
  decs : List CDec := []
  tlb : List TlbEnt := []
  walks : List Miss := []
  l2 : List L2Line := []
  leases : SMap Nat := []
  marks : List Mark := []
  resv : List Resv := []
  rsvq : List Nat := []
  wts : SMap Nat := []
  leaseq : List Nat := []
  owned : List Own := []
  arrs : SMap Arr := []
  saved : SMap Saved := []
  srec : SMap SRec := []
  srecWait : List SRec := []
  astab : Nat := 0
  kstat : Nat := 0
  rest : Option (Nat × Nat) := none
  sched : Sched := {}
  dram : Dram := {}
  egov : Egov := {}
  outer : Outer := {}
  mapped : List Nat := []
  cur : Nat := 0
  ir : Ir := {}
  waited : Bool := false
  agenda : List Turn := []
  fresh : Nat := 0
deriving DecidableEq, Repr

/-- The machine never stops with a fault: every violation that the spec names freezes a master, traps, or is logged, and the
machine goes on. The one constructor is kept for a turn whose context does not exist; no step raises it. Safe. -/
inductive Fault where
  | noContext (c : Nat)
deriving DecidableEq, Repr

/-- Why an instruction is refused. -/
inductive Refusal where
  /-- Raised by an arm of `exec` whose instruction has no meaning yet; safe, since nothing is claimed of it. -/
  | notModelled (mnemonic : String)
deriving DecidableEq, Repr

/-- The machine right after reset: no launch is placed, every context is EMPTY, every register of the steward window has its
reset value. Values that the spec does not state are those of log entry 17. -/
def State.reset : State := {}

end Sys2Proof.Machine
end

