-- ==== Sys2Proof/Machine/Ops.lean ====
section
/-! DEFINITION. The named operations over the state: contexts, window registers, predicates, memory by its homes, the event
ring, steward records, and taking a trap or a freeze. -/

namespace Sys2Proof.Machine

/-! ## Contexts and registers -/

/-- The core of a context: a steward core stands for itself. -/
def coreId (c : Nat) : Nat := if c < 2 ^ 18 then c / 4 else if c < 2 ^ 19 then c - 2 ^ 18 else c
/-- The physical cluster of a context. -/
def pclOf (c : Nat) : Nat := coreId c / 16
/-- The core number in its cluster. -/
def coreNo (c : Nat) : Nat := coreId c % 16
/-- The context number in its core. -/
def ctxNo (c : Nat) : Nat := c % 4
/-- Steward cores (R438). -/
def isSteward (c : Nat) : Bool := decide (2 ^ 19 ≤ c)
/-- Resident handlers (R409). -/
def isHandler (c : Nat) : Bool := decide (2 ^ 18 ≤ c) && decide (c < 2 ^ 19)
/-- The context of a physical cluster, core and context number. -/
def ctxId (pcl core x : Nat) : Nat := pcl * 64 + core * 4 + x

/-- A context's record. -/
def State.thread (s : State) (c : Nat) : Thread := mget {} s.thr c
/-- Sets a context's record. -/
def State.setThread (s : State) (c : Nat) (t : Thread) : State := { s with thr := mset s.thr c t }
/-- The context in execution. -/
def State.t (s : State) : Thread := s.thread s.cur
/-- Sets the context in execution. -/
def State.setT (s : State) (t : Thread) : State := s.setThread s.cur t
/-- A core's record. -/
def State.core (s : State) (k : Nat) : Core := mget {} s.cores k
/-- Sets a core's record. -/
def State.setCore (s : State) (k : Nat) (x : Core) : State := { s with cores := mset s.cores k x }
/-- A cluster's record. -/
def State.clu (s : State) (p : Nat) : Cluster := mget {} s.clus p
/-- Sets a cluster's record. -/
def State.setClu (s : State) (p : Nat) (x : Cluster) : State := { s with clus := mset s.clus p x }
/-- A launch's record. -/
def State.launch (s : State) (l : Nat) : Launch := mget {} s.launches l
/-- Sets a launch's record. -/
def State.setLaunch (s : State) (l : Nat) (x : Launch) : State := { s with launches := mset s.launches l x }

/-- wi of a thread (R100). -/
def Thread.w (t : Thread) (i : Nat) : Word := mget 0 t.win.ring ((t.win.fb + i) % 64)
/-- Writes wi. -/
def Thread.setW (t : Thread) (i : Nat) (v : Word) : Thread :=
  { t with win := { t.win with ring := mset t.win.ring ((t.win.fb + i) % 64) v } }
/-- wi becomes usable only at a later cycle (R123): `rdy` keeps the cycle beside the register's place in the ring. -/
def Thread.later (t : Thread) (now i at_ : Nat) : Thread :=
  { t with rdy := ((t.win.fb + i) % 64, at_) :: t.rdy.filter fun p => decide (now < p.2) && p.1 != (t.win.fb + i) % 64 }
/-- Is wi usable in a cycle (R123)? -/
def Thread.usable (t : Thread) (now i : Nat) : Bool := t.rdy.all fun p => p.1 != (t.win.fb + i) % 64 || decide (p.2 ≤ now)
/-- The cycle by which every instruction issued so far is complete (R125). -/
def Thread.completeAt (t : Thread) : Nat := (t.rdy.map fun p => p.2).foldl max 0
/-- Predicate n; p0 reads 1 (R111). -/
def Thread.p (t : Thread) (n : Nat) : Bool := if n = 0 then true else t.pw.getLsbD n
/-- Writes predicate n; a write to p0 is discarded (R111). -/
def Thread.setP (t : Thread) (n : Nat) (b : Bool) : Thread :=
  if n = 0 then t
  else { t with pw := if b then t.pw ||| BitVec.ofNat 8 (2 ^ n) else t.pw &&& ~~~(BitVec.ofNat 8 (2 ^ n)) }

/-- W[a] of the context in execution. -/
def State.W (s : State) (a : BitVec 6) : Word := s.t.w a.toNat
/-- Writes W[a]. -/
def State.setW (s : State) (a : BitVec 6) (v : Word) : State := s.setT (s.t.setW a.toNat v)
/-- W[n + i], for pairs and runs. -/
def State.Wn (s : State) (a : BitVec 6) (i : Nat) : Word := s.t.w (a.toNat + i)
/-- Writes W[n + i]. -/
def State.setWn (s : State) (a : BitVec 6) (i : Nat) (v : Word) : State := s.setT (s.t.setW (a.toNat + i) v)
/-- P[n] of the context in execution. -/
def State.P (s : State) (n : Nat) : Bool := s.t.p n
/-- Writes P[n]. -/
def State.setP (s : State) (n : Nat) (b : Bool) : State := s.setT (s.t.setP n b)
/-- The predicate that a compare writes: p1, or the one x names (R84). -/
def destP (x : BitVec 3) : Nat := if x = 0 then 1 else x.toNat
/-- A vector register (R115). -/
def Thread.vr (t : Thread) (n : Nat) : V128 := mget 0 t.vec.v n
/-- Writes a vector register. -/
def Thread.setVr (t : Thread) (n : Nat) (v : V128) : Thread := { t with vec := { t.vec with v := mset t.vec.v n v } }

/-- Sets the PC of the context in execution. -/
def State.setPc (s : State) (pc : Word) : State := s.setT { s.t with pc := pc }
/-- A transfer to an address: the next instruction issues from cycle c + 2 (R123). -/
def State.jump (s : State) (pc : Word) : State := s.setT { s.t with pc := pc, notBefore := s.gtime + 2 }
/-- The PC becomes the address after the base word (R73). -/
def State.advance (s : State) : State := s.setPc s.ir.next
/-- The address of the base word of the instruction in execution. -/
def State.basePc (s : State) : Word := s.ir.next - 2
/-- The block of the base word: its address with bits [5:0] cleared (R74). -/
def State.baseBlock (s : State) : Word := s.basePc &&& ~~~(63 : Word)

/-! ## Bits of words -/

/-- Bits [hi:lo] of a word as a number. -/
def bitsOf (w : Word) (hi lo : Nat) : Nat := w.toNat / 2 ^ lo % 2 ^ (hi + 1 - lo)
/-- Bit n of a number. -/
def nbit (v n : Nat) : Bool := v / 2 ^ n % 2 == 1
/-- A truth value as a number. -/
def b2n (b : Bool) : Nat := if b then 1 else 0
/-- The low n bits of a word, sign-extended (R7); n is at least 1. -/
def sextW (v : Word) (n : Nat) : Word :=
  let m := v.toNat % 2 ^ n
  if m < 2 ^ (n - 1) then BitVec.ofNat 64 m else BitVec.ofNat 64 (2 ^ 64 + m - 2 ^ n)
/-- The low n bits of a word, zero-extended (R7). -/
def zextW (v : Word) (n : Nat) : Word := BitVec.ofNat 64 (v.toNat % 2 ^ n)
/-- A widened immediate of m bits, sign-extended (R83). -/
def immS (f : Fld) (m : Nat) : Word := sextW (BitVec.ofNat 64 f.imm.toNat) m
/-- A widened immediate, zero-extended (R83). -/
def immZ (f : Fld) : Word := BitVec.ofNat 64 f.imm.toNat
/-- The signed value of the low n bits of a number. -/
def sint (v n : Nat) : Int := let m := v % 2 ^ n; if m < 2 ^ (n - 1) then (m : Int) else (m : Int) - 2 ^ n
/-- An integer modulo 2^n as a number (R7). -/
def wrapN (v : Int) (n : Nat) : Nat := (v % (2 ^ n : Int)).toNat
/-- ⌈a / b⌉. -/
def ceilDiv (a b : Nat) : Nat := (a + b - 1) / b
/-- All ones. -/
def ones64 : Word := BitVec.allOnes 64

/-! ## Bytes -/

/-- The n bytes of a number, the least significant first (R4). -/
def leBytes (n v : Nat) : List Byte := (List.range n).map fun i => BitVec.ofNat 8 (v / 256 ^ i)
/-- The number that bytes hold, the least significant first (R4). -/
def leVal : List Byte → Nat
  | [] => 0
  | b :: bs => b.toNat + 256 * leVal bs

/-! ## Physical memory -/

/-- The parity of the low n bits of a number. -/
def parityN : Nat → Nat → Nat
  | 0, _ => 0
  | n + 1, v => (v % 2 + parityN n (v / 2)) % 2

/-- ROW_i of a region; the reset value is 1 << i (R246). -/
def Region.row (r : Region) (i : Nat) : Nat := mget (2 ^ i) r.rows i

/-- Does an enabled region hold the HBM address P (R246)? -/
def Region.covers (r : Region) (P : Nat) : Bool := r.en && decide (r.base ≤ P) && decide (P < r.base + 2 ^ r.log2sz)

/-- The location that a region's matrix gives an HBM address: bit i is the parity of ROW_i AND P[38:5] (R246). -/
def Region.locate (r : Region) (P : Nat) : Nat :=
  if r.rows.isEmpty then P / 32 % 2 ^ 34
  else (List.range 34).foldl (fun a i => a + parityN 34 (r.row i &&& (P / 32)) * 2 ^ i) 0

/-- The location of an HBM address under a set of regions (R245, R246). -/
def locateIn (rs : SMap Region) (P : Nat) : Nat :=
  match rs.find? (fun p => p.2.covers P) with
  | some (_, r) => r.locate P
  | none => P / 32 % 2 ^ 34

/-- The location of an HBM address. -/
def State.location (s : State) (P : Nat) : Nat := locateIn s.dram.amap.active P

/-- The stack, channel, die and pseudo-channel of a location (R245). -/
def locStack (l : Nat) : Nat := l / 2 ^ 7 % 8
/-- The channel of a location. -/
def locChan (l : Nat) : Nat := l / 2 ^ 10 % 64
/-- The DRAM die of a location. -/
def locDie (l : Nat) : Nat := l / 2 ^ 30 % 16

/-- The key of an HBM byte: its location's atom and its place in the atom, so that a new region matrix names the data that
the location holds (R248). -/
def State.hbmKey (s : State) (P : Nat) : Nat := s.location P * 32 + P % 32

/-- The key under which a byte of HBM or of a window is held. -/
def State.rawKey (s : State) (pa : Nat) : Nat := if pa < 2 ^ 39 then s.hbmKey pa else pa

/-- The first address of the managed range (R244). -/
def managedBase : Nat := 0x010000000000
/-- Migration engine e. -/
def State.pmig (s : State) (e : Nat) : Pmig := mget {} s.dram.pmig e
/-- A stack's repair state. -/
def State.rmap (s : State) (k : Nat) : Rmap := mget {} s.dram.rmap k
/-- What a read of an atom meets: 0 good data, 1 a correctable error, 2 an uncorrectable one, 3 a HOLE (R254 to R256). -/
def State.atomRes (s : State) (a : Nat) : Nat :=
  if a < 2 ^ 34 then
    let r := s.rmap (locStack a)
    if nbit r.out (locDie a) then 3
    else if mhas r.table a then (if mget false r.table a then 2 else 0)
    else if s.dram.poison.contains a then 2
    else if s.dram.weak.contains a then 1 else 0
  else if s.dram.poison.contains a then 2
  else if s.dram.weak.contains a then 1 else 0

/-- Is a byte of an 8-byte entry uncorrectable? -/
def State.rawBad (s : State) (pa : Nat) : Bool := (List.range 8).any fun i => decide (2 ≤ s.atomRes (s.rawKey (pa + i) / 32))
/-- An 8-byte entry at a physical address, read through raw keys; one that cannot be read names nothing (log entry 27). -/
def State.rawRead8 (s : State) (pa : Nat) : Nat :=
  if s.rawBad pa then 0 else leVal ((List.range 8).map fun i => memGet s.mem (s.rawKey (pa + i)))
/-- Is the channel of an entry ONLINE (R260)? -/
def State.rawOnline (s : State) (pa : Nat) : Bool :=
  if pa < 2 ^ 39 then
    let l := s.location pa
    (mget ({} : Phy) s.dram.phy (locStack l * 64 + locChan l)).online
  else true
/-- The placement entry of managed page k (R250). -/
def State.ppte (s : State) (k : Nat) : Nat := s.rawRead8 ((s.pmig (k % 2)).ppt + 8 * k)

/-- What backs a physical address. -/
inductive Backing where
  | hbm (P : Nat)
  | lpddr (e addr : Nat)
  | host (e off : Nat)
  | peer (n off : Nat)
  | steward
  | nothing
deriving DecidableEq, Repr

/-- R244, R250, R422: what a physical address names. Of the 2 TiB of R2 each Encke serves one half on its own channels (log entry 27). -/
def State.backing (s : State) (pa : Nat) : Backing :=
  if pa < 2 ^ 39 then .hbm pa
  else if managedBase ≤ pa ∧ pa < 2 ^ 51 then
    let k := (pa - managedBase) / 65536
    if (s.pmig (k % 2)).npages ≤ k then .nothing
    else
      let e := s.ppte k
      if !nbit e 63 then .nothing
      else
        let frame := e / 65536 % 2 ^ 26 * 65536 + pa % 65536
        if nbit e 62 then (if s.form = .m ∧ frame < 2 ^ 40 then .lpddr (k % 2) frame else .nothing)
        else if frame < 2 ^ 39 then .hbm frame else .nothing
  else if 0x8000000000000 ≤ pa ∧ pa < 0xA000000000000 then .host 0 (pa - 0x8000000000000)
  else if 0xA000000000000 ≤ pa ∧ pa < 0xC000000000000 then .host 1 (pa - 0xA000000000000)
  else if 0xC000000000000 ≤ pa ∧ pa < 0xC000000000000 + 31 * 2 ^ 44 then
    let n := (pa - 0xC000000000000) / 2 ^ 44 + 1
    let off := (pa - 0xC000000000000) % 2 ^ 44
    if mhas s.outer.peerPort n && (decide (off < 2 ^ 39) || decide (2 ^ 40 ≤ off)) then .peer n off else .nothing
  else if 0xF000000000000 ≤ pa ∧ pa < 2 ^ 52 then .steward
  else .nothing

/-- The key of a physical byte (log entry 5). -/
def State.physKey (s : State) (pa : Nat) : Nat :=
  if pa < 2 ^ 39 then s.hbmKey pa
  else match s.backing pa with
    | .hbm P => s.hbmKey P
    | .lpddr e a => 2 ^ 43 + e * 2 ^ 42 + a
    | _ => pa

/-- The key of byte i of a location. -/
def State.key (s : State) (l : Loc) (i : Nat) : Nat :=
  match l with
  | .slice k o => 2 ^ 56 + k * 2 ^ 16 + o + i
  | .sram k o => 2 ^ 57 + k * 2 ^ 16 + o + i
  | .phys pa => s.physKey (pa + i)

/-- The keys of n bytes from a location on. -/
def State.keys (s : State) (l : Loc) (n : Nat) : List Nat := (List.range n).map (s.key l)

/-- One byte at its home. -/
def State.byteAt (s : State) (l : Loc) (i : Nat) : Byte := memGet s.mem (s.key l i)
/-- n bytes at their homes. -/
def State.bytesAt (s : State) (l : Loc) (n : Nat) : List Byte := (s.keys l n).map (memGet s.mem)
/-- n bytes at their homes as a number (R4). -/
def State.readAt (s : State) (l : Loc) (n : Nat) : Nat := leVal (s.bytesAt l n)

/-- Writes bytes under a list of keys. -/
def memWrite : List Host.Cell → List Nat → List Byte → List Host.Cell
  | m, k :: ks, b :: bs => memWrite (memSet m k b) ks bs
  | m, _, _ => m

/-- Writes bytes at their homes; what an access does beside is `performWrite`'s. -/
def State.writeAt (s : State) (l : Loc) (bs : List Byte) : State :=
  { s with mem := memWrite s.mem (s.keys l bs.length) bs }

/-- Location i bytes further on. -/
def Loc.add (l : Loc) (i : Nat) : Loc :=
  match l with
  | .slice k o => .slice k (o + i)
  | .sram k o => .sram k (o + i)
  | .phys pa => .phys (pa + i)

/-- Do two ranges of bytes share a byte of one home? -/
def overlaps (a : Loc) (n : Nat) (b : Loc) (m : Nat) : Bool :=
  match a, b with
  | .slice k o, .slice k' o' => k == k' && decide (o < o' + m) && decide (o' < o + n)
  | .sram k o, .sram k' o' => k == k' && decide (o < o' + m) && decide (o' < o + n)
  | .phys p, .phys q => decide (p < q + m) && decide (q < p + n)
  | _, _ => false

/-- The unit of ownership that holds a byte (R213): a 64-byte granule of local memory, a 256-byte sector of global memory. -/
def unitOf : Loc → Loc
  | .slice k o => .slice k (o / 64 * 64)
  | .sram k o => .sram k (o / 64 * 64)
  | .phys pa => .phys (pa / 256 * 256)
/-- The size of a unit of ownership. -/
def unitSize : Loc → Nat
  | .phys _ => 256
  | _ => 64

/-- The die whose L2 is the home of a physical address (R203, R244). -/
def State.homeDie (s : State) (pa : Nat) : Nat :=
  if pa < 2 ^ 39 then locStack (s.location pa) else pa / 4096 % 8

/-- The destination of an access (R209): a slice, an L2 bank of a die, a completer. -/
def State.dest (s : State) (l : Loc) : Nat :=
  match l with
  | .slice k _ => k
  | .sram k _ => 2 ^ 24 + k
  | .phys pa => if pa < 2 ^ 51 then 2 ^ 28 + s.homeDie pa * 2 ^ 15 + Config.l2Bank (pa / 2 ^ 15 % 2 ^ 15) % 2 ^ 15 else 2 ^ 29 + pa / 2 ^ 44

/-! ## Domains and speculation -/

/-- Domain record of a level of a context's units (R26). -/
def State.dom (s : State) (c level : Nat) : Dom :=
  if level = 0 then (s.core (coreId c)).dom else mget {} (s.clu (pclOf c)).dom level

/-- Is a level formed at a cluster (R26)? -/
def Cluster.formed (k : Cluster) (level : Nat) : Bool := (mget {} k.dom level).dinfo.getLsbD 31

/-- The level that an instruction naming `level` acts on (R27). -/
def Cluster.resolve (k : Cluster) (level : Nat) : Nat :=
  if level = 2 then (if k.formed 2 then 2 else if k.formed 3 then 3 else 4)
  else if level = 3 then (if k.formed 3 then 3 else 4)
  else level

/-- The same for a context. -/
def State.resolve (s : State) (c level : Nat) : Nat := (s.clu (pclOf c)).resolve level

/-- Is vcluster v a member of a level-2 or level-3 bitmap? -/
def mapBit (m : SMap Word) (v : Nat) : Bool := (mget 0 m (v / 64)).getLsbD (v % 64)

/-- Is context c' a member of the domain that context c has at a (resolved) level (R25)? -/
def State.sameDom (s : State) (c c' level : Nat) : Bool :=
  let k := s.clu (pclOf c)
  let k' := s.clu (pclOf c')
  if isSteward c || isSteward c' then false
  else if level = 0 then coreId c == coreId c'
  else if level = 1 then pclOf c == pclOf c'
  else
    k.launch.isSome && k.launch == k'.launch &&
      (if level = 2 then mapBit k.dmap2 k'.vcl else if level = 3 then mapBit k.dmap3 k'.vcl else true)

/-- GVT of a context's speculation domain, as its interface holds it (R375). -/
def State.gvt (s : State) (c : Nat) : Word := (s.dom c (s.resolve c (s.thread c).spec.sdom)).gvt

/-- A thread is speculative while VT is not all ones and VT > GVT of its SDOM (R375). -/
def State.speculative (s : State) (c : Nat) : Bool :=
  let vt := (s.thread c).sys.vt
  vt != ones64 && decide ((s.gvt c).toNat < vt.toNat)

/-! ## Events and steward records -/

/-- An entry of the event ring (R62): GTIME, and the code, slot, queue and argument. -/
def eventWords (s : State) (code slot queue arg : Nat) : Word × Word :=
  (BitVec.ofNat 64 s.gtime,
   BitVec.ofNat 64 (code % 256 + slot % 64 * 2 ^ 8 + queue % 4096 * 2 ^ 16 + arg % 2 ^ 32 * 2 ^ 32))

/-- Is the event ring full (R62)? -/
def Sched.ringFull (q : Sched) : Bool := (q.evtail + 1) % 256 == q.evhead

/-- Writes an entry into the ring and advances EVTAIL. -/
def State.ringPut (s : State) (e : Word × Word) : State :=
  let s1 := s.writeAt (.phys (s.sched.evbase + 16 * s.sched.evtail)) (leBytes 8 e.1.toNat ++ leBytes 8 e.2.toNat)
  { s1 with sched := { s1.sched with evtail := (s1.sched.evtail + 1) % 256 } }

/-- Moves waiting events into the ring while it has room and its channel serves (R260); HELD holds while the buffer of 8 is full (R62). -/
def State.drainEvents : Nat → State → State
  | 0, s => { s with sched := { s.sched with held := decide (8 ≤ s.sched.evbuf.length) } }
  | n + 1, s =>
    match s.sched.evbuf with
    | e :: es =>
      if s.sched.ringFull || !s.rawOnline (s.sched.evbase + 16 * s.sched.evtail) then { s with sched := { s.sched with held := decide (8 ≤ s.sched.evbuf.length) } }
      else State.drainEvents n (({ s with sched := { s.sched with evbuf := es } }).ringPut e)
    | [] => { s with sched := { s.sched with held := false } }

/-- Posts a scheduler event (R62). -/
def State.post (s : State) (code slot queue arg : Nat) : State :=
  let e := eventWords s code slot queue arg
  let s1 := { s with sched := { s.sched with evbuf := s.sched.evbuf ++ [e] } }
  s1.drainEvents s1.sched.evbuf.length

/-- The lowest steward record with V = 0, from k on. -/
def freeRec (m : SMap SRec) : Nat → Nat → Option Nat
  | 0, _ => none
  | n + 1, k => if (mget {} m k).w1.getLsbD 63 then freeRec m n (k + 1) else some k

/-- Makes a steward record and posts its event, or lets it wait in order while no record is free (R401). -/
def State.makeRec (s : State) (r : SRec) : State :=
  match (if s.srecWait.isEmpty then freeRec s.srec 256 0 else none) with
  | some k => ({ s with srec := mset s.srec k r }).post (if bitsOf r.w1 62 60 = 1 then 4 else 5) 0 0 k
  | none => { s with srecWait := s.srecWait ++ [r] }

/-- Frees a steward record; the first waiting one takes its place (R401). -/
def State.freeRecord (s : State) (k : Nat) : State :=
  let s1 := { s with srec := mset s.srec k {} }
  match s1.srecWait with
  | r :: rs => ({ s1 with srecWait := rs, srec := mset s1.srec k r }).post (if bitsOf r.w1 62 60 = 1 then 4 else 5) 0 0 k
  | [] => s1

/-- The master id of a thread or a resident handler (R403). -/
def threadMaster (c : Nat) : Word :=
  BitVec.ofNat 64 (pclOf c * 2 ^ 36 + coreNo c * 2 ^ 32 + if isHandler c then 4 else ctxNo c)
/-- The master id of a copy command. -/
def copyMaster (pcl slot : Nat) : Word := BitVec.ofNat 64 (2 ^ 60 + pcl * 2 ^ 36 + slot)
/-- The master id of a matrix context. -/
def matrixMaster (pcl half slot : Nat) : Word := BitVec.ofNat 64 (2 * 2 ^ 60 + pcl * 2 ^ 36 + half * 2 ^ 32 + slot)
/-- The master id of a host function with a requester id. -/
def hostMaster (e rid : Nat) : Word := BitVec.ofNat 64 (3 * 2 ^ 60 + e * 2 ^ 16 + rid % 2 ^ 16)

/-- The record of a master id, if one stands (R401). -/
def State.findRec (s : State) (m : Word) : Option Nat :=
  (s.srec.find? fun p => p.2.w1.getLsbD 63 && p.2.w0 == m).map Prod.fst

/-- A steward record's words: TYPE 1 FREEZE or 2 XFAULT with the fields of a cause word (R401). -/
def mkRec (s : State) (m : Word) (type : Nat) (cause : Word) (addr : Word) : SRec :=
  { w0 := m, w1 := BitVec.ofNat 64 (2 ^ 63 + type * 2 ^ 60 + cause.toNat % 2 ^ 19), w2 := addr,
    w3 := BitVec.ofNat 64 s.gtime }

/-! ## Reservations at their homes (R230, R232) -/

/-- The first reserved word that a range touches. -/
def State.resvAt (s : State) (l : Loc) (n : Nat) : Option Resv := s.resv.find? fun r => overlaps r.loc r.size l n

/-- Does a matching AREL, whose write is still on its way, end a reservation (R232)? -/
def State.released1 (s : State) (r : Resv) : Bool :=
  (s.core (coreId r.holder)).ring.any fun o => o.arel && o.c == r.holder && o.loc == r.loc

/-- Ends every hold of a context, and withdraws a reservation that waits (R232). -/
def State.dropResv (s : State) (c : Nat) : State :=
  { s with resv := s.resv.filter fun r => r.holder != c || s.released1 r, rsvq := s.rsvq.filter fun x => x != c }

/-- A hold ends without a write (R232). -/
def State.abandon (s : State) (c : Nat) : State :=
  match (s.thread c).hold with
  | some _ => (s.dropResv c).setThread c { s.thread c with hold := none }
  | none => s

/-! ## Traps and freezes -/

/-- Causes of R388. -/
def cILLOP : Nat := 0x01
def cALIGN : Nat := 0x02
def cPRIV : Nat := 0x03
def cBADENTRY : Nat := 0x04
def cPFAULT : Nat := 0x05
def cPROT : Nat := 0x06
def cSPILL : Nat := 0x07
def cQDEAD : Nat := 0x08
def cRSVLONG : Nat := 0x09
def cMALFORM : Nat := 0x0A
def cCPFAULT : Nat := 0x0B
def cPROMISE : Nat := 0x0C
def cSLOTVIOL : Nat := 0x0D
def cTXOVF : Nat := 0x0E
def cBRK : Nat := 0x10
def cSWTRAP : Nat := 0x11
def cPREEMPT : Nat := 0x12
def cDRAMERR : Nat := 0x14

/-- A cause word: CAUSE, REASON, LEVEL and ACC (R389). -/
def causeWord (cause acc level reason : Nat) : Word :=
  BitVec.ofNat 64 (cause + reason * 2 ^ 8 + level * 2 ^ 12 + acc * 2 ^ 16)

/-- The causes whose "User" entry is "yes" or "user only" (R388). -/
def userRoutable (cause : Nat) : Bool :=
  [0x01, 0x02, 0x03, 0x04, 0x05, 0x07, 0x08, 0x09, 0x0A, 0x0B, 0x0C, 0x0D, 0x0E, 0x10, 0x11, 0x12, 0x14].contains cause

/-- Why an instruction does not complete. -/
inductive Stop where
  /-- a trap with its cause, the fields of R389 and its value -/
  | trap (cause acc level reason : Nat) (val : Word)
  /-- a CPFAULT with its sequence number -/
  | trapSeq (val : Word) (seqno : BitVec 12)
  /-- a trap whose recorded address is the one after the base word (TRAP, EBRK) -/
  | trapAfter (cause : Nat) (val : Word)
  /-- a protection violation with its kind of access and its address -/
  | freeze (acc : Nat) (val : Word)
  /-- a VPROT with the value of R183, the address and the sequence number -/
  | freezeSeq (acc : Nat) (val addr : Word) (seqno : BitVec 12)
  /-- a table entry of a walk is uncorrectable: the kind of access, the entry's physical address, the address -/
  | walkBad (acc pa : Nat) (val : Word)
  /-- the instruction is not eligible yet -/
  | wait
deriving DecidableEq, Repr

/-- Writes TCAUSE, TPC, TVAL and, where given, TSEQ; bit 0 of TPC reads zero (R392, R394). -/
def Thread.setTregs (t : Thread) (cause pc val : Word) (seqno : Option (BitVec 12)) : Thread :=
  { t with sys := { t.sys with tcause := cause, tpc := pc &&& ~~~(1 : Word), tval := val,
                               tseq := match seqno with | some n => n.setWidth 64 | none => t.sys.tseq } }
/-- Writes KCAUSE, KPC, KVAL and, where given, KSEQ. -/
def Thread.setKregs (t : Thread) (cause pc val : Word) (seqno : Option (BitVec 12)) : Thread :=
  { t with sys := { t.sys with kcause := cause, kpc := pc &&& ~~~(1 : Word), kval := val,
                               kseq := match seqno with | some n => n.setWidth 64 | none => t.sys.kseq } }

/-- TVEC.ACT (R390). -/
def Thread.act (t : Thread) : Bool := t.sys.tvec.getLsbD 0
/-- Sets TVEC.ACT. -/
def Thread.setAct (t : Thread) (b : Bool) : Thread :=
  { t with sys := { t.sys with tvec := (t.sys.tvec &&& ~~~(1 : Word)) ||| (if b then 1 else 0) } }
/-- Runtime, handler and steward code are privileged (R392). -/
def Thread.privileged (t : Thread) : Bool := t.mode != .user
/-- Where the user handler begins: KTEXT + HOFF * 64 (R390). -/
def Thread.userVec (t : Thread) : Word := t.sys.ktext + BitVec.ofNat 64 (bitsOf t.sys.tvec 31 6 * 64)

/-- A freeze (R404): the context enters FROZEN with the cause, value and address recorded, a hold is abandoned, a queued ARSV
is withdrawn, and a FREEZE record is made with the address `addr`. -/
def State.freezeThread (s : State) (c : Nat) (cause pc val addr : Word) (seqno : Option (BitVec 12)) : State :=
  let s1 := (s.abandon c).dropResv c
  let t := s1.thread c
  let t1 := if t.privileged || t.act then t.setKregs cause pc val seqno else t.setTregs cause pc val seqno
  let s2 := s1.setThread c { t1 with st := .frozen, pend := none, qblk := none, mail := { t1.mail with park := none } }
  s2.makeRec (mkRec s2 (threadMaster c) 1 cause addr)

/-- Taking a trap (R392): cause word `cw` of cause `cause`, recorded address `pc`, value `val`. A hold is abandoned (R232), and a
wait in progress ends. -/
def State.takeTrap (s : State) (c cause : Nat) (cw pc val : Word) (seqno : Option (BitVec 12)) : State :=
  let s1 := s.abandon c
  let t := s1.thread c
  let t0 := { t with qblk := none, mail := { t.mail with park := none }, st := .run, notBefore := t.completeAt }
  if t.mode = .steward then
    let t1 := t0.setKregs cw pc val seqno
    s1.setThread c { t1 with sys := { t1.sys with kstat := 0 }, pc := t.sys.kvec }
  else if t.privileged then s1.freezeThread c cw pc val val seqno
  else if !t.act && t.sys.tvec.getLsbD (32 + cause) && userRoutable cause then
    s1.setThread c { (t0.setTregs cw pc val seqno).setAct true with pc := t.userVec }
  else if cause = cPREEMPT then s
  else if t.sys.kvec = 0 then s1.freezeThread c cw pc val val seqno
  else
    let t1 := if t.act then t0 else t0.setTregs cw pc val seqno
    let t2 := t1.setKregs cw pc val seqno
    s1.setThread c { t2 with sys := { t2.sys with kstat := if t.act then 1 else 0 }, mode := .runtime, pc := t.sys.kvec }

/-- What an instruction comes to: a state, or a stop. A stop carries the state with the named partial effects where the
instruction has any (R7); without one everything stays as before the instruction. -/
inductive Res where
  | ok (s : State)
  | stop (e : Stop) (part : Option State)
deriving DecidableEq, Repr

/-- Goes on with the state of a completed part. -/
def Res.bind (r : Res) (k : State → Res) : Res :=
  match r with
  | .ok s => k s
  | .stop e p => .stop e p

/-- Goes on with a checked value, or stops with nothing changed. -/
def orStop {α : Type} (x : Except Stop α) (k : α → Res) : Res :=
  match x with
  | .ok a => k a
  | .error e => .stop e none

/-- What a part of an instruction that yields a value comes to. -/
inductive Got (α : Type) where
  | ok (s : State) (a : α)
  | stop (e : Stop) (part : Option State)
deriving DecidableEq, Repr

/-- Goes on with a value to another one. -/
def Got.bind {α β : Type} (r : Got α) (k : State → α → Got β) : Got β :=
  match r with
  | .ok s a => k s a
  | .stop e p => .stop e p

/-- Goes on with a value to the end of the instruction. -/
def Got.res {α : Type} (r : Got α) (k : State → α → Res) : Res :=
  match r with
  | .ok s a => k s a
  | .stop e p => .stop e p

end Sys2Proof.Machine
end

