-- ==== Sys2Proof/Machine/Regs.lean ====
section
/-! DEFINITION. The write of a system register (R6, R116), and the register blocks of the steward window (R423) as they read: which
block an address lies in, and the value of each register. Writes to the window are the event REGISTER_WRITE. -/

namespace Sys2Proof.Machine

/-! ## System registers -/

/-- The fields of TCAUSE and KCAUSE that are not reserved (R389). -/
def causeMask : Word := 0x77FFF
/-- The fields of FPCSR that are not reserved (R118). -/
def fpcsrMask : Word := 0x1F3

/-- A write of a register by its number (R6, R116): reserved bits read zero, and an RO register keeps its value. -/
def Thread.setSysReg (t : Thread) (n : Nat) (v : Word) : Thread :=
  let y := t.sys
  match n with
  | 0x002 => { t with win := { t.win with rbsp := v &&& ~~~(7 : Word) } }
  | 0x003 => { t with win := { t.win with rbsl := v &&& ~~~(7 : Word) } }
  | 0x004 => { t with pw := v.setWidth 8 ||| 1 }
  | 0x010 => { t with sys := { y with tcause := v &&& causeMask } }
  | 0x011 => { t with sys := { y with tpc := v &&& ~~~(1 : Word) } }
  | 0x012 => { t with sys := { y with tval := v } }
  | 0x013 => { t with sys := { y with tseq := v &&& 0xFFF } }
  | 0x014 => { t with sys := { y with tvec := v &&& ~~~(0x3E : Word) } }
  | 0x015 => { t with sys := { y with tamask := v &&& 0xF } }
  | 0x020 => { t with sys := { y with fpcsr := v &&& fpcsrMask } }
  | 0x100 => { t with sys := { y with kcause := v &&& causeMask } }
  | 0x101 => { t with sys := { y with kpc := v &&& ~~~(1 : Word) } }
  | 0x102 => { t with sys := { y with kval := v } }
  | 0x103 => { t with sys := { y with kseq := v &&& 0xFFF } }
  | 0x105 => { t with sys := { y with kstat := v &&& 1 } }
  | 0x108 => { t with sys := { y with kscr0 := v } }
  | 0x109 => { t with sys := { y with kscr1 := v } }
  | _ => t

/-! ## Register blocks -/

/-- The register blocks of R423. -/
inductive Block where
  | qsch (e : Nat) | amap | pmig (e : Nat) | kctl | egov | hl (e : Nat) | elog (b : Nat) | rmap (s : Nat) | hphy (s : Nat)
deriving DecidableEq, Repr

/-- First address of the steward window (R422). -/
def stewBase : Nat := 0xF000000000000

/-- The block that holds an address, and the offset in it (R423). Mirrored blocks are one block (R247, R400); so is EGOV
(log entry 26). The error logs of the LPDDR-6 channels exist on every form, since R423 and R258 list them without a condition (log entry
48). -/
def blockOf (pa : Nat) : Option (Block × Nat) :=
  if pa < stewBase then none
  else
    let o := pa - stewBase
    let r := o % 65536
    let i := o % 2 ^ 28 / 65536
    if o < 2 ^ 29 then
      let e := o / 2 ^ 28
      match i with
      | 0 => some (.qsch e, r)
      | 1 => some (.amap, r)
      | 2 => some (.pmig e, r)
      | 3 => some (.kctl, r)
      | 4 => some (.egov, r)
      | 5 => some (.hl e, r)
      | 6 => some (.elog (8 + e), r)
      | _ => none
    else if 8 ≤ i then none
    else if o < 3 * 2 ^ 28 then some (.rmap i, r)
    else if o < 4 * 2 ^ 28 then some (.elog i, r)
    else if o < 5 * 2 ^ 28 then some (.hphy i, r)
    else none

/-- An AMAP_REGn value (R247). -/
def Region.regWord (r : Region) : Nat := b2n r.en * 2 ^ 63 + r.base + r.log2sz
/-- A region of the staged or active map. -/
def Amap.region (m : SMap Region) (n : Nat) : Region := mget {} m n

/-- AMAP staging registers at an offset (R247). -/
def amapStaged (m : SMap Region) (o : Nat) : Nat :=
  if 0x8 ≤ o ∧ o < 0x48 then (Amap.region m (o / 8 - 1)).regWord
  else if 0x200 ≤ o ∧ o < 0x1200 ∧ o % 0x200 < 0x110 then (Amap.region m (o / 0x200 - 1)).row (o % 0x200 / 8)
  else 0

/-- QS_STAT (R60). -/
def QSlot.statWord (q : QSlot) : Nat :=
  q.state + b2n q.tovr * 4 + b2n q.eovr * 8 + q.nplaced % 256 * 2 ^ 32 + q.borrow % 4096 * 2 ^ 48 + b2n q.bv * 2 ^ 63
/-- QS_CTL (R60). -/
def QSlot.ctlWord (q : QSlot) : Nat := q.qnum % 4096 + b2n q.map * 2 ^ 63

/-- A scheduler slot. -/
def State.slot (s : State) (n : Nat) : QSlot := mget {} s.sched.slots n
/-- Sets a scheduler slot. -/
def State.setSlot (s : State) (n : Nat) (q : QSlot) : State :=
  { s with sched := { s.sched with slots := mset s.sched.slots n q } }

/-- QSCH registers (R59, R60). -/
def State.qschReg (s : State) (e o : Nat) : Nat :=
  let q := s.sched
  match o / 8 with
  | 0 => b2n (if e = 0 then q.en0 else q.en1) + b2n q.held * 2 + b2n (if e = 0 then q.standby0 else q.standby1) * 4
  | 1 => q.qtbase
  | 3 => q.eclaim
  | 4 => q.credit
  | 5 => q.evbase
  | 6 => q.evhead
  | 7 => q.evtail
  | 8 => q.stallp
  | _ =>
    if 0x100 ≤ o ∧ o < 0x1100 then
      let t := s.slot ((o - 0x100) / 0x40)
      match o % 0x40 / 8 with
      | 0 => t.ctlWord
      | 1 => t.period
      | 2 => t.tbud
      | 3 => t.ebud
      | 4 => t.deadline
      | 5 => t.tspent
      | 6 => t.espent
      | _ => t.statWord
    else 0

/-- KCTL registers (R400, R401). -/
def State.kctlReg (s : State) (o : Nat) : Nat :=
  if o = 0 then s.astab
  else if o = 0x18 then s.kstat
  else if 0x100 ≤ o ∧ o < 0x2100 then
    let r : SRec := mget {} s.srec ((o - 0x100) / 32)
    (match o % 32 / 8 with | 0 => r.w0 | 1 => r.w1 | 2 => r.w2 | _ => r.w3).toNat
  else 0

/-- Dies mapped out of a stack. -/
def Rmap.outCount (r : Rmap) : Nat := ((List.range 16).filter fun d => nbit r.out d).length
/-- HL_CAP: usable HBM in GiB (R424, R253). -/
def State.hlCap (s : State) : Nat := ((List.range 8).map fun k => (16 - (s.rmap k).outCount) * 4).foldl (· + ·) 0

/-- A channel's PHY registers. -/
def State.phy (s : State) (stack ch : Nat) : Phy := mget {} s.dram.phy (stack * 64 + ch)
/-- An error log. -/
def State.elog (s : State) (b : Nat) : Elog := mget {} s.dram.elog b
/-- A host port. -/
def State.port (s : State) (e : Nat) : Port := mget {} s.outer.ports e

/-- HPHY registers of a channel (R260). -/
def Phy.reg (p : Phy) (o : Nat) : Nat :=
  if o < 0x110 then mget 0x20 p.rdly (o / 8)
  else if o < 0x220 then mget 0x20 p.wdly ((o - 0x110) / 8)
  else if o = 0x230 then p.pat + b2n p.done * 2
  else if o = 0x238 then p.perr.toNat
  else if o = 0x240 then p.lrep
  else if o = 0x248 then b2n p.online
  else 0

/-- ELOG registers (R258); `g` is the next sequence number. -/
def Elog.reg (l : Elog) (g o : Nat) : Nat :=
  if o < 0x800 then
    let r := l.ents.getD (o / 32) {}
    (match o % 32 / 8 with | 0 => r.w0 | 1 => r.w1 | 2 => r.w2 | _ => r.w3).toNat
  else if o = 0x800 then l.ents.length + b2n l.ovf * 2 ^ 63
  else if o = 0x810 then g
  else if 0x900 ≤ o ∧ o < 0xD00 then
    if o % 16 = 0 then (mget 0 l.ecnt ((o - 0x900) / 16)).toNat else mget 0 l.eseq ((o - 0x900) / 16)
  else 0

/-- The value of the register at a multiple of 8 in a block; a byte that no register occupies reads zero (R423). -/
def State.regAt (s : State) (b : Block) (o : Nat) : Nat :=
  match b with
  | .qsch e => s.qschReg e o
  | .amap =>
    if o = 0 then b2n s.dram.amap.busy * 2 + s.dram.amap.status * 16
    else if 0x2000 ≤ o then amapStaged s.dram.amap.active (o - 0x2000)
    else amapStaged s.dram.amap.staged o
  | .pmig e =>
    let p := s.pmig e
    match o / 8 with
    | 0 => b2n p.en
    | 1 => p.ppt
    | 2 => p.npages
    | 3 => p.freeh
    | 4 => p.nfreeh
    | 5 => p.freel
    | 6 => p.nfreel
    | 7 => p.queue.length
    | _ => 0
  | .kctl => s.kctlReg o
  | .egov =>
    if o = 0 then b2n s.egov.auto
    else if o = 8 then s.egov.rate
    else if o = 0x10 then s.egov.cmax
    else if o = 0x18 then s.egov.cstep
    else if o = 0x20 then s.egov.dev
    else if 0x1000 ≤ o ∧ o < 0x9000 then (s.clu ((o - 0x1000) / 8)).meter
    else 0
  | .hl e =>
    if o = 8 then (s.port e).event else if o = 0x10 then s.hlCap else if o = 0x20 then s.gtime else 0
  | .elog k => (s.elog k).reg s.dram.gseq o
  | .rmap k =>
    let r := s.rmap k
    if o = 0 then r.mode + r.thr * 256
    else if o = 8 then r.table.length + b2n r.full * 2 ^ 16 + b2n r.refused * 2 ^ 17
    else if o = 0x10 then 16 - r.outCount + r.out * 2 ^ 16
    else 0
  | .hphy k => (s.phy k (o / 0x400)).reg (o % 0x400)

/-- A read of a register block (R423): an access that is not aligned to its size or crosses a register reads zero. -/
def State.stewRead (s : State) (pa n : Nat) : Nat :=
  match blockOf pa with
  | some (b, o) =>
    if n ≤ 8 ∧ o % n = 0 then s.regAt b (o / 8 * 8) % 2 ^ 64 / 256 ^ (o % 8) % 256 ^ n else 0
  | none => 0

/-- What bytes at a home read as: memory, or the registers of the steward window. -/
def State.valueAt (s : State) (l : Loc) (n : Nat) : Nat :=
  match l with
  | .phys pa => if stewBase ≤ pa then s.stewRead pa n else s.readAt l n
  | _ => s.readAt l n

end Sys2Proof.Machine
end

