-- ==== Sys2Proof/Machine/Homes.lean ====
section
/-! DEFINITION. What homes do (R207): DRAM errors and their logs, the L2 and its retention registers, leases, the cluster L1,
speculative marks, and the reads and writes performed at a home. -/

namespace Sys2Proof.Machine

/-- Who makes an access: the agent code of R258, and the context it acts for where it has one. -/
structure Agent where
  code : Nat
  c : Option Nat := none
deriving DecidableEq, Repr

/-! ## Errors (R254 to R259) -/

/-- Adds 1 to half of a counter word, saturating at 32 bits (R258). -/
def bumpCnt (w : Word) (ue : Bool) : Word :=
  let ce := bitsOf w 31 0
  let u := bitsOf w 63 32
  if ue then BitVec.ofNat 64 (ce + min (u + 1) (2 ^ 32 - 1) * 2 ^ 32)
  else BitVec.ofNat 64 (min (ce + 1) (2 ^ 32 - 1) + u * 2 ^ 32)

/-- Writes an entry, or counts its loss in slot 63 (R259). -/
def Elog.put (l : Elog) (seq type : Nat) (e : SRec) : Elog :=
  let w0 := BitVec.ofNat 64 (seq + type * 2 ^ 48)
  if l.ents.length < 63 then { l with ents := l.ents ++ [{ e with w0 := w0 }] }
  else if !l.ovf then
    { l with ovf := true, ents := l.ents ++ [{ w0 := BitVec.ofNat 64 (seq + 7 * 2 ^ 48), w1 := e.w1, w2 := 1, w3 := 0 }] }
  else
    { l with ents := l.ents.take 63 ++ ((l.ents.drop 63).map fun x =>
        { x with w0 := BitVec.ofNat 64 (seq + 7 * 2 ^ 48), w2 := x.w2 + 1 }) }

/-- Puts an event into its place among those of its cycle, after the ones of the same place. -/
def insertErr (x : ErrEv) : List ErrEv → List ErrEv
  | [] => [x]
  | y :: ys => if x.place < y.place then x :: y :: ys else y :: insertErr x ys

/-- Notes an error event of block b, for the end of the cycle (R257). -/
def State.logErr (s : State) (b : Nat) (ch : Option Nat) (type addr whr place : Nat) : State :=
  let x : ErrEv := { blk := b, ch := ch, type := type, addr := addr, whr := whr, place := place }
  { s with dram := { s.dram with errs := insertErr x s.dram.errs } }

/-- Counts and logs an event (R257, R258): a channel's counter where the event has a channel. -/
def State.countErr (s : State) (x : ErrEv) : State :=
  let seq := s.dram.gseq
  let l := s.elog x.blk
  let l1 := match x.ch with
    | some k => { l with ecnt := mset l.ecnt k (bumpCnt (mget 0 l.ecnt k) (x.type != 1)), eseq := mset l.eseq k seq }
    | none => l
  let l2 := l1.put seq x.type { w1 := BitVec.ofNat 64 s.gtime, w2 := BitVec.ofNat 64 x.addr, w3 := BitVec.ofNat 64 x.whr }
  { s with dram := { s.dram with gseq := (seq + 1) % 2 ^ 48, elog := mset s.dram.elog x.blk l2 } }

/-- At the end of a cycle its events take consecutive numbers in the order of R257; a clear in the same cycle came first (R259). -/
def State.countErrs (s : State) : State :=
  s.dram.errs.foldl State.countErr { s with dram := { s.dram with errs := [] } }

/-- WHERE of an entry (R258). -/
def State.whereOf (s : State) (ag : Agent) (loc : Nat) : Nat :=
  loc % 2 ^ 34 + (match ag.c with | some c => (s.thread c).tid % 2 ^ 18 | none => 0) * 2 ^ 40 + ag.code % 8 * 2 ^ 58

/-- The atom that holds a physical byte: its key divided by 32; below 2^34 it is a location. -/
def State.atomOf (s : State) (pa : Nat) : Nat := s.physKey pa / 32

/-- The log block and the channel of an atom: its stack and channel, or its Encke's block and LPDDR-6 channel. -/
def atomBlk (a : Nat) : Nat := if a < 2 ^ 34 then locStack a else 8 + a / 2 ^ 37 % 2
/-- The channel of an atom; that of an LPDDR-6 atom is open (log entry 27). -/
def atomChan (a : Nat) : Nat := if a < 2 ^ 34 then locChan a else Config.lpddrChan a % 48
/-- The place of an atom in the order of R257: stack, channel, pseudo-channel. -/
def atomPlace (a : Nat) : Nat := atomBlk a * 512 + atomChan a * 4 + if a < 2 ^ 34 then a / 32 % 4 else 0

/-- A stack's repair mode redirects atoms (R254). -/
def Rmap.remaps (r : Rmap) : Bool := r.mode == 1 || r.mode == 3

/-- Inserts an atom into its stack's table until it has been full (R254). -/
def State.remapInsert (s : State) (a addr : Nat) (lost : Bool) : State :=
  let k := locStack a
  let r := s.rmap k
  if !(decide (a < 2 ^ 34) && r.remaps) || r.full || decide (4096 ≤ r.table.length) then s
  else
    let t := mset r.table a lost
    let r1 := { r with table := t, full := decide (4096 ≤ t.length), cand := r.cand.filter fun p => p.1 != a }
    let s1 := { s with dram := { s.dram with rmap := mset s.dram.rmap k r1,
                                             poison := s.dram.poison.filter fun x => x != a,
                                             weak := s.dram.weak.filter fun x => x != a } }
    let s2 := s1.logErr k none 4 addr (a % 2 ^ 34) (atomPlace a)
    if r1.full then s2.logErr k none 5 addr (a % 2 ^ 34) (atomPlace a) else s2

/-- Counts a correctable error of an atom as a candidate; at THR the atom is inserted (R254). -/
def State.candidate (s : State) (a addr : Nat) : State :=
  let k := locStack a
  let r := s.rmap k
  if !(decide (a < 2 ^ 34) && r.remaps) then s
  else
    let n := (match r.cand.find? (fun p => p.1 == a) with | some p => p.2 | none => 0) + 1
    if r.thr ≤ n then s.remapInsert a addr false
    else
      let c := ((a, n) :: r.cand.filter fun p => p.1 != a).take 64
      { s with dram := { s.dram with rmap := mset s.dram.rmap k { r with cand := c } } }

/-- WHERE of an event of an atom (R258). -/
def State.whereAt (s : State) (ag : Agent) (a : Nat) : Nat := s.whereOf ag (if a < 2 ^ 34 then a else atomChan a)

/-- Notes an error event of an atom. -/
def State.logAtom (s : State) (ag : Agent) (a type addr : Nat) : State :=
  s.logErr (atomBlk a) (some (atomChan a)) type addr (s.whereAt ag a) (atomPlace a)

/-- One atom is read from DRAM, at an address: an error is counted, logged and, where the mode has it, repaired. The answer says whether it
was uncorrectable or a HOLE (R254, R256). -/
def State.readAtomAt (s : State) (ag : Agent) (a addr : Nat) : State × Bool :=
  match s.atomRes a with
  | 0 => (s, false)
  | 1 => ((s.logAtom ag a 1 addr).candidate a addr, false)
  | 2 =>
    let s1 := s.logAtom ag a 2 addr
    (if mhas (s.rmap (locStack a)).table a then s1 else s1.remapInsert a addr true, true)
  | _ => (s.logAtom ag a 3 addr, true)

/-- The atom of a physical address is read from DRAM. -/
def State.readAtom (s : State) (ag : Agent) (pa : Nat) : State × Bool := s.readAtomAt ag (s.atomOf pa) pa

/-- The atoms of [lo, lo + 32 * n) are read; an error counts against the reader where the atom overlaps [pa, pa + k). -/
def State.readAtoms (ag : Agent) (pa k : Nat) : Nat → Nat → State → State × Bool
  | 0, _, s => (s, false)
  | n + 1, lo, s =>
    let r := s.readAtom ag lo
    let r2 := State.readAtoms ag pa k n (lo + 32) r.1
    (r2.1, (r.2 && decide (lo < pa + k) && decide (pa < lo + 32)) || r2.2)

/-! ## The L2 (R203, R226, R240, R449) -/

/-- Physical addresses of DRAM: HBM and managed pages. -/
def isDram (pa : Nat) : Bool := decide (pa < 2 ^ 51)

/-- Is a location one of DRAM, whose home is an L2 bank (R203)? -/
def Loc.dram (l : Loc) : Bool :=
  match l with
  | .phys pa => isDram pa
  | _ => false

/-- The retention register that a physical line belongs to: the lowest one whose range holds it (R240). -/
def State.arrOf (s : State) (pa : Nat) : Option Nat :=
  (List.range 4).find? fun i =>
    let r : Arr := mget {} s.arrs i
    r.holder.isSome && decide (r.pa ≤ pa) && decide (pa < r.pa + r.size)

/-- The ways that held registers set aside, as a mask (R240). -/
def State.reservedMask (s : State) : Nat :=
  ((List.range 4).map fun i => let r : Arr := mget {} s.arrs i; if r.holder.isSome then r.mask else 0).foldl (· ||| ·) 0
/-- Ways that held registers set aside (R240). -/
def State.reservedWays (s : State) : Nat := ((List.range 16).filter (nbit s.reservedMask)).length

/-- The line of an address, if present. -/
def State.l2Find (s : State) (pa : Nat) : Option L2Line := s.l2.find? fun x => x.line == pa / 1024
/-- Do two lines lie in one set of one die (R449)? -/
def State.sameSet (s : State) (l m : Nat) : Bool :=
  l % 2 ^ 20 / 2 ^ 5 == m % 2 ^ 20 / 2 ^ 5 && s.homeDie (l * 1024) == s.homeDie (m * 1024)
/-- A stamp above every other. -/
def State.l2Stamp (s : State) : Nat := (s.l2.foldl (fun a x => max a x.stamp) 0) + 1

/-- The least recent of some lines. -/
def l2Oldest (ls : List L2Line) : Option L2Line :=
  ls.foldl (fun a x => match a with
    | none => some x
    | some y => if x.stamp < y.stamp then some x else some y) none

/-- The line that a fill into the normal ways displaces: the least recent of those not marked evict-last, else the least
recent (R226). -/
def l2Victim (ls : List L2Line) : Option L2Line := (l2Oldest (ls.filter fun x => x.cls != 2)).orElse fun _ => l2Oldest ls

/-- Removes a line. -/
def State.l2Drop (s : State) (line : Nat) : State := { s with l2 := s.l2.filter fun x => x.line != line }

/-- The way of a set that a fill takes, of some ways: a free one, else that of the line it displaces. -/
def wayIn (set : List L2Line) (ways : List Nat) (victim : List L2Line → Option L2Line) : Option Nat :=
  match ways.find? (fun w => set.all fun x => x.way != w) with
  | some w => some w
  | none => (victim (set.filter fun x => ways.contains x.way)).map fun x => x.way

/-- The way that a line takes in its set, and whether it overflows its register's ways (R226, R240): for a line of a pinned range a
reserved way that is free or holds a line outside the range; else a normal way. -/
def State.l2Way (s : State) (pa : Nat) (set : List L2Line) : Option Nat × Bool :=
  let normal := (List.range 16).filter fun w => !nbit s.reservedMask w
  match s.arrOf pa with
  | none => (wayIn set normal l2Victim, false)
  | some r =>
    let mine := (List.range 16).filter (nbit (mget ({} : Arr) s.arrs r).mask)
    match wayIn set mine fun ls => l2Oldest (ls.filter fun x => s.arrOf (x.line * 1024) != some r) with
    | some w => (some w, false)
    | none => (wayIn set normal l2Victim, true)

/-- A line enters the L2 (R226, R240). -/
def State.l2Install (s : State) (pa cls valid dirty : Nat) : State :=
  let line := pa / 1024
  let set := s.l2.filter fun x => s.sameSet x.line line
  match s.l2Way pa set with
  | (none, _) => s
  | (some w, evicts) =>
    let s1 := match evicts, s.arrOf pa with
      | true, some r => { s with arrs := mset s.arrs r { (mget ({} : Arr) s.arrs r) with ovf := (mget ({} : Arr) s.arrs r).ovf + 1 } }
      | _, _ => s
    let s2 := match set.find? (fun x => x.way == w) with
      | some x => s1.l2Drop x.line
      | none => s1
    let c := if (s.arrOf pa).isSome then 0 else cls
    let e : L2Line := { line := line, way := w, stamp := if c = 1 then 0 else s2.l2Stamp, cls := c, valid := valid, dirty := dirty }
    { s2 with l2 := e :: s2.l2 }

/-- Counts a hit of a retention register (R240). -/
def State.arrHit (s : State) (pa : Nat) : State :=
  match s.arrOf pa with
  | some r => let a : Arr := mget {} s.arrs r; { s with arrs := mset s.arrs r { a with hits := a.hits + 1 } }
  | none => s

/-- The bit of an address's sector in its line. -/
def sectorBit (pa : Nat) : Nat := 2 ^ (pa / 256 % 4)

/-- A present line is used; its class stays (R226). -/
def State.l2Mark (s : State) (pa valid dirty : Nat) : State :=
  let st := s.l2Stamp
  { s with l2 := s.l2.map fun x =>
      if x.line = pa / 1024 then { x with valid := x.valid ||| valid, dirty := x.dirty ||| dirty, stamp := st } else x }

/-- Is the sector of an address valid in the L2? -/
def State.sectorValid (s : State) (pa : Nat) : Bool :=
  match s.l2Find pa with
  | some x => nbit x.valid (pa / 256 % 4)
  | none => false

/-- A read of bytes of one sector reaches its home L2: a miss reads the sector from DRAM, and the sector is installed unless
the class forbids it or an atom failed. The answer says whether the bytes read were uncorrectable. -/
def State.l2ReadSector (s : State) (ag : Agent) (pa n cls : Nat) (count : Bool) : State × Bool :=
  let s1 := if count && (s.l2Find pa).isSome then s.arrHit pa else s
  if s.sectorValid pa then (s1.l2Mark pa 0 0, false)
  else
    let lo := pa / 256 * 256
    let bad := (List.range 8).any fun i => decide (2 ≤ s1.atomRes (s1.atomOf (lo + 32 * i)))
    let r := State.readAtoms ag pa n 8 lo s1
    if cls = 3 || bad then (r.1, r.2)
    else if (s.l2Find pa).isSome then (r.1.l2Mark pa (sectorBit pa) 0, r.2)
    else (r.1.l2Install pa cls (sectorBit pa) 0, r.2)

/-- Each piece of a range that lies in one sector, as address and length. -/
def sectorPieces : Nat → Nat → Nat → List (Nat × Nat)
  | 0, _, _ => []
  | k + 1, pa, n =>
    if n = 0 then [] else
      let m := min n (256 - pa % 256)
      (pa, m) :: sectorPieces k (pa + m) (n - m)

/-- A read of bytes of DRAM at their home L2. -/
def State.l2Read (ag : Agent) (cls : Nat) (count : Bool) : List (Nat × Nat) → State → State × Bool
  | [], s => (s, false)
  | (pa, n) :: ps, s =>
    let r := s.l2ReadSector ag pa n cls count
    let r2 := State.l2Read ag cls count ps r.1
    (r2.1, r.2 || r2.2)

/-- A write reaches a stored atom (R254 to R256): a whole atom gets new data; a part is merged with the stored data, whose errors count as
those of a read, and an uncorrectable atom stays so; a write to a mapped-out die is logged and discarded. `held` says that the L2 holds the
sector, so that nothing is merged. -/
def State.storeAtom (s : State) (ag : Agent) (a addr : Nat) (whole held : Bool) : State :=
  if s.atomRes a = 3 then s.logAtom ag a 3 addr
  else if whole then
    let r := s.rmap (locStack a)
    let s' := { s with dram := { s.dram with poison := s.dram.poison.filter fun x => x != a,
                                             weak := s.dram.weak.filter fun x => x != a } }
    if decide (a < 2 ^ 34) && mhas r.table a then
      { s' with dram := { s'.dram with rmap := mset s'.dram.rmap (locStack a) { r with table := mset r.table a false } } }
    else s'
  else if held then s
  else (s.readAtomAt ag a addr).1

/-- Atom by atom, a write of [pa, pa + n). -/
def State.writeAtoms (ag : Agent) (pa n : Nat) : Nat → Nat → State → State
  | 0, _, s => s
  | k + 1, lo, s =>
    State.writeAtoms ag pa n k (lo + 32)
      (s.storeAtom ag (s.atomOf lo) lo (decide (pa ≤ lo) && decide (lo + 32 ≤ pa + n)) (s.sectorValid lo))

/-- A write of bytes of one sector at its home L2: presence, dirt and, where the request is one of its own, hits. -/
def State.l2WriteSector (s : State) (pa cls : Nat) (count : Bool) : State :=
  let lo := pa / 256 * 256
  let bad := (List.range 8).any fun i => decide (2 ≤ s.atomRes (s.atomOf (lo + 32 * i)))
  let v := if bad then 0 else sectorBit pa
  if (s.l2Find pa).isSome then (if count then s.arrHit pa else s).l2Mark pa v v
  else if cls = 3 || bad then s
  else s.l2Install pa cls v v

/-- The bytes of a DRAM write that are stored: those that do not lie on a mapped-out die (R255). -/
def State.keepBytes (s : State) (pa : Nat) (bs : List Byte) : List (Nat × Byte) :=
  ((List.range bs.length).zip bs).filterMap fun p =>
    let k := s.physKey (pa + p.1)
    if k < 2 ^ 39 ∧ s.atomRes (k / 32) = 3 then none else some (k, p.2)

/-! ## Marks, reservations, ownership, leases -/

/-- Who writes: the context that issued the write, its VT, the agent code, and whether the write is a request of its own; an atomic's
is not (R240). -/
structure Writer where
  c : Option Nat
  vt : Word
  code : Nat := 1
  request : Bool := true
deriving DecidableEq, Repr

/-- The mask of the granules of a unit that a range touches; a slice unit has one granule. -/
def granuleMask (l : Loc) (n : Nat) : Nat :=
  match l with
  | .phys pa => (List.range 4).foldl (fun a g =>
      a + if pa % 256 < 64 * (g + 1) ∧ 64 * g < pa % 256 + n then 2 ^ g else 0) 0
  | _ => 1

/-- The mask of the granules of a marked unit that a range touches; the range may go beyond the unit. -/
def markMask (u l : Loc) (n : Nat) : Nat :=
  match u, l with
  | .phys q, .phys p => (List.range 4).foldl (fun a g =>
      a + if p < q + 64 * (g + 1) ∧ q + 64 * g < p + n then 2 ^ g else 0) 0
  | _, _ => 1

/-- The VT a write has against a mark (R379): its own where the writer is a member of the mark's SDOM, else 0. -/
def State.writeVt (s : State) (w : Writer) (m : Mark) : Nat :=
  match w.c with
  | some c => if s.sameDom m.c c (s.resolve m.c m.sdom) then w.vt.toNat else 0
  | none => 0

/-- Does a write conflict with a mark (R379)? -/
def State.conflictsWith (s : State) (w : Writer) (l : Loc) (n : Nat) (m : Mark) : Bool :=
  overlaps m.loc (unitSize m.loc) l n && (m.mask &&& markMask m.loc l n) != 0 && decide (s.writeVt w m < m.vt.toNat) &&
    s.speculative m.c

/-- Notes a conflict against a thread; the event SPEC_ABORT brings it into effect. -/
def State.noteAbort (s : State) (c : Nat) : State :=
  let t := s.thread c
  s.setThread c { t with spec := { t.spec with abort := true } }

/-- A write's conflicts (R379). -/
def State.conflict (s : State) (w : Writer) (l : Loc) (n : Nat) : State :=
  (s.marks.filter (s.conflictsWith w l n)).foldl (fun a m => a.noteAbort m.c) s

/-- Does a reservation of another context hold a word of the range (R221)? -/
def State.reserved (s : State) (c : Option Nat) (l : Loc) (n : Nat) : Bool :=
  s.resv.any fun r => overlaps r.loc r.size l n && c != some r.holder

/-- Does an engine own a unit of the range (R213)? -/
def State.isOwned (s : State) (l : Loc) (n : Nat) : Bool := s.owned.any fun o => overlaps o.loc o.size l n

/-- The home waits while the latest lease on the sector expires within 64 cycles (R211). -/
def State.leaseHolds (s : State) (l : Loc) : Bool :=
  match l with
  | .phys pa =>
    let e := mget 0 s.leases (pa / 256)
    decide (s.gtime < e) && decide (e ≤ s.gtime + 64)
  | _ => false

/-- Are the channels of an HBM address's sector ONLINE (R260)? -/
def State.sectorOnline (s : State) (P : Nat) : Bool :=
  (List.range 8).all fun i => let loc := s.location (P / 256 * 256 + 32 * i); (s.phy (locStack loc) (locChan loc)).online

/-- Can DRAM serve the range: each sector valid in the L2, or its channels ONLINE (R260)? -/
def State.dramReady (s : State) (l : Loc) (n : Nat) : Bool :=
  match l with
  | .phys pa =>
    !isDram pa || (sectorPieces 9 pa n).all fun p =>
      s.sectorValid p.1 ||
        (match s.backing p.1 with
          | .hbm P => s.sectorOnline P
          | _ => true)
  | _ => true

/-- Has a die-to-die link failed between two dies (R72)? -/
def State.dieCut (s : State) (d d' : Nat) : Bool := d != d' && (s.outer.dieDown.contains d || s.outer.dieDown.contains d')

/-- Does a failed link cut a cluster off from a physical address (R72, R429)? -/
def State.cutOff (s : State) (pcl pa : Nat) : Bool :=
  match s.backing pa with
  | .peer n _ => s.outer.linkDown.contains (mget 0 s.outer.peerPort n)
  | .hbm _ | .lpddr _ _ => s.dieCut (pcl / 512) (s.homeDie pa)
  | _ => false

/-- Is a cluster cut off from a home? Nothing is where every link is up. -/
def State.cutFrom (s : State) (pcl : Nat) (l : Loc) : Bool :=
  if s.outer.linkDown.isEmpty && s.outer.dieDown.isEmpty then false
  else match l with
    | .slice k _ => s.dieCut (pcl / 512) (k / 16 / 512)
    | .phys pa => s.cutOff pcl pa
    | .sram _ _ => false

/-- Is a context cut off from a home? -/
def State.cutFor (s : State) (c : Option Nat) (l : Loc) : Bool :=
  match c with
  | some c => !isSteward c && s.cutFrom (pclOf c) l
  | none => false

/-- May a thread access be performed at its home now (R207, R213, R221)? -/
def State.ready (s : State) (c : Option Nat) (l : Loc) (n : Nat) (write : Bool) : Bool :=
  !s.reserved c l n && !s.isOwned l n && !(write && s.leaseHolds l) && s.dramReady l n && !s.cutFor c l

/-! ## Accesses performed at a home -/

/-- A read at the home: its effect on the L2 and the error logs, and whether the data is uncorrectable. The value is that of
`State.valueAt`. -/
def State.homeRead (s : State) (ag : Agent) (l : Loc) (n cls : Nat) : State × Bool :=
  match l with
  | .phys pa => if isDram pa then State.l2Read ag cls true (sectorPieces 9 pa n) s else (s, false)
  | _ => (s, false)

/-- Is a byte of a range uncorrectable where it is read now (R256)? What the L2 holds is good. -/
def State.readsBad (s : State) (l : Loc) (n : Nat) : Bool :=
  match l with
  | .phys pa => isDram pa && (List.range n).any fun i => !s.sectorValid (pa + i) && decide (2 ≤ s.atomRes (s.atomOf (pa + i)))
  | _ => false

/-- A write to a managed page that is being copied: the migration copies its sectors again (R252). -/
def State.noteDirty (s : State) (pa n : Nat) : State :=
  if pa < managedBase then s
  else
    let k := (pa - managedBase) / 65536
    let g := s.pmig (k % 2)
    match g.mov, g.queue.head? with
    | some m, some (j, _) =>
      if j = k then
        let d := (sectorPieces 9 pa n).map fun p => p.1 % 65536 / 256
        { s with dram := { s.dram with pmig := mset s.dram.pmig (k % 2) { g with mov := some { m with dirty := (d ++ m.dirty).eraseDups } } } }
      else s
    | _, _ => s

/-- The bytes of a write to DRAM, through the error states of its atoms; the agent of what it meets is the write-back (R258). -/
def State.dramWrite (s : State) (ag : Agent) (pa : Nat) (bs : List Byte) (cls : Nat) (count : Bool) : State :=
  let kept := s.keepBytes pa bs
  let s1 := State.writeAtoms { ag with code := 6 } pa bs.length ((pa % 32 + bs.length + 31) / 32) (pa / 32 * 32) (s.noteDirty pa bs.length)
  let s2 := { s1 with mem := memWrite s1.mem (kept.map Prod.fst) (kept.map Prod.snd) }
  (sectorPieces 9 pa bs.length).foldl (fun a p => a.l2WriteSector p.1 cls count) s2

/-- A write passes the leases on its sector that have not expired: the sector's write timestamp advances (R211). -/
def State.passLeases (s : State) (pa : Nat) : State :=
  if s.gtime < mget 0 s.leases (pa / 256) then { s with wts := mset s.wts (pa / 256) s.gtime } else s

/-- A write performed at its home (R207, R211, R379). A write to the steward window is the event REGISTER_WRITE, which the next
turn performs. -/
def State.homeWrite (s : State) (w : Writer) (l : Loc) (bs : List Byte) (cls : Nat) : State :=
  let s1 := s.conflict w l bs.length
  match l with
  | .phys pa =>
    if isDram pa then (s1.passLeases pa).dramWrite { code := w.code, c := w.c } pa bs cls w.request
    else if stewBase ≤ pa then { s1 with agenda := .ev (.registerWrite pa bs.length (leVal bs)) :: s1.agenda }
    else s1.writeAt l bs
  | _ => s1.writeAt l bs

/-! ## The cluster L1 (R204, R210) -/

/-- The lines that the L1 share of a cluster's slices holds (R204). -/
def Cluster.l1Cap (k : Cluster) : Nat := (512 - 16 * k.lmem) * 4

/-- The copy of a line. -/
def Cluster.l1Find (k : Cluster) (line : Nat) : Option L1Line := k.l1.find? fun x => x.line == line

/-- A copy is usable by a load that issued in cycle t with read horizon rh (R210). -/
def L1Line.usable (x : L1Line) (t rh : Nat) : Bool := decide (t < x.e) && decide (rh ≤ x.g)

/-- The bytes of a copy. -/
def L1Line.value (x : L1Line) (pa n : Nat) : Nat := leVal ((x.data.drop (pa % 256)).take n)

/-- Discards the cluster's copy of a line (R211, R239). -/
def State.l1Drop (s : State) (p line : Nat) : State :=
  let k := s.clu p
  s.setClu p { k with l1 := k.l1.filter fun x => x.line != line }

/-- Marks a copy most recently used. -/
def State.l1Use (s : State) (p : Nat) (x : L1Line) : State :=
  let k := s.clu p
  s.setClu p { k with l1 := x :: k.l1.filter fun y => y.line != x.line }

/-- Does a location lie in a 256-byte line? -/
def Loc.inLine (l : Loc) (line : Nat) : Bool :=
  match l with
  | .phys pa => pa / 256 == line
  | _ => false

/-- Has a core of the cluster issued a store or an atomic to the line that its home has not performed yet (R210)? -/
def State.storePending (s : State) (p line : Nat) : Bool :=
  (List.range 16).any fun i =>
    let k := s.core (p * 16 + i)
    (k.ring ++ k.sring).any (fun o => o.loc.inLine line) ||
      (List.range 4).any fun x => match (s.thread ((p * 16 + i) * 4 + x)).pend with
        | some q => (q.kind == 3 || q.kind == 4) && q.loc.inLine line
        | none => false

/-- Grants a lease on a line read in this cycle, with expiry `lease` cycles on, between 1 and 4,096 (R210); the choice is the
home's. -/
def leaseEnd (gtime lease : Nat) : Nat := gtime + 1 + lease % 4096

/-- Installs a fill in the cluster L1 where R210 and the class allow it, and records its lease at the home. -/
def State.l1Fill (s : State) (p pa cls lease : Nat) : State :=
  let line := pa / 256
  let k := s.clu p
  let e := leaseEnd s.gtime lease
  let s1 := { s with leases := mset s.leases line (max e (mget 0 s.leases line)) }
  if k.l1Cap = 0 || cls = 3 || s.storePending p line then s
  else
    let x : L1Line := { line := line, data := s.bytesAt (.phys (line * 256)) 256, g := s.gtime, e := e }
    let rest := k.l1.filter fun y => y.line != line
    let l := if cls = 1 then rest.take (k.l1Cap - 1) ++ [x] else x :: rest.take (k.l1Cap - 1)
    s1.setClu p { k with l1 := l }

end Sys2Proof.Machine
end

