-- ==== Sys2Proof/Machine/Operands.lean ====
section
/-! DEFINITION. Operand forms: translation and the checks of an access (R203 to R205, R224, R396, R397), reads and stores that an
instruction performs inside its own step, the register window with its growth and spilling (R100 to R107), and what every
instruction passes on its way to issue. -/

namespace Sys2Proof.Machine

/-! ## What an instruction comes to -/

/-- What a stop does to the context in execution. A speculative thread neither traps nor freezes: its instruction waits and
issues again (R376), from the state `s0` before it. So does one that traps or freezes while an earlier instruction of its thread is
incomplete: the core waits before it records (R125). -/
def State.stopped (s0 : State) (e : Stop) (s : State) : State :=
  match e with
  | .wait => { s with waited := true }
  | e =>
    if s0.speculative s0.cur || decide (s0.gtime < s0.t.completeAt) then { s0 with waited := true }
    else
      let pc := s.t.pc
      match e with
      | .trap cause acc level reason val => s.takeTrap s.cur cause (causeWord cause acc level reason) pc val none
      | .trapSeq val seqno => s.takeTrap s.cur cCPFAULT (causeWord cCPFAULT 0 0 0) pc val (some seqno)
      | .trapAfter cause val => s.takeTrap s.cur cause (causeWord cause 0 0 0) s.ir.next val none
      | .freeze acc val => s.freezeThread s.cur (causeWord cPROT acc 0 0) pc val val none
      | .walkBad acc pa val =>
        ((s.homeRead { code := 1, c := some s.cur } (.phys pa) 8 0).1).takeTrap s.cur cDRAMERR (causeWord cDRAMERR acc 0 0) pc val none
      | .freezeSeq acc val addr seqno => s.freezeThread s.cur (causeWord cPROT acc 0 0) pc val addr (some seqno)
      | .wait => s

/-- The outcome of an instruction that began in state `s0`. -/
def finish (s0 : State) (r : Res) : Host.Outcome State Fault Refusal :=
  match r with
  | .ok s => .next s
  | .stop e p => .next (s0.stopped e (p.getD s0))

/-! ## Translation -/

/-- A page that a walk found. -/
structure Page where
  va : Nat
  size : Nat
  pa : Nat
  k : Bool
  x : Bool
  w : Bool
  r : Bool
deriving DecidableEq, Repr

/-- Why an access is refused (R224). -/
inductive AccErr where
  | noncanon
  | align
  | prot
  | walk (level reason : Nat)
  | bad (pa : Nat)
  | hold
deriving DecidableEq, Repr

/-- The reserved bits of an entry (R396). -/
def pteReserved (e : Nat) : Bool := decide (2 ^ 52 ≤ e) || e / 2 ^ 8 % 16 != 0 || nbit e 6

/-- Bytes mapped by a leaf at a level. -/
def leafSize (level : Nat) (s64 : Bool) : Nat :=
  match level with
  | 2 => 2 ^ 30
  | 1 => 2 ^ 21
  | _ => if s64 then 2 ^ 16 else 2 ^ 12

/-- Does a valid entry break R397? -/
def pteBad (level e : Nat) : Bool :=
  let leaf := nbit e 1
  let s64 := nbit e 7
  let addr := e / 2 ^ 12 % 2 ^ 40 * 2 ^ 12
  pteReserved e ||
  (leaf && decide (3 ≤ level)) || (!leaf && level == 0) ||
  (leaf && addr % leafSize level s64 != 0) ||
  (nbit e 3 && !nbit e 2) ||
  (s64 && !(leaf && level == 0)) ||
  (!leaf && (nbit e 2 || nbit e 3 || nbit e 4 || nbit e 5))

/-- Can a walk for a cluster read an entry: it is backed, by memory that no failed link cuts off (R72, R244)? -/
def State.walkReads (s : State) (pcl : Option Nat) (pa : Nat) : Bool :=
  (match s.backing pa with
    | .nothing | .steward => false
    | _ => true) && !(match pcl with | some p => s.cutFrom p (.phys pa) | none => false)

/-- What keeps a walk from reading 8 bytes of a table: a device-scope load by checks 3, 5 and 6 of R224 (R397), which waits for its
channel (R260). -/
def State.walkStop (s : State) (pcl : Option Nat) (pa : Nat) : Option AccErr :=
  if !s.walkReads pcl pa then some .prot
  else if !s.dramReady (.phys pa) 8 then some .hold
  else if s.readsBad (.phys pa) 8 then some (.bad pa)
  else none

/-- The walk from a level down (R396, R397): the table's address and the levels still below it. -/
def State.walkFrom (s : State) (pcl : Option Nat) (va : Nat) : Nat → Nat → Except AccErr Page
  | level, table =>
    let i := if level = 4 then va / 2 ^ 48 % 256 else va / 2 ^ (12 + 9 * level) % 512
    match s.walkStop pcl (table + 8 * i) with
    | some e => .error e
    | none =>
      let e := s.readAt (.phys (table + 8 * i)) 8
      if !nbit e 0 then .error (.walk level 1)
      else if pteBad level e then .error (.walk level 2)
      else
        let addr := e / 2 ^ 12 % 2 ^ 40 * 2 ^ 12
        if nbit e 1 then
          let z := leafSize level (nbit e 7)
          .ok { va := va / z * z, size := z, pa := addr, k := nbit e 5, x := nbit e 4, w := nbit e 3, r := nbit e 2 }
        else match level with
          | 0 => .error (.walk 0 2)
          | n + 1 => State.walkFrom s pcl va n addr

/-- The root of an address space (R395). -/
def State.asRoot (s : State) (asid : Nat) : Nat := s.readAt (.phys (s.astab + 32 * asid)) 8
/-- KVEC of an address space (R395). -/
def State.asKvec (s : State) (asid : Nat) : Word := BitVec.ofNat 64 (s.readAt (.phys (s.astab + 32 * asid + 8)) 8)

/-- A walk, for a cluster or a unit of an Encke; a space without a root has no entry at level 4. -/
def State.walk (s : State) (pcl : Option Nat) (asid va : Nat) : Except AccErr Page :=
  match s.walkStop pcl (s.astab + 32 * asid) with
  | some e => .error e
  | none => let root := s.asRoot asid; if root = 0 then .error (.walk 4 1) else s.walkFrom pcl va 4 root

/-! ## Checks of an access -/

/-- On whose behalf an access is made: the core whose slice the alias names, the cluster, the address space, the rights. -/
structure Who where
  core : Nat
  pcl : Nat
  asid : Nat
  priv : Bool
  handler : Bool
  steward : Bool
deriving DecidableEq, Repr

/-- A translation that the TLB of a core or that of its cluster holds (R398). -/
def State.tlbFind (s : State) (core pcl asid va : Nat) : Option Page :=
  (s.tlb.find? fun e => e.pcl == pcl && e.core.all (· == core) && e.asid == asid && decide (e.va ≤ va) && decide (va < e.va + e.size)).map
    fun e => { va := e.va, size := e.size, pa := e.pa, k := e.k, x := e.x, w := e.w, r := e.r }

/-- The translation of an address: a cached one, or a walk's. -/
def State.translate (s : State) (w : Who) (va : Nat) : Except AccErr Page :=
  match s.tlbFind w.core w.pcl w.asid va with
  | some p => .ok p
  | none => s.walk (some w.pcl) w.asid va

/-- A context's own accesses. -/
def State.who (s : State) (c : Nat) : Who :=
  let t := s.thread c
  { core := coreId c, pcl := pclOf c, asid := t.sys.asid.toNat % 2 ^ 16, priv := t.privileged, handler := t.mode == .handler,
    steward := isSteward c }

/-- What an access needs of a page. -/
structure Need where
  r : Bool := false
  w : Bool := false
  x : Bool := false
deriving DecidableEq, Repr

/-- First address of the local alias (R203). -/
def aliasBase : Nat := 0x00FFFFFFFFFF0000
/-- First address of the mesh range (R203). -/
def meshBase : Nat := 0x00FE000000000000
/-- Does an address lie in the alias range? -/
def isAlias (va : Nat) : Bool := decide (aliasBase ≤ va) && decide (va < aliasBase + 2 ^ 15)
/-- Does it lie in the mesh range, the reserved part included? -/
def isMesh (va : Nat) : Bool := decide (meshBase ≤ va) && decide (va < meshBase + 2 ^ 48)

/-- Bytes of local memory in each slice of a cluster (R204). -/
def State.lmemBytes (s : State) (pcl : Nat) : Nat := (s.clu pcl).lmem * 1024

/-- What a physical address is to an access (R205, R244, R422): the steward window belongs to steward cores. -/
def State.physOk (s : State) (w : Who) (pa : Nat) : Bool :=
  match s.backing pa with
  | .nothing => false
  | .steward => w.steward && (blockOf pa).isSome
  | _ => w.steward || !s.cutOff w.pcl pa

/-- The checks of R224 in their order, up to check 5: canonical, aligned to `al`, the rules of the space, translation,
permission. -/
def State.access (s : State) (w : Who) (va : Word) (size al : Nat) (need : Need) : Except AccErr Loc :=
  let v := va.toNat
  if 2 ^ 56 ≤ v then .error .noncanon
  else if v % al ≠ 0 then .error .align
  else if isAlias v then
    let off := v - aliasBase
    if w.steward then (if off + size ≤ 2 ^ 15 then .ok (.sram (w.core - 2 ^ 19) off) else .error .prot)
    else if off + size ≤ s.lmemBytes w.pcl then .ok (.slice w.core off) else .error .prot
  else if w.handler && decide (aliasBase + 2 ^ 15 ≤ v) && decide (v + size ≤ aliasBase + 2 ^ 15 + 4096) then
    .ok (.slice w.core (v - aliasBase))
  else if w.steward then
    if v < 2 ^ 52 ∧ s.physOk w v then .ok (.phys v) else .error .prot
  else if isMesh v then
    if meshBase + 2 ^ 31 ≤ v then .error .prot
    else
      let e := mget 0 (s.clu w.pcl).vct (v / 2 ^ 19 % 4096)
      let pcl := e.toNat % 4096
      if !e.getLsbD 15 || s.cutFrom w.pcl (.slice (pcl * 16) 0) then .error .prot
      else if v % 2 ^ 15 + size ≤ s.lmemBytes pcl then
        (if e.getLsbD 14 then .error .hold else .ok (.slice (pcl * 16 + v / 2 ^ 15 % 16) (v % 2 ^ 15)))
      else .error .prot
  else match s.translate w v with
    | .error e => .error e
    | .ok p =>
      let pa := p.pa + (v - p.va)
      if (need.r && !p.r) || (need.w && !p.w) || (need.x && !p.x) || (p.k && !w.priv) || !s.physOk w pa then .error .prot
      else .ok (.phys pa)

/-- What a walk for an agent met is counted, where an entry is uncorrectable (R256). -/
def State.walkLog (s : State) (ag : Agent) (e : AccErr) : State :=
  match e with
  | .bad pa => (s.homeRead ag (.phys pa) 8 0).1
  | _ => s

/-- The trap or freeze of a failed check, with ACC `code` (R224, R389). -/
def AccErr.stop (e : AccErr) (code : Nat) (va : Word) : Stop :=
  match e with
  | .noncanon => .trap cPFAULT code 0 3 va
  | .align => .trap cALIGN code 0 0 va
  | .prot => .freeze code va
  | .walk l r => .trap cPFAULT code l r va
  | .bad pa => .walkBad code pa va
  | .hold => .wait

/-- The checks of a naturally aligned access of the context in execution. -/
def State.check (s : State) (va : Word) (size : Nat) (need : Need) (code : Nat) : Except Stop Loc :=
  match s.access (s.who s.cur) va size size need with
  | .ok l => .ok l
  | .error e => .error (e.stop code va)

/-! ## Paths (R208, R209) -/

/-- The path of an access: 0 the port to the own slice, 1 loop-back port, 2 request ring; 3 is the stream unit's ring. -/
def pathOf (c : Nat) (va : Word) (l : Loc) : Nat :=
  if isAlias va.toNat then 0
  else match l with
    | .slice k _ => if k = coreId c then 1 else 2
    | _ => 2

/-- The stores waiting in a path. -/
def Core.path (k : Core) (p : Nat) : List PathOp :=
  if p = 0 then k.priv else if p = 1 then k.loop else if p = 2 then k.ring else k.sring
/-- Sets the stores waiting in a path. -/
def Core.setPath (k : Core) (p : Nat) (l : List PathOp) : Core :=
  if p = 0 then { k with priv := l } else if p = 1 then { k with loop := l } else if p = 2 then { k with ring := l }
  else { k with sring := l }

/-- The path of a pending access of context c. -/
def Pend.path (p : Pend) (c : Nat) : Nat := if p.kind = 1 then pathOf c p.va p.loc else 2

/-- Does an access of another context wait at its home for a held word (R221, R230)? It has left the path. -/
def State.parkedAt (s : State) (c c' : Nat) (l : Loc) (n : Nat) : Bool := c' != c && s.reserved (some c') l n

/-- Nothing of the core that took its place in path p before `sq` is still to be performed at the home of `l` (R208, R209): no store, no
blocking access, no vector load. `c` is the context whose access is asked about. -/
def State.pathClearBefore (s : State) (c p : Nat) (l : Loc) (sq : Nat) : Bool :=
  let d := s.dest l
  ((s.core (coreId c)).path p).all (fun o => s.dest o.loc != d || decide (sq ≤ o.sq) || s.parkedAt c o.c o.loc o.size) &&
  (isSteward c || (List.range 4).all fun x =>
    let c' := coreId c * 4 + x
    (match (s.thread c').pend with
      | some q => decide (5 ≤ q.kind) || q.path c' != p || s.dest q.loc != d || decide (sq ≤ q.sq) || s.rsvq.contains c' ||
          s.parkedAt c c' q.loc q.size
      | none => true) &&
    (s.thread c').vec.mem.all fun q =>
      q.store || pathOf c' q.addr q.loc != p || s.dest q.loc != d || decide (sq ≤ q.sq) || s.parkedAt c c' q.loc 16)

/-- Nothing waits in the path for the same destination, for an access that takes its place now. -/
def State.pathClear (s : State) (c p : Nat) (l : Loc) : Bool := s.pathClearBefore c p l (s.core (coreId c)).nsq

/-- The stores and atomics at the home of a line; of each, whether nothing but leases holds it: no reservation, owner, channel or earlier
access of its path. -/
def State.lineWrites (s : State) (line : Nat) : List Bool :=
  (s.cores.flatMap fun (k : Nat × Core) => [(2, k.2.ring), (3, k.2.sring)].flatMap fun (p : Nat × List PathOp) =>
    (p.2.filter fun o => o.sent && o.loc.inLine line).map fun o =>
      s.ready (some o.c) o.loc o.size false && s.pathClearBefore o.c p.1 o.loc o.sq) ++
  s.thr.flatMap fun (t : Nat × Thread) =>
    (match t.2.pend with
      | some q => if (q.kind == 3 || q.kind == 4) && q.sent && q.loc.inLine line then
          [s.ready (some t.1) q.loc q.size false && (s.rsvq.contains t.1 || s.pathClearBefore t.1 2 q.loc q.sq)] else []
      | none => []) ++
    match t.2.spec.sb with
    | e :: _ => if e.loc.inLine line && !s.speculative t.1 && !t.2.spec.abort then
        [s.ready (some t.1) e.loc e.size false && s.pathClear t.1 (pathOf t.1 e.va e.loc) e.loc] else []
    | [] => []

/-- Does a store or an atomic to a sector wait at its home for the leases on it (R211)? Lease requests for the sector wait with it, till it
is performed. -/
def State.storeWaits (s : State) (l : Loc) : Bool :=
  match l with
  | .phys pa =>
    if s.leaseHolds l then !(s.lineWrites (pa / 256)).isEmpty
    else s.leaseq.contains (pa / 256) && (s.lineWrites (pa / 256)).any id
  | _ => false

/-- Notes at the end of a cycle the lines at whose home a write waits for leases (R211). -/
def State.noteLeaseWaits (s : State) : State :=
  let held := (s.leases.filter fun (x : Nat × Nat) => s.leaseHolds (.phys (256 * x.1))).map Prod.fst
  { s with leaseq := (held ++ s.leaseq).eraseDups.filter fun x => !(s.lineWrites x).isEmpty }

/-! ## Accesses inside a step -/

/-- Notes what a speculative load reads (R378): the reader's mark on the unit is updated, or a free one of four is taken. -/
def State.markUnit (s : State) (c : Nat) (u : Loc) (mask : Nat) : Option State :=
  let t := s.thread c
  if s.marks.any (fun m => m.loc == u && m.c == c) then
    some { s with marks := s.marks.map fun m =>
      if m.loc = u ∧ m.c = c then { m with mask := m.mask ||| mask, vt := t.sys.vt, sdom := t.spec.sdom } else m }
  else if (s.marks.filter fun m => m.loc == u).length < 4 then
    some { s with marks := s.marks ++ [{ loc := u, mask := mask, c := c, vt := t.sys.vt, sdom := t.spec.sdom }] }
  else none

/-- A byte of a location as a thread with buffered stores reads it (R377). -/
def State.sbByte (s : State) (sb : List SbEnt) (l : Loc) (i : Nat) : Byte :=
  let k := s.key l i
  match sb.reverse.find? (fun e => (s.keys e.loc e.size).contains k) with
  | some e => BitVec.ofNat 8 (e.v / 256 ^ ((s.keys e.loc e.size).findIdx (· == k)))
  | none => s.byteAt l i

/-- The value a thread with buffered stores reads. -/
def State.sbRead (s : State) (sb : List SbEnt) (l : Loc) (n : Nat) : Nat :=
  if sb.isEmpty then s.valueAt l n else leVal ((List.range n).map (s.sbByte sb l))

/-- Discards the cluster L1's copy of a line: at the issue of a store (R211), and after a read at the home that must not be
followed by an older value (R221). -/
def State.storeDrop (s : State) (c : Nat) (l : Loc) : State :=
  match l with
  | .phys pa => if isDram pa && !isSteward c then s.l1Drop (pclOf c) (pa / 256) else s
  | _ => s

/-- The usable copy of the cluster L1, for global DRAM addresses only, where the cluster has an L1 (R203, R204, R210). -/
def State.l1Usable (s : State) (p : Nat) (l : Loc) (t rh : Nat) : Option L1Line :=
  match l with
  | .phys pa =>
    if isDram pa && (s.clu p).l1Cap != 0 then
      match (s.clu p).l1Find (pa / 256) with
      | some x => if x.usable t rh then some x else none
      | none => none
    else none
  | _ => none

/-- A load that the home serves installs nothing where it may not be answered by a copy (R210): an sc or a speculative one; nor does one of
a thread whose buffered stores still drain. -/
def State.atHome (s : State) (c ord : Nat) : Bool := ord == 3 || s.speculative c || !(s.thread c).spec.sb.isEmpty

/-- Does a load at the home ask for a lease (R210)? -/
def State.asksLease (s : State) (c : Nat) (l : Loc) (cls : Nat) (home : Bool) : Bool :=
  match l with
  | .phys pa => isDram pa && !home && !isSteward c && (s.clu (pclOf c)).l1Cap != 0 && cls != 3
  | _ => false

/-- May the home serve a load now (R207, R211, R213, R221)? -/
def State.loadReady (s : State) (c : Nat) (l : Loc) (n cls : Nat) (home : Bool) : Bool :=
  s.ready (some c) l n false && !(s.asksLease c l cls home && s.storeWaits l)

/-- The home serves a load (R210, R220): a speculative thread marks what it reads; the fill enters the cluster L1 under a lease. The answer
says whether the data is uncorrectable, and gives the value; there is none while no mark is free. -/
def State.homeLoad (s : State) (ag c : Nat) (l : Loc) (n cls : Nat) (home : Bool) (lease : Nat) : Option (State × Bool × Nat) :=
  match (if s.speculative c then s.markUnit c (unitOf l) (granuleMask l n) else some s) with
  | none => none
  | some s1 =>
    let r := s1.homeRead { code := ag, c := some c } l n cls
    let s2 := if r.2 then r.1
      else if s.asksLease c l cls home then (match l with | .phys pa => r.1.l1Fill (pclOf c) pa cls lease | _ => r.1)
      else if home then r.1.storeDrop c l else r.1
    some (s2, r.2, s1.sbRead (s.thread c).spec.sb l n)

/-- The bytes of a copy that a load reads. -/
def L1Line.at_ (x : L1Line) (l : Loc) (n : Nat) : Nat := x.value (match l with | .phys pa => pa | _ => 0) n

/-- A load of n bytes inside one granule, performed within the step: a usable copy, else the home (R210, R220). It waits for the home
and for what stands before it in its path. `ag` is the agent code of R258. -/
def State.loadAs (ag : Nat) (s : State) (c : Nat) (va : Word) (l : Loc) (n cls code : Nat) : Got Nat :=
  let home := s.atHome c 0
  match (if home then none else s.l1Usable (pclOf c) l s.gtime (s.thread c).sys.rh.toNat) with
  | some x => .ok (s.l1Use (pclOf c) x) (x.at_ l n)
  | none =>
    if !(s.loadReady c l n cls home && s.pathClear c (if ag = 4 then 3 else pathOf c va l) l) then .stop .wait none
    else match s.homeLoad ag c l n cls home (Config.lease s.gtime c) with
      | none => .stop .wait none
      | some (s1, bad, v) => if bad then .stop (.trap cDRAMERR code 0 0 va) (some s1) else .ok s1 v

/-- A load of the thread. -/
def State.loadNow (s : State) (c : Nat) (va : Word) (l : Loc) (n cls code : Nat) : Got Nat := s.loadAs 1 c va l n cls code

/-- The writer that a context is. -/
def State.writer (s : State) (c : Nat) : Writer := { c := some c, vt := (s.thread c).sys.vt }

/-- A store performed within the step. -/
def State.storeNow (s : State) (c : Nat) (l : Loc) (n v cls : Nat) : State :=
  (s.storeDrop c l).homeWrite (s.writer c) l (leBytes n v) cls

/-- Adds a store to a context's speculative store buffer (R377). -/
def State.bufStore (s : State) (c : Nat) (e : SbEnt) : State :=
  let t := s.thread c
  s.setThread c { t with spec := { t.spec with sb := t.spec.sb ++ [e] } }

/-! ## The window (R100 to R107) -/

/-- Registers that resident units hold. -/
def Win.nres (w : Win) : Nat := (w.units.map (·.k)).foldl (· + ·) 0

/-- The newest units that fit beside a frame: at most `slots` units holding at most `room` registers (R102, R104). -/
def keepUnits : List Link → Nat → Nat → List Link
  | [], _, _ => []
  | u :: us, room, slots => if u.k ≤ room ∧ 0 < slots then u :: keepUnits us (room - u.k) (slots - 1) else []

/-- LINKW of a unit (R105). -/
def Link.word (u : Link) : Word := BitVec.ofNat 64 (u.k % 16 + u.nc % 128 * 16)

/-- The stores of one unit's spill, as address and value (R104). -/
def unitWords (ring : SMap Word) (base : Nat) (rbsp : Word) (u : Link) : List (Word × Word) :=
  ((List.range u.k).map fun i => (rbsp + BitVec.ofNat 64 (8 * i), mget 0 ring ((base + i) % 64))) ++
    [(rbsp + BitVec.ofNat 64 (8 * u.k), u.ret), (rbsp + BitVec.ofNat 64 (8 * u.k + 8), u.word)]

/-- The stores of a whole spill, the oldest unit first. -/
def spillWords (ring : SMap Word) : Nat → Word → List Link → List (Word × Word)
  | _, _, [] => []
  | base, rbsp, u :: us =>
    unitWords ring base rbsp u ++ spillWords ring (base + u.k) (rbsp + BitVec.ofNat 64 (8 * u.k + 16)) us

/-- Bytes that a list of units takes in the backing store. -/
def spillBytes (us : List Link) : Nat := (us.map fun u => 8 * u.k + 16).foldl (· + ·) 0

/-- The homes of a spill's stores, up to the first that a check refuses (R107). -/
def State.spillLocs (s : State) : List (Word × Word) → List (Loc × Word × Word) × Option Stop
  | [] => ([], none)
  | (va, v) :: ws =>
    match s.check va 8 { w := true } 4 with
    | .error e => ([], some e)
    | .ok l => let r := State.spillLocs s ws; ((l, va, v) :: r.1, r.2)

/-- Puts a store of the context in execution into a path (R208). -/
def State.pushStore (s : State) (l : Loc) (size v cls : Nat) (arel : Bool) (path : Nat) : State :=
  let c := s.cur
  let s1 := s.storeDrop c l
  let k := s1.core (coreId c)
  let o : PathOp := { sq := k.nsq, c := c, loc := l, size := size, v := v, arel := arel, vt := s.t.sys.vt, cls := cls, vec := false,
                      sent := false }
  s1.setCore (coreId c) ({ k with nsq := k.nsq + 1 }.setPath path (k.path path ++ [o]))

/-- The stores of a spill enter their paths in order (R104, R107); those before a faulting one are performed. A speculative thread
buffers them (R377), and while buffered stores drain they wait (R380). -/
def State.spillStores (s : State) (ws : List (Word × Word)) : Res :=
  let c := s.cur
  let r := s.spillLocs ws
  if r.2 = some .wait then .stop .wait none
  else if s.speculative c then
    if 64 < s.t.spec.sb.length + r.1.length then .stop .wait none
    else match r.2 with
      | some e => .stop e none
      | none => .ok (r.1.foldl (fun a x => a.bufStore c { loc := x.1, va := x.2.1, size := 8, v := x.2.2.toNat, cls := 0 }) s)
  else if !s.t.spec.sb.isEmpty then .stop .wait none
  else
    let s1 := r.1.foldl (fun a x => a.pushStore x.1 8 x.2.2.toNat 0 false (pathOf c x.2.1 x.1)) s
    match r.2 with
    | some e => .stop e (some s1)
    | none => .ok s1

/-- Clears the ring slots of the registers from logical index l on. -/
def zeroRun (ring : SMap Word) (l : Nat) : Nat → SMap Word
  | 0 => ring
  | n + 1 => zeroRun (mset ring (l % 64) 0) (l + 1) n

/-- Are n registers from logical index l on usable in this cycle (R123)? -/
def Thread.runUsable (t : Thread) (now l n : Nat) : Bool :=
  (List.range n).all fun i => t.rdy.all fun p => p.1 != (l + i) % 64 || decide (p.2 ≤ now)

/-- Gives the thread the window `w` that an event leaves: the oldest units are spilled until R102 holds, once their registers are usable
(R123), and `cnt` registers from logical index `z` on, which enter the frame, read zero (R103, R104, R107). -/
def State.settle (s : State) (w : Win) (z cnt : Nat) : Res :=
  let kept := keepUnits w.units (64 - w.n) 16
  let out := (w.units.drop kept.length).reverse
  let bytes := spillBytes out
  let done := fun (s1 : State) =>
    s1.setT { s1.t with win := { w with ring := zeroRun w.ring z cnt, units := kept, nspill := w.nspill + out.length,
                                        rbsp := w.rbsp + BitVec.ofNat 64 bytes } }
  if out.isEmpty then .ok (done s)
  else if w.rbsl.toNat < w.rbsp.toNat + bytes then
    .stop (.trap cSPILL 4 0 0 (BitVec.ofNat 64 (2 ^ 56 + (w.rbsp.toNat + bytes) % 2 ^ 56))) none
  else if !s.t.runUsable s.gtime (w.fb + (2 ^ 64 - w.nres)) (out.map fun u => u.k).sum then .stop .wait none
  else (s.spillStores (spillWords w.ring (w.fb + (2 ^ 64 - w.nres)) w.rbsp out)).bind fun s1 => .ok (done s1)

/-- Sets the frame size; registers that enter the frame read zero (R103). -/
def State.resize (s : State) (n : Nat) : Res :=
  let w := s.t.win
  s.settle { w with n := n } (w.fb + w.n) (n - w.n)

/-- The frame that holds every named register (R103). -/
def State.nameRegs (s : State) (rs : List Nat) : Res :=
  let m := rs.foldl (fun a r => max a (r + 1)) 0
  if m ≤ s.t.win.n then .ok s else s.resize m

/-! ## Issue -/

/-- What an instruction passes on its way to issue: the mode it needs (0 any, 1 privileged, 2 handler, 3 steward), whether it may
stand in a hold (R231), whether it is AREL, whether it is irrevocable (R376), the window registers it names (R103). -/
structure Kind where
  mode : Nat := 0
  inHold : Bool := false
  arel : Bool := false
  irrev : Bool := false
  names : List (BitVec 6) := []
deriving DecidableEq, Repr

/-- Check 11 of R88. -/
def Kind.allowed (k : Kind) (t : Thread) : Bool :=
  match k.mode with
  | 0 => true
  | 1 => t.privileged
  | 2 => t.mode == .handler
  | _ => t.mode == .steward

/-- The RSVLONG value of a reason and an address (R231). -/
def rsvVal (reason : Nat) (va : Word) : Word := BitVec.ofNat 64 (reason * 2 ^ 56 + va.toNat % 2 ^ 56)

/-- What R231 says of the next instruction of a hold; `g` is its guard. LENGTH is raised whatever the guard (log entry 20). -/
def holdStop (t : Thread) (k : Kind) (g : Bool) : Option Stop :=
  match t.hold with
  | none => none
  | some h =>
    if (17 ≤ h.count + 1 && !k.arel) || 17 < h.count + 1 then some (.trap cRSVLONG 0 0 0 (rsvVal 1 h.va))
    else if g && !k.inHold then some (.trap cRSVLONG 0 0 0 (rsvVal 2 h.va))
    else none

/-- Counts an instruction issued in a hold. -/
def Thread.countHold (t : Thread) : Thread :=
  match t.hold with
  | some h => { t with hold := some { h with count := h.count + 1 } }
  | none => t

/-- Puts the window before the instruction back, for a stop with partial effects. -/
def Res.keepWin (r : Res) (w : Win) : Res :=
  match r with
  | .ok s => .ok s
  | .stop e (some s) => .stop e (some (s.setT { s.t with win := w }))
  | .stop e none => .stop e none

/-- The way of an instruction to issue (R85, R88, R103, R231, R375, R376): privilege, the hold, the guard, speculation, the
frame, then the instruction's own body. -/
def issueRes (k : Kind) (f : Fld) (s : State) (body : State → Res) : Res :=
  let g := s.P f.g.toNat
  if s.speculative s.cur && !s.t.spec.spen then .stop .wait none
  else if !k.allowed s.t then .stop (.trap cPRIV 0 0 0 0) none
  else match holdStop s.t k g with
    | some e => .stop e none
    | none =>
      let s1 := s.setT s.t.countHold
      if !g then .ok s1.advance
      else if k.irrev && s.speculative s.cur then .stop .wait none
      else ((s1.nameRegs (k.names.map (·.toNat))).bind body).keepWin s.t.win

/-- The meaning of an encoded instruction: its way to issue and its body. -/
def issue (k : Kind) (f : Fld) (s : State) (body : State → Res) : Host.Outcome State Fault Refusal :=
  finish s (issueRes k f s body)

end Sys2Proof.Machine
end

