-- ==== Sys2Proof/Machine/Alu.lean ====
section
/-! DEFINITION. Integer arithmetic, compares, predicates and the conditional move (R127 to R137). -/

namespace Sys2Proof.Machine

/-- How the instructions of this family issue: they may stand in a hold (R231). -/
def aluKind (names : List (BitVec 6)) : Kind := { inHold := true, names := names }

/-- W[a] := op(W[a], W[b]) (R127, R131). -/
def aluOp (op : Word → Word → Word) (f : Fld) (s : State) : Host.Outcome State Fault Refusal :=
  issue (aluKind [f.a, f.b]) f s fun s => .ok (s.setW f.a (op (s.W f.a) (s.W f.b))).advance

/-- A multiplication: the result is usable from cycle c + 3 (R123, R127). -/
def mulOp (op : Word → Word → Word) (f : Fld) (s : State) : Host.Outcome State Fault Refusal :=
  issue (aluKind [f.a, f.b]) f s fun s =>
    let s1 := s.setW f.a (op (s.W f.a) (s.W f.b))
    .ok (s1.setT (s1.t.later s.gtime f.a.toNat (s.gtime + 3))).advance

/-- A division: the result is usable from cycle c + 34, and the core's divider is held to cycle c + 33 (R123, R124, R131). -/
def divOp (op : Word → Word → Word) (f : Fld) (s : State) : Host.Outcome State Fault Refusal :=
  issue (aluKind [f.a, f.b]) f s fun s =>
    let s1 := s.setW f.a (op (s.W f.a) (s.W f.b))
    let s2 := s1.setT (s1.t.later s.gtime f.a.toNat (s.gtime + 34))
    let k := s2.core (coreId s2.cur)
    .ok (s2.setCore (coreId s2.cur) { k with divFree := s.gtime + 34 }).advance

/-- W[a] := op(W[a], n) with an extended immediate n (R128, R129). -/
def immOp (op : Word → Word → Word) (n : Word) (f : Fld) (s : State) : Host.Outcome State Fault Refusal :=
  issue (aluKind [f.a]) f s fun s => .ok (s.setW f.a (op (s.W f.a) n)).advance

/-- P[dest] := cond(W[a], W[b]) (R133). -/
def cmpOp (cond : Word → Word → Bool) (f : Fld) (s : State) : Host.Outcome State Fault Refusal :=
  issue (aluKind [f.a, f.b]) f s fun s => .ok (s.setP (destP f.x) (cond (s.W f.a) (s.W f.b))).advance

/-- P[dest] := cond(W[a], n) with an extended immediate n (R134). -/
def cmpImmOp (cond : Word → Word → Bool) (n : Word) (f : Fld) (s : State) : Host.Outcome State Fault Refusal :=
  issue (aluKind [f.a]) f s fun s => .ok (s.setP (destP f.x) (cond (s.W f.a) n)).advance

/-- P[a] := op(P[a], P[b]) (R136). -/
def predOp (op : Bool → Bool → Bool) (f : Fld) (s : State) : Host.Outcome State Fault Refusal :=
  issue (aluKind []) f s fun s => .ok (s.setP f.a.toNat (op (s.P f.a.toNat) (s.P f.b.toNat))).advance

/-- The signed immediate of an ALUI or CMPI instruction (R129, R134). -/
def imm4S (f : Fld) : Word := immS f (4 + 10 * f.k)
/-- The signed immediate of ADDI and LI (R128). -/
def imm8S (f : Fld) : Word := immS f (8 + 10 * f.k)

/-- x << y[5:0]. -/
def shlW (x y : Word) : Word := x <<< (y.toNat % 64)
/-- u(x) >> y[5:0]. -/
def shrW (x y : Word) : Word := x >>> (y.toNat % 64)
/-- s(x) >> y[5:0]. -/
def sraW (x y : Word) : Word := x.sshiftRight (y.toNat % 64)
/-- Bits [127:64] of the signed product. -/
def mulhW (x y : Word) : Word := BitVec.ofInt 64 (x.toInt * y.toInt / 2 ^ 64)
/-- Bits [127:64] of the unsigned product. -/
def mulhuW (x y : Word) : Word := BitVec.ofNat 64 (x.toNat * y.toNat / 2 ^ 64)
/-- DIV (R131). -/
def divW (x y : Word) : Word := if y = 0 then ones64 else BitVec.ofInt 64 (x.toInt.tdiv y.toInt)
/-- DIVU (R131). -/
def divuW (x y : Word) : Word := if y = 0 then ones64 else BitVec.ofNat 64 (x.toNat / y.toNat)
/-- REM (R131). -/
def remW (x y : Word) : Word := if y = 0 then x else BitVec.ofInt 64 (x.toInt.tmod y.toInt)
/-- REMU (R131). -/
def remuW (x y : Word) : Word := if y = 0 then x else BitVec.ofNat 64 (x.toNat % y.toNat)
/-- Zero bits above the highest set bit; 64 for 0 (R132). -/
def clzW (y : Word) : Word := BitVec.ofNat 64 (((List.range 64).find? fun i => y.getLsbD (63 - i)).getD 64)
/-- Zero bits below the lowest set bit; 64 for 0 (R132). -/
def ctzW (y : Word) : Word := BitVec.ofNat 64 (((List.range 64).find? fun i => y.getLsbD i).getD 64)
/-- Set bits (R132). -/
def popcW (y : Word) : Word := BitVec.ofNat 64 ((List.range 64).filter fun i => y.getLsbD i).length
/-- |s(y)|; the least value stays (R132). -/
def absW (y : Word) : Word := if y.toInt < 0 then 0 - y else y

/-- ADD (R127). -/
def execAdd (f : Fld) (s : State) : Host.Outcome State Fault Refusal := aluOp (fun x y => x + y) f s

/-- SUB (R127). -/
def execSub (f : Fld) (s : State) : Host.Outcome State Fault Refusal := aluOp (fun x y => x - y) f s

/-- AND (R127). -/
def execAnd (f : Fld) (s : State) : Host.Outcome State Fault Refusal := aluOp (fun x y => x &&& y) f s

/-- OR (R127). -/
def execOr (f : Fld) (s : State) : Host.Outcome State Fault Refusal := aluOp (fun x y => x ||| y) f s

/-- XOR (R127). -/
def execXor (f : Fld) (s : State) : Host.Outcome State Fault Refusal := aluOp (fun x y => x ^^^ y) f s

/-- SHL (R127). -/
def execShl (f : Fld) (s : State) : Host.Outcome State Fault Refusal := aluOp shlW f s

/-- SHR (R127). -/
def execShr (f : Fld) (s : State) : Host.Outcome State Fault Refusal := aluOp shrW f s

/-- SRA (R127). -/
def execSra (f : Fld) (s : State) : Host.Outcome State Fault Refusal := aluOp sraW f s

/-- MUL (R127). -/
def execMul (f : Fld) (s : State) : Host.Outcome State Fault Refusal := mulOp (fun x y => x * y) f s

/-- MULH (R127). -/
def execMulh (f : Fld) (s : State) : Host.Outcome State Fault Refusal := mulOp mulhW f s

/-- MULHU (R127). -/
def execMulhu (f : Fld) (s : State) : Host.Outcome State Fault Refusal := mulOp mulhuW f s

/-- MIN: the lesser, signed (R127). -/
def execMin (f : Fld) (s : State) : Host.Outcome State Fault Refusal := aluOp (fun x y => if x.toInt ≤ y.toInt then x else y) f s

/-- MAX: the greater, signed (R127). -/
def execMax (f : Fld) (s : State) : Host.Outcome State Fault Refusal := aluOp (fun x y => if x.toInt ≤ y.toInt then y else x) f s

/-- MINU: the lesser, unsigned (R127). -/
def execMinu (f : Fld) (s : State) : Host.Outcome State Fault Refusal := aluOp (fun x y => if x.toNat ≤ y.toNat then x else y) f s

/-- MAXU: the greater, unsigned (R127). -/
def execMaxu (f : Fld) (s : State) : Host.Outcome State Fault Refusal := aluOp (fun x y => if x.toNat ≤ y.toNat then y else x) f s

/-- MOV (R127). -/
def execMov (f : Fld) (s : State) : Host.Outcome State Fault Refusal := aluOp (fun _ y => y) f s

/-- ADDI (R128). -/
def execAddi (f : Fld) (s : State) : Host.Outcome State Fault Refusal := immOp (fun x n => x + n) (imm8S f) f s

/-- LI (R128). -/
def execLi (f : Fld) (s : State) : Host.Outcome State Fault Refusal := immOp (fun _ n => n) (imm8S f) f s

/-- SHLI (R129, R130). -/
def execShli (f : Fld) (s : State) : Host.Outcome State Fault Refusal := immOp shlW (immZ f) f s

/-- SHRI (R129, R130). -/
def execShri (f : Fld) (s : State) : Host.Outcome State Fault Refusal := immOp shrW (immZ f) f s

/-- SRAI (R129, R130). -/
def execSrai (f : Fld) (s : State) : Host.Outcome State Fault Refusal := immOp sraW (immZ f) f s

/-- ANDI (R129). -/
def execAndi (f : Fld) (s : State) : Host.Outcome State Fault Refusal := immOp (fun x n => x &&& n) (imm4S f) f s

/-- ORI (R129). -/
def execOri (f : Fld) (s : State) : Host.Outcome State Fault Refusal := immOp (fun x n => x ||| n) (immZ f) f s

/-- XORI (R129). -/
def execXori (f : Fld) (s : State) : Host.Outcome State Fault Refusal := immOp (fun x n => x ^^^ n) (immZ f) f s

/-- MULI (R129). -/
def execMuli (f : Fld) (s : State) : Host.Outcome State Fault Refusal :=
  issue (aluKind [f.a]) f s fun s =>
    let s1 := s.setW f.a (s.W f.a * imm4S f)
    .ok (s1.setT (s1.t.later s.gtime f.a.toNat (s.gtime + 3))).advance

/-- DIV (R131). -/
def execDiv (f : Fld) (s : State) : Host.Outcome State Fault Refusal := divOp divW f s

/-- DIVU (R131). -/
def execDivu (f : Fld) (s : State) : Host.Outcome State Fault Refusal := divOp divuW f s

/-- REM (R131). -/
def execRem (f : Fld) (s : State) : Host.Outcome State Fault Refusal := divOp remW f s

/-- REMU (R131). -/
def execRemu (f : Fld) (s : State) : Host.Outcome State Fault Refusal := divOp remuW f s

/-- CLZ (R132). -/
def execClz (f : Fld) (s : State) : Host.Outcome State Fault Refusal := aluOp (fun _ y => clzW y) f s

/-- CTZ (R132). -/
def execCtz (f : Fld) (s : State) : Host.Outcome State Fault Refusal := aluOp (fun _ y => ctzW y) f s

/-- POPC (R132). -/
def execPopc (f : Fld) (s : State) : Host.Outcome State Fault Refusal := aluOp (fun _ y => popcW y) f s

/-- BREV (R132). -/
def execBrev (f : Fld) (s : State) : Host.Outcome State Fault Refusal := aluOp (fun _ y => y.reverse) f s

/-- SEXTB (R132). -/
def execSextb (f : Fld) (s : State) : Host.Outcome State Fault Refusal := aluOp (fun _ y => sextW y 8) f s

/-- SEXTH (R132). -/
def execSexth (f : Fld) (s : State) : Host.Outcome State Fault Refusal := aluOp (fun _ y => sextW y 16) f s

/-- SEXTW (R132). -/
def execSextw (f : Fld) (s : State) : Host.Outcome State Fault Refusal := aluOp (fun _ y => sextW y 32) f s

/-- ZEXTB (R132). -/
def execZextb (f : Fld) (s : State) : Host.Outcome State Fault Refusal := aluOp (fun _ y => zextW y 8) f s

/-- ZEXTH (R132). -/
def execZexth (f : Fld) (s : State) : Host.Outcome State Fault Refusal := aluOp (fun _ y => zextW y 16) f s

/-- ZEXTW (R132). -/
def execZextw (f : Fld) (s : State) : Host.Outcome State Fault Refusal := aluOp (fun _ y => zextW y 32) f s

/-- ABS (R132). -/
def execAbs (f : Fld) (s : State) : Host.Outcome State Fault Refusal := aluOp (fun _ y => absW y) f s

/-- NEG (R132). -/
def execNeg (f : Fld) (s : State) : Host.Outcome State Fault Refusal := aluOp (fun _ y => 0 - y) f s

/-- EQ (R133). -/
def execEq (f : Fld) (s : State) : Host.Outcome State Fault Refusal := cmpOp (fun x y => x == y) f s

/-- NE (R133). -/
def execNe (f : Fld) (s : State) : Host.Outcome State Fault Refusal := cmpOp (fun x y => x != y) f s

/-- LT (R133). -/
def execLt (f : Fld) (s : State) : Host.Outcome State Fault Refusal := cmpOp (fun x y => decide (x.toInt < y.toInt)) f s

/-- GE (R133). -/
def execGe (f : Fld) (s : State) : Host.Outcome State Fault Refusal := cmpOp (fun x y => decide (y.toInt ≤ x.toInt)) f s

/-- LTU (R133). -/
def execLtu (f : Fld) (s : State) : Host.Outcome State Fault Refusal := cmpOp (fun x y => decide (x.toNat < y.toNat)) f s

/-- GEU (R133). -/
def execGeu (f : Fld) (s : State) : Host.Outcome State Fault Refusal := cmpOp (fun x y => decide (y.toNat ≤ x.toNat)) f s

/-- TST (R133). -/
def execTst (f : Fld) (s : State) : Host.Outcome State Fault Refusal := cmpOp (fun x y => (x &&& y) != 0) f s

/-- TSTN (R133). -/
def execTstn (f : Fld) (s : State) : Host.Outcome State Fault Refusal := cmpOp (fun x y => (x &&& y) == 0) f s

/-- EQI (R134). -/
def execEqi (f : Fld) (s : State) : Host.Outcome State Fault Refusal := cmpImmOp (fun x n => x == n) (imm4S f) f s

/-- NEI (R134). -/
def execNei (f : Fld) (s : State) : Host.Outcome State Fault Refusal := cmpImmOp (fun x n => x != n) (imm4S f) f s

/-- LTI (R134). -/
def execLti (f : Fld) (s : State) : Host.Outcome State Fault Refusal := cmpImmOp (fun x n => decide (x.toInt < n.toInt)) (imm4S f) f s

/-- GEI (R134). -/
def execGei (f : Fld) (s : State) : Host.Outcome State Fault Refusal := cmpImmOp (fun x n => decide (n.toInt ≤ x.toInt)) (imm4S f) f s

/-- LTUI (R134). -/
def execLtui (f : Fld) (s : State) : Host.Outcome State Fault Refusal := cmpImmOp (fun x n => decide (x.toNat < n.toNat)) (immZ f) f s

/-- GEUI (R134). -/
def execGeui (f : Fld) (s : State) : Host.Outcome State Fault Refusal := cmpImmOp (fun x n => decide (n.toNat ≤ x.toNat)) (immZ f) f s

/-- PAND (R136). -/
def execPand (f : Fld) (s : State) : Host.Outcome State Fault Refusal := predOp (fun x y => x && y) f s

/-- POR (R136). -/
def execPor (f : Fld) (s : State) : Host.Outcome State Fault Refusal := predOp (fun x y => x || y) f s

/-- PXOR (R136). -/
def execPxor (f : Fld) (s : State) : Host.Outcome State Fault Refusal := predOp (fun x y => x != y) f s

/-- PNOT (R136). -/
def execPnot (f : Fld) (s : State) : Host.Outcome State Fault Refusal := predOp (fun _ y => !y) f s

/-- PMOV (R136). -/
def execPmov (f : Fld) (s : State) : Host.Outcome State Fault Refusal := predOp (fun _ y => y) f s

/-- PSET (R136). -/
def execPset (f : Fld) (s : State) : Host.Outcome State Fault Refusal := predOp (fun _ _ => true) f s

/-- PCLR (R136). -/
def execPclr (f : Fld) (s : State) : Host.Outcome State Fault Refusal := predOp (fun _ _ => false) f s

/-- PSEL (R136). -/
def execPsel (f : Fld) (s : State) : Host.Outcome State Fault Refusal :=
  issue (aluKind []) f s fun s => .ok (s.setP f.a.toNat (if s.P 1 then s.P f.a.toNat else s.P f.b.toNat)).advance

/-- PRDW (R136): bit 0 of PW always reads 1. -/
def execPrdw (f : Fld) (s : State) : Host.Outcome State Fault Refusal := 
  issue (aluKind [f.a]) f s fun s => .ok (s.setW f.a ((s.t.pw ||| 1).setWidth 64)).advance

/-- PWRW (R136): p1 to p7 are written. -/
def execPwrw (f : Fld) (s : State) : Host.Outcome State Fault Refusal := 
  issue (aluKind [f.b]) f s fun s => .ok (s.setT { s.t with pw := (s.W f.b).setWidth 8 ||| 1 }).advance

/-- CMOV (R137): c is d[2:0], the sense s is d[3]. -/
def execCmov (f : Fld) (s : State) : Host.Outcome State Fault Refusal := 
  issue (aluKind [f.a, f.b]) f s fun s =>
    .ok (if s.P (f.d.toNat % 8) = !f.d.getLsbD 3 then s.setW f.a (s.W f.b) else s).advance

end Sys2Proof.Machine
end

