-- ==== Sys2Proof/Machine/Flags.lean ====
section
/-! DEFINITION. The exception flags of FPCSR (R118, R160): collecting them and ORing them in. -/

namespace Sys2Proof.Machine

/-- The flags of FPCSR. -/
structure Fl where
  nv : Bool := false
  dz : Bool := false
  ovf : Bool := false
  uf : Bool := false
  nx : Bool := false
deriving DecidableEq, Repr

/-- Flags of both. -/
def Fl.or (a b : Fl) : Fl :=
  { nv := a.nv || b.nv, dz := a.dz || b.dz, ovf := a.ovf || b.ovf, uf := a.uf || b.uf, nx := a.nx || b.nx }

/-- The flags at their places in FPCSR: NX 8, UF 7, OF 6, DZ 5, NV 4 (R118). -/
def Fl.word (a : Fl) : Word :=
  BitVec.ofNat 64 (b2n a.nv * 16 + b2n a.dz * 32 + b2n a.ovf * 64 + b2n a.uf * 128 + b2n a.nx * 256)

/-- The flags that all lanes raise together (R164). -/
def Fl.all (l : List Fl) : Fl := l.foldl Fl.or {}

/-- FPCSR.RM of a thread (R118). -/
def Thread.rm (t : Thread) : Nat := t.sys.fpcsr.toNat % 4

/-- ORs flags into FPCSR; a flag, once set, stays set until a WRSR clears it (R118, R164). -/
def Thread.orFlags (t : Thread) (a : Fl) : Thread := { t with sys := { t.sys with fpcsr := t.sys.fpcsr ||| a.word } }

/-- WSTAT (R110). -/
def Thread.wstat (t : Thread) : Word :=
  BitVec.ofNat 64 (t.win.n + (t.win.units.map (·.k)).foldl (· + ·) 0 * 2 ^ 8 + t.win.units.length * 2 ^ 16 +
    t.win.nspill * 2 ^ 32)

end Sys2Proof.Machine
end

