-- ==== Sys2Proof/Machine/Seq.lean ====
section
/-! DEFINITION. Instruction fetch (R73 to R77) and the sequencer's queue (R173 to R176, R201, R202, R407): dispatch, what the head
of a vector stream waits for, and the waits of the scalar stream on it. -/

namespace Sys2Proof.Machine

/-! ## Fetch -/

/-- The checks of a fetch (R77): code lies in global memory, or in the handler's own area (R409), and needs X. -/
def State.fetchAccess (s : State) (c : Nat) (va : Word) : Except AccErr Loc :=
  let v := va.toNat
  if v < 2 ^ 56 ∧ (isAlias v = true ∨ (isMesh v = true ∧ !isSteward c)) then .error .prot
  else s.access (s.who c) va 2 1 { x := true }

/-- The words from a location to the end of its fetch block: n halfwords. -/
def State.halfs (s : State) (l : Loc) (n : Nat) : List Half :=
  (List.range n).map fun i => BitVec.ofNat 16 (s.readAt (l.add (2 * i)) 2)

/-- Halfwords from an address to the end of its fetch block (R73). -/
def blockLeft (pc : Word) : Nat := (64 - pc.toNat % 64) / 2

/-- The words of the chain at an address, up to the end of its block (R76), which the front end holds. -/
def State.fetchWords (s : State) (c : Nat) (pc : Word) : Except AccErr (List Half) :=
  match s.fetchAccess c pc with
  | .ok l => .ok (s.halfs l (blockLeft pc))
  | .error e => .error e

/-- TVAL of an ILLOP (R88); `m` is a member number of a VLOOP body. -/
def illVal (sub : Nat) (w : Half) (pos m : Nat) : Word :=
  BitVec.ofNat 64 (w.toNat + pos % 8 * 2 ^ 16 + sub * 2 ^ 20 + m * 2 ^ 24)

/-- The trap ILLOP. -/
def illop (sub : Nat) (w : Half) (pos m : Nat) : Stop := .trap cILLOP 0 0 0 (illVal sub w pos m)

/-- The base word of the instruction in execution. -/
def Ir.base (i : Ir) : Half := i.words.getLastD 0
/-- ILLOP subcode 6 at the base word of the instruction in execution, as an instruction's own check. -/
def State.ill6 (s : State) : Stop := illop 6 s.ir.base (s.ir.words.length - 1) 0

/-! ## Entries -/

/-- Major and fn of an entry's base word. -/
def SeqEnt.maj (e : SeqEnt) : Nat := e.base.toNat / 4096
/-- fn of an entry's base word. -/
def SeqEnt.fn (e : SeqEnt) : Nat := e.base.toNat / 256 % 16

/-- What an entry still wants of a queue register at issue (R199 to R202, R195): the queue, whether it pushes, how many
entries. A VMEM that has popped keeps its address (R184). -/
def SeqEnt.queueNeed (e : SeqEnt) : Option (Nat × Bool × Nat) :=
  if e.page = 1 then
    match e.maj with
    | 6 => if e.f.ext.toNat / 4 = 14 ∨ e.f.b.toNat = 14 then some (0, false, 1) else none
    | 8 =>
      match e.fn with
      | 0 => some (e.f.b.toNat, false, 1)
      | 3 => some (e.f.b.toNat, false, 2)
      | _ => some (e.f.a.toNat, true, 1)
    | 9 => if e.vals.isEmpty then some (if e.fn = 1 ∨ e.fn = 3 then 1 else 0, false, 1) else none
    | 10 => if e.f.imm = 0 ∧ e.vals.isEmpty then some (0, false, 1) else none
    | _ => none
  else none

/-- Irrevocable entries (R186): those that use a queue register, every VMEM form, and every page-5 instruction that starts a
job (R328). -/
def SeqEnt.irrev (e : SeqEnt) : Bool := e.queueNeed.isSome || (e.page == 1 && e.maj == 9) || e.page == 5

/-- A queue register's entries, oldest first (R112). -/
def Thread.queue (t : Thread) (q : Nat) : List Word := mget [] t.q q
/-- Sets a queue register. -/
def Thread.setQueue (t : Thread) (q : Nat) (l : List Word) : Thread := { t with q := mset t.q q l }

/-- Can the queue serve the need now: so many entries to pop, or room in its 8 entries (R112)? -/
def Thread.queueOk (t : Thread) : Option (Nat × Bool × Nat) → Bool
  | none => true
  | some (q, push, n) => if push then decide ((t.queue q).length < 8) else decide (n ≤ (t.queue q).length)

/-- The entries of a queue that the vector stream may pop in a cycle: one that the scalar stream pushed in it comes later (R113). -/
def Thread.poppable (t : Thread) (now q : Nat) : Nat :=
  (t.queue q).length - if t.vec.fed = some (q, now) then 1 else 0

/-- Can the queue serve the vector stream's need in a cycle? -/
def Thread.vecQueueOk (t : Thread) (now : Nat) : Option (Nat × Bool × Nat) → Bool
  | some (q, false, n) => decide (n ≤ t.poppable now q)
  | x => t.queueOk x

/-- The entry at the head of a vector stream: the next member of a VLOOP in progress, or the first entry. A VLOOP with no iteration
left waits for its members to be dispatched. -/
def Vec.head (v : Vec) : Option SeqEnt :=
  match v.loop with
  | some l => if l.left = 0 then none else v.seq[1 + l.next]?
  | none => v.seq.head?

/-- Whether the vector stream is blocked on a queue register, and how (R14, R176). -/
def State.vecBlocked (s : State) (c : Nat) : Option (Nat × Bool) :=
  let t := s.thread c
  match t.vec.head with
  | some e =>
    if t.vec.halted || !e.guard then none
    else if t.queueOk e.queueNeed || s.speculative c then none
    else e.queueNeed.map fun n => (n.1, n.2.1)
  | none => none

/-- TVAL of a QDEAD (R114). -/
def qdeadVal (sq : Nat) (sp : Bool) (vq : Nat) (vp : Bool) : Word :=
  BitVec.ofNat 64 (sq + b2n sp * 4 + vq * 16 + b2n vp * 64)

/-- The scalar stream waits for the vector stream (R148, R175, R185): QDEAD where the vector stream is blocked on a queue. -/
def State.waitVec (s : State) : Res :=
  match s.vecBlocked s.cur with
  | some (q, p) => .stop (.trap cQDEAD 0 0 0 (qdeadVal q (!p) q p)) none
  | none => .stop .wait none

/-- Issued vector operations that have not completed in a cycle (R173, R177). -/
def Vec.under (v : Vec) (now : Nat) : Nat := (v.busy.filter fun n => decide (now < n.1)).length + v.mem.length
/-- Has an operation of a VLOOP's members, which issued, not completed? -/
def Vec.memberUnder (v : Vec) (now id : Nat) : Bool :=
  v.busy.any (fun n => decide (now < n.1) && n.2 == some id) || v.mem.any fun x => x.loop == some id
/-- Entries of the sequencer queue that are taken (R173): those that wait, a VLOOP in progress and its members, those whose operation has
not completed, and those of a finished VLOOP until its last operations have. -/
def State.entriesUsed (s : State) : Nat :=
  let v := s.t.vec
  v.seq.length + (v.busy.filter fun n => decide (s.gtime < n.1) && n.2.isNone).length + (v.mem.filter fun x => x.loop.isNone).length +
    ((v.tails.filter fun p => v.memberUnder s.gtime p.1).map fun p => p.2).foldl (· + ·) 0
/-- Does the stream hold a vector access that passes a test and is not performed: one that waits, or one under way? -/
def Vec.accessLeft (v : Vec) (p : SeqEnt → Bool) : Bool :=
  (v.seq.any fun e => e.page == 1 && e.maj == 9 && p e) || v.mem.any fun x => p x.e

/-- Waits until every page-1 instruction that the thread dispatched has completed (R148). -/
def State.afterVec (s : State) (k : State → Res) : Res :=
  if s.t.vec.seq.any (·.page == 1) || s.t.vec.under s.gtime != 0 then s.waitVec else k s

/-- Notes a dispatch in the core's coprocessor ring (R407). -/
def State.ringAdd (s : State) (c : Nat) (e : RingEnt) : State :=
  let k := s.core (coreId c)
  s.setCore (coreId c) { k with cring := (e :: k.cring).take 64 }

/-- Sets the status, the subcode and the snapshots of the newest ring entry of a sequence number. -/
def ringSet (c : Nat) (n : BitVec 12) (f : RingEnt → RingEnt) : List RingEnt → List RingEnt
  | [] => []
  | e :: es => if e.ctx = c % 4 ∧ e.seqno = n then f e :: es else e :: ringSet c n f es

/-- Changes the ring entry of a dispatched instruction. -/
def State.ringUpd (s : State) (c : Nat) (n : BitVec 12) (f : RingEnt → RingEnt) : State :=
  let k := s.core (coreId c)
  s.setCore (coreId c) { k with cring := ringSet c n f k.cring }

/-- A VLOOP with no iteration to run is released with its members once they are all dispatched (R202). -/
def Vec.released (v : Vec) : Vec :=
  match v.loop with
  | some l => if l.left = 0 ∧ v.bodyLeft = 0 then { v with seq := v.seq.drop (1 + l.len), loop := none } else v
  | none => v

/-- Dispatches an entry (R173, R174, R407): it takes the next sequence number when its guard is true. -/
def State.enqueue (s : State) (page id : Nat) (f : Fld) (g member : Bool) (vals : List Word) : State :=
  let c := s.cur
  let t := s.t
  let e : SeqEnt := { page := page, id := id, f := f, base := s.ir.base, seqno := t.vec.dseq, pc := t.pc, guard := g,
                      member := member, vals := vals, rm := t.rm }
  let v := { t.vec with seq := t.vec.seq ++ [e], dseq := if g then t.vec.dseq + 1 else t.vec.dseq,
                        bodyLeft := if member then t.vec.bodyLeft - 1 else t.vec.bodyLeft }
  let s1 := s.setT { t with vec := v.released }
  if g then
    s1.ringAdd c { pc := t.pc, ctx := c % 4, page := page, maj := e.maj, seqno := e.seqno, status := 0, sub := 0, base := e.base,
                   snap0 := if page = 5 then vals.getD 0 0 else 0, snap1 := if page = 5 then vals.getD 1 0 else 0 }
  else s1

/-- The dispatch of a page-1 instruction that is not a VLOOP (R173, R175): one free entry, or a place in the VLOOP body that
is being dispatched. Entries reserved for a body in dispatch are not free. -/
def dispatchVec (id : Nat) (f : Fld) (s : State) : Host.Outcome State Fault Refusal :=
  let g := s.P f.g.toNat
  let member := decide (0 < s.t.vec.bodyLeft)
  if g || !member then
    issue {} f s fun s =>
      if member then .ok (s.enqueue 1 id f g true []).advance
      else if 16 ≤ s.entriesUsed then s.waitVec
      else .ok (s.enqueue 1 id f g false []).advance
  else
    finish s (match holdStop s.t {} g with
      | some e => .stop e none
      | none => if s.speculative s.cur && !s.t.spec.spen then .stop .wait none else .ok (s.enqueue 1 id f g true []).advance)

end Sys2Proof.Machine
end

