-- ==== Sys2Proof/Machine/Control.lean ====
section
/-! DEFINITION. Branches, calls, returns and the CTL group (R138 to R149), with the window events of R103 and the refill of
R106. -/

namespace Sys2Proof.Machine

/-- How BR, BRN, NOP, LPC, GTIME and TID issue: they may stand in a hold (R231). -/
def freeKind (names : List (BitVec 6)) : Kind := { inHold := true, names := names }

/-- A block-relative address: the block of the base word plus so many blocks (R74, R138, R139, R146). -/
def State.blockRel (s : State) (off : Word) : Word := s.baseBlock + off * 64

/-- BR (R138): field a names the predicate. -/
def execBr (f : Fld) (s : State) : Host.Outcome State Fault Refusal :=
  issue (freeKind []) f s fun s =>
    .ok (if s.P f.a.toNat then s.jump (s.blockRel (immS f (9 + 10 * f.k))) else s.advance)

/-- BRN (R138). -/
def execBrn (f : Fld) (s : State) : Host.Outcome State Fault Refusal :=
  issue (freeKind []) f s fun s =>
    .ok (if s.P f.a.toNat then s.advance else s.jump (s.blockRel (immS f (9 + 10 * f.k))))

/-- The window that a call with advance k leaves, before spilling (R103). -/
def Win.call (w : Win) (k : Nat) (ret : Word) : Win :=
  let nc := max w.n k
  { w with fb := (w.fb + k) % 2 ^ 64, n := nc - k, units := { ret := ret, k := k, nc := nc } :: w.units }

/-- The CALL event with its spill, and the transfer to `target` (R75, R103, R139). -/
def State.callTo (s : State) (k : Nat) (target : Word) : Res :=
  let w := s.t.win
  (s.settle (w.call k (s.baseBlock + 64)) (w.fb + w.n) (max w.n k - w.n)).bind fun s => .ok (s.jump target)

/-- CALL (R139): the count k stands in field a. -/
def execCall (f : Fld) (s : State) : Host.Outcome State Fault Refusal :=
  issue {} f s fun s => s.callTo f.a.toNat (s.blockRel (immS f (8 + 10 * f.k)))

/-- The checks of a JMPR or CALLR target (R140). -/
def State.checkEntry (s : State) (t : Word) (k : State → Res) : Res :=
  if t.toNat % 64 ≠ 0 then .stop (.trap cBADENTRY 0 0 0 t) none
  else match s.fetchAccess s.cur t with
    | .error e => .stop (e.stop 2 t) none
    | .ok l =>
      if !s.dramReady l 2 then .stop .wait none
      else if s.readAt l 2 / 256 ≠ 0xE8 then .stop (.trap cBADENTRY 0 0 0 t) none
      else k s

/-- JMPR (R141). -/
def execJmpr (f : Fld) (s : State) : Host.Outcome State Fault Refusal :=
  issue { names := [f.a] } f s fun s => s.checkEntry (s.W f.a) fun s' => .ok (s'.jump (s.W f.a))

/-- CALLR (R142): the count k stands in field b. -/
def execCallr (f : Fld) (s : State) : Host.Outcome State Fault Refusal :=
  issue { names := [f.a] } f s fun s => s.checkEntry (s.W f.a) fun s' => s'.callTo f.b.toNat (s.W f.a)

/-- The window that a return through unit u leaves, and the registers that enter the frame beyond the callee's, as first
logical index and count (R103). The unit's registers are in the ring. -/
def Win.ret (w : Win) (u : Link) (rest : List Link) : Win × Nat × Nat :=
  let n := max u.nc (u.k + 4)
  ({ w with fb := (w.fb + (2 ^ 64 - u.k % 2 ^ 64)) % 2 ^ 64, n := n, units := rest }, w.fb + w.n, n - (u.k + w.n))

/-- Returns through a unit: ALIGN on its address (R74), then the RET event (R103). -/
def State.retTo (s : State) (w : Win) (u : Link) (rest : List Link) : Res :=
  if u.ret.toNat % 64 ≠ 0 then .stop (.trap cALIGN 5 0 0 u.ret) none
  else
    let r := w.ret u rest
    (s.settle r.1 r.2.1 r.2.2).bind fun s => .ok (s.jump u.ret)

/-- A plain 64-bit load of a refill (R106, R107). -/
def State.refillLoad (s : State) (va : Word) : Got Nat :=
  match s.check va 8 { r := true } 4 with
  | .error e => .stop e none
  | .ok l => s.loadNow s.cur va l 8 0 4

/-- Loads the k registers of a refilled unit into a ring, from logical index `l` on. -/
def State.refillRegs (s : State) (va : Word) (l : Nat) (ring : SMap Word) : Nat → Got (SMap Word)
  | 0 => .ok s ring
  | n + 1 => (s.refillLoad va).bind fun s1 v =>
    State.refillRegs s1 (va + 8) (l + 1) (mset ring (l % 64) (BitVec.ofNat 64 v)) n

/-- Does a link record break R105 (R106)? -/
def badLink (linkw : Nat) : Bool := decide (2 ^ 11 ≤ linkw) || linkw % 16 == 0 || decide (64 < linkw / 16)

/-- A RET whose newest unit is spilled (R106). -/
def State.refill (s : State) : Res :=
  let w := s.t.win
  let rec0 := w.rbsp - 16
  (s.refillLoad rec0).res fun s1 ret =>
  (s1.refillLoad (w.rbsp - 8)).res fun s2 lw =>
    if badLink lw then .stop (.trap cSPILL 4 0 0 (BitVec.ofNat 64 (2 * 2 ^ 56 + rec0.toNat % 2 ^ 56))) none
    else
      let k := lw % 16
      let base := rec0 - BitVec.ofNat 64 (8 * k)
      (s2.refillRegs base (w.fb + (2 ^ 64 - k)) w.ring k).res fun s3 ring =>
        let w1 := { w with ring := ring, nspill := w.nspill - 1, rbsp := base }
        s3.retTo w1 { ret := BitVec.ofNat 64 ret, k := k, nc := lw / 16 } []

/-- RET from the entry frame (R126, R143, R185, R328): irrevocable, after the thread's vector work and matrix jobs; the thread is
DONE. -/
def State.endThread (s : State) : Res :=
  if s.speculative s.cur then .stop .wait none
  else s.afterVec fun s =>
    if s.t.vec.seq.any (·.page == 5) then s.waitVec
    else if 0 < s.t.jobs then .stop .wait none
    else .ok (s.setT { s.t with st := .done })

/-- RET (R143). -/
def execRet (f : Fld) (s : State) : Host.Outcome State Fault Refusal :=
  issue {} f s fun s =>
    match s.t.win.units with
    | u :: us => s.retTo s.t.win u us
    | [] => if s.t.win.nspill = 0 then s.endThread else s.refill

/-- NOP (R145). -/
def execNop (f : Fld) (s : State) : Host.Outcome State Fault Refusal :=
  issue (freeKind []) f s fun s => .ok s.advance

/-- YIELD (R145): the next instruction is not eligible before cycle c + 4. -/
def execYield (f : Fld) (s : State) : Host.Outcome State Fault Refusal :=
  issue {} f s fun s => .ok (s.setT { s.t with notBefore := s.gtime + 4 }).advance

/-- ENTRY (R145): the size is a[3:0] << 4 | b[3:0]. -/
def execEntry (f : Fld) (s : State) : Host.Outcome State Fault Refusal :=
  issue {} f s fun s => (s.resize (f.a.toNat * 16 + f.b.toNat)).bind fun s => .ok s.advance

/-- LPC (R146). -/
def execLpc (f : Fld) (s : State) : Host.Outcome State Fault Refusal :=
  issue (freeKind [f.a]) f s fun s => .ok (s.setW f.a (s.blockRel (immS f (4 + 10 * f.k)))).advance

/-- GTIME (R149). -/
def execGtime (f : Fld) (s : State) : Host.Outcome State Fault Refusal :=
  issue (freeKind [f.a]) f s fun s => .ok (s.setW f.a (BitVec.ofNat 64 s.gtime)).advance

/-- TID (R149). -/
def execTid (f : Fld) (s : State) : Host.Outcome State Fault Refusal :=
  issue (freeKind [f.a]) f s fun s => .ok (s.setW f.a (BitVec.ofNat 64 s.t.tid)).advance

/-- The scalar stream blocks on a queue register: QDEAD where the vector stream is blocked too, else QWAIT (R13, R114). -/
def State.blockOn (s : State) (q : Nat) (push : Bool) : Res :=
  match s.vecBlocked s.cur with
  | some (vq, vp) => .stop (.trap cQDEAD 0 0 0 (qdeadVal q push vq vp)) none
  | none => .stop .wait (some (s.setT { s.t with st := .qwait, qblk := some (q, push) }))

/-- QPUT (R147); the vector stream can pop the entry from the next cycle on (R113). -/
def execQput (f : Fld) (s : State) : Host.Outcome State Fault Refusal :=
  issue { irrev := true, names := [f.b] } f s fun s =>
    let q := f.a.toNat
    if 8 ≤ (s.t.queue q).length then s.blockOn q true
    else
      let t := s.t.setQueue q (s.t.queue q ++ [s.W f.b])
      .ok (s.setT { t with vec := { t.vec with fed := some (q, s.gtime) } }).advance

/-- QGET (R147). -/
def execQget (f : Fld) (s : State) : Host.Outcome State Fault Refusal :=
  issue { irrev := true, names := [f.a] } f s fun s =>
    let q := f.b.toNat
    match s.t.queue q with
    | [] => s.blockOn q false
    | v :: vs => .ok ((s.setT (s.t.setQueue q vs)).setW f.a v).advance

/-- VWAIT (R148). -/
def execVwait (f : Fld) (s : State) : Host.Outcome State Fault Refusal :=
  issue {} f s fun s => s.afterVec fun s => .ok s.advance

end Sys2Proof.Machine
end

