-- ==== Sys2Proof/Machine/Crypt.lean ====
section
/-! DEFINITION. AES-256 and GCM as FIPS 197 and NIST SP 800-38D define them (R281). Bytes are in the order of the standards. -/

namespace Sys2Proof.Machine

/-- Exclusive or of two byte strings. -/
def xorBytes (a b : List Byte) : List Byte := List.zipWith (· ^^^ ·) a b

/-- Multiplication by x in the field of AES. -/
def xtime (b : Byte) : Byte := (b <<< 1) ^^^ (if b.getLsbD 7 then 0x1B else 0)

/-- Multiplication in the field of AES: n bits of the first factor are left. -/
def gfMulN : Nat → Byte → Byte → Byte
  | 0, _, _ => 0
  | n + 1, a, b => (if a.getLsbD 0 then b else 0) ^^^ gfMulN n (a >>> 1) (xtime b)
/-- Multiplication in the field of AES. -/
def gfMul (a b : Byte) : Byte := gfMulN 8 a b

/-- The inverse in the field of AES, a^254; 0 for 0. -/
def gfInv (a : Byte) : Byte :=
  let sq (x : Byte) : Byte := gfMul x x
  let a2 := sq a
  let a3 := gfMul a2 a
  let a12 := sq (sq a3)
  let a15 := gfMul a12 a3
  let a240 := sq (sq (sq (sq a15)))
  gfMul a240 (gfMul a12 a2)

/-- The S-box. -/
def aesSub (a : Byte) : Byte :=
  let x := gfInv a
  x ^^^ x.rotateLeft 1 ^^^ x.rotateLeft 2 ^^^ x.rotateLeft 3 ^^^ x.rotateLeft 4 ^^^ 0x63

/-- Rotates the rows of the state, which stands column by column. -/
def aesShiftRows (s : List Byte) : List Byte :=
  (List.range 16).map fun i => s.getD ((i / 4 + i % 4) % 4 * 4 + i % 4) 0

/-- One column times the fixed matrix. -/
def aesMixCol (c : List Byte) : List Byte :=
  (List.range 4).map fun i =>
    gfMul 2 (c.getD i 0) ^^^ gfMul 3 (c.getD ((i + 1) % 4) 0) ^^^ c.getD ((i + 2) % 4) 0 ^^^ c.getD ((i + 3) % 4) 0

/-- Every column times the fixed matrix. -/
def aesMix (s : List Byte) : List Byte :=
  ((List.range 4).map fun j => aesMixCol ((s.drop (4 * j)).take 4)).flatten

/-- The words of the key schedule, the latest first: n more of them, with index i and round constant r. -/
def aesExpand : Nat → Nat → Byte → List (List Byte) → List (List Byte)
  | 0, _, _, ws => ws
  | n + 1, i, r, ws =>
    let t := ws.headD []
    let t1 :=
      if i % 8 = 0 then xorBytes ((t.drop 1 ++ t.take 1).map aesSub) [r, 0, 0, 0]
      else if i % 8 = 4 then t.map aesSub
      else t
    aesExpand n (i + 1) (if i % 8 = 0 then xtime r else r) (xorBytes (ws.getD 7 []) t1 :: ws)

/-- The fifteen round keys of a 32-byte key. -/
def aesKeys (key : List Byte) : List (List Byte) :=
  let w0 := ((List.range 8).map fun i => (key.drop (4 * i)).take 4).reverse
  let ws := (aesExpand 52 8 1 w0).reverse
  (List.range 15).map fun r => ((ws.drop (4 * r)).take 4).flatten

/-- The rounds after the first key; the last one does not mix. -/
def aesRounds : List (List Byte) → List Byte → List Byte
  | [], s => s
  | [k], s => xorBytes (aesShiftRows (s.map aesSub)) k
  | k :: ks, s => aesRounds ks (xorBytes (aesMix (aesShiftRows (s.map aesSub))) k)

/-- AES-256 of one block under its round keys. -/
def aesBlock (ks : List (List Byte)) (b : List Byte) : List Byte := aesRounds (ks.drop 1) (xorBytes b (ks.headD []))

/-- A number's n bytes, the most significant first. -/
def beBytes (n v : Nat) : List Byte := (List.range n).map fun i => BitVec.ofNat 8 (v / 256 ^ (n - 1 - i))
/-- The number that bytes hold, the most significant first. -/
def beVal (b : List Byte) : Nat := b.foldl (fun a x => a * 256 + x.toNat) 0

/-- Multiplication in the field of GCM, from bit i of the first factor on; bit 0 is the most significant. -/
def ghMul : Nat → Nat → V128 → V128 → V128 → V128
  | 0, _, _, _, z => z
  | n + 1, i, x, v, z =>
    ghMul n (i + 1) x ((v >>> 1) ^^^ (if v.getLsbD 0 then 0xE1#128 <<< 120 else 0)) (if x.getLsbD (127 - i) then z ^^^ v else z)

/-- GHASH over blocks. -/
def ghash (h : V128) : List V128 → V128 → V128
  | [], y => y
  | x :: xs, y => ghash h xs (ghMul 128 0 (y ^^^ x) h 0)

/-- A byte string in blocks of 16 bytes, the last filled with zeros. -/
def gcmBlocks : Nat → List Byte → List V128
  | 0, _ => []
  | n + 1, b =>
    if b.isEmpty then []
    else BitVec.ofNat 128 (beVal ((b.take 16 ++ List.replicate 16 0).take 16)) :: gcmBlocks n (b.drop 16)

/-- The key stream from a counter block on: n blocks. -/
def gcmStream (ks : List (List Byte)) (iv : List Byte) : Nat → Nat → List Byte
  | 0, _ => []
  | n + 1, c => aesBlock ks (iv ++ beBytes 4 c) ++ gcmStream ks iv n (c + 1)

/-- Encryption, which is decryption too, of a text under a key and a 12-byte IV. -/
def gcmCrypt (key iv text : List Byte) : List Byte :=
  xorBytes text (gcmStream (aesKeys key) iv ((text.length + 15) / 16) 2)

/-- The 16-byte tag of a ciphertext, without additional data. -/
def gcmTag (key iv cipher : List Byte) : List Byte :=
  let ks := aesKeys key
  let h := BitVec.ofNat 128 (beVal (aesBlock ks (List.replicate 16 0)))
  let y := ghash h (gcmBlocks (cipher.length / 16 + 1) cipher ++ [BitVec.ofNat 128 (8 * cipher.length)]) 0
  xorBytes (beBytes 16 y.toNat) (aesBlock ks (iv ++ beBytes 4 1))

end Sys2Proof.Machine
end

