-- ==== Sys2Proof/Machine/Num.lean ====
section
/-! DEFINITION. Number formats and exact arithmetic (R151 to R172): values are exact dyadic numbers, and each result is rounded
once. -/

namespace Sys2Proof.Machine

/-! ## Formats -/

/-- A floating-point format (R153): exponent bits, fraction bits, and its kind: 0 with infinities and NaNs, 1 E4M3, 2 E2M1. -/
structure Fp where
  ew : Nat
  fw : Nat
  kind : Nat := 0
deriving DecidableEq, Repr

/-- F32. -/
def fpF32 : Fp := { ew := 8, fw := 23 }
/-- BF16. -/
def fpBF16 : Fp := { ew := 8, fw := 7 }
/-- F16. -/
def fpF16 : Fp := { ew := 5, fw := 10 }
/-- E5M2. -/
def fpE5M2 : Fp := { ew := 5, fw := 2 }
/-- E4M3. -/
def fpE4M3 : Fp := { ew := 4, fw := 3, kind := 1 }
/-- E2M1. -/
def fpE2M1 : Fp := { ew := 2, fw := 1, kind := 2 }

/-- The format of a float type code (R151). -/
def fpOf (ty : Nat) : Fp :=
  match ty with
  | 8 => fpF32
  | 9 => fpBF16
  | 10 => fpF16
  | 11 => fpE4M3
  | 12 => fpE5M2
  | _ => fpE2M1

/-- Float type codes: F32 to E2M1. -/
def isFp (ty : Nat) : Bool := decide (8 ≤ ty) && decide (ty ≤ 13)

/-- The exponent bias. -/
def Fp.bias (p : Fp) : Nat := 2 ^ (p.ew - 1) - 1
/-- The width in bits. -/
def Fp.width (p : Fp) : Nat := 1 + p.ew + p.fw
/-- The exponent of the smallest normal. -/
def Fp.emin (p : Fp) : Int := 1 - (p.bias : Int)

/-- A value: NaN, signalling or not; an infinity; or (-1)^neg * m * 2^e. -/
inductive Fv where
  | nan (sig : Bool)
  | inf (neg : Bool)
  | fin (neg : Bool) (m : Nat) (e : Int)
deriving DecidableEq, Repr

/-- The value of an encoding (R153, R154). -/
def Fp.decode (p : Fp) (b : Nat) : Fv :=
  let f := b % 2 ^ p.fw
  let ex := b / 2 ^ p.fw % 2 ^ p.ew
  let neg := nbit b (p.ew + p.fw)
  let top := 2 ^ p.ew - 1
  if p.kind = 0 ∧ ex = top then (if f = 0 then .inf neg else .nan (!nbit f (p.fw - 1)))
  else if p.kind = 1 ∧ ex = top ∧ f = 7 then .nan false
  else if ex = 0 then .fin neg f (p.emin - p.fw)
  else .fin neg (2 ^ p.fw + f) ((ex : Int) - p.bias - p.fw)

/-- The sign bit at its place. -/
def Fp.sign (p : Fp) (neg : Bool) : Nat := b2n neg * 2 ^ (p.ew + p.fw)
/-- The canonical NaN (R153). -/
def Fp.nan (p : Fp) : Nat :=
  match p.kind with
  | 0 => (2 ^ p.ew - 1) * 2 ^ p.fw + 2 ^ (p.fw - 1)
  | 1 => 0x7F
  | _ => 0
/-- An infinity; formats without one give their largest value. -/
def Fp.largest (p : Fp) (neg : Bool) : Nat :=
  p.sign neg + (match p.kind with
    | 0 => (2 ^ p.ew - 1) * 2 ^ p.fw - 1
    | 1 => 0x7E
    | _ => 7)
/-- An infinity. -/
def Fp.inf (p : Fp) (neg : Bool) : Nat := p.sign neg + (2 ^ p.ew - 1) * 2 ^ p.fw

/-! ## Rounding -/

/-- Rounds m / 2^sh, with `sticky` for a further nonzero part below, to an integer in a mode (R158): the integer and whether it
differs from the exact value. -/
def roundShift (mode : Nat) (neg : Bool) (m sh : Nat) (sticky : Bool) : Nat × Bool :=
  let k := m / 2 ^ sh
  let r := m % 2 ^ sh
  let inex := r != 0 || sticky
  let half := 2 ^ sh
  let up := match mode with
    | 0 => decide (half < 2 * r) || (2 * r == half && (sticky || k % 2 == 1))
    | 1 => false
    | 2 => neg && inex
    | _ => !neg && inex
  (if up then k + 1 else k, inex)

/-- Rounds an integer and a sticky part below it to multiples of 2^sh; a negative sh multiplies exactly. -/
def roundTo (mode : Nat) (neg : Bool) (m : Nat) (sh : Int) (sticky : Bool) : Nat × Bool :=
  if 0 ≤ sh then roundShift mode neg m sh.toNat sticky else (m * 2 ^ (-sh).toNat, sticky)

/-- The result of an overflow (R159); `conv` marks a conversion. -/
def Fp.overflow (p : Fp) (mode : Nat) (neg conv : Bool) : Nat :=
  if p.kind ≠ 0 ∨ (p.fw = 2 ∧ conv) then p.largest neg
  else
    let big := match mode with
      | 0 => true
      | 1 => false
      | 2 => neg
      | _ => !neg
    if big then p.inf neg else p.largest neg

/-- Rounds (-1)^neg * (m + sticky) * 2^e once to the format (R158 to R160, R163). -/
def Fp.round (p : Fp) (mode : Nat) (conv neg : Bool) (m : Nat) (e : Int) (sticky : Bool) : Nat × Fl :=
  if m = 0 ∧ !sticky then (p.sign neg, {})
  else
    let top : Int := (Nat.log2 m : Int) + e
    let q : Int := max (top - p.fw) (p.emin - p.fw)
    let r := roundTo mode neg m (q - e) sticky
    let k := if r.1 = 2 ^ (p.fw + 1) then 2 ^ p.fw else r.1
    let q' := if r.1 = 2 ^ (p.fw + 1) then q + 1 else q
    let field : Int := if k < 2 ^ p.fw then 0 else q' + p.fw + p.bias
    let max : Int := match p.kind with
      | 0 => 2 ^ p.ew - 2
      | _ => 2 ^ p.ew - 1
    let big := decide (max < field) || (p.kind == 1 && field == max && k == 15)
    if big then (p.overflow mode neg conv, { ovf := true, nx := true })
    else
      let u := roundTo mode neg m (top - p.fw - e) sticky
      let tiny := decide (top < p.emin) && !(u.1 == 2 ^ (p.fw + 1) && top + 1 == p.emin)
      (p.sign neg + (if k < 2 ^ p.fw then k else field.toNat * 2 ^ p.fw + (k - 2 ^ p.fw)),
        { uf := tiny && r.2, nx := r.2 })

/-- Delivers a value in the format: NaN canonical, an infinity, or a rounded finite value (R158 to R162). -/
def Fp.deliver (p : Fp) (mode : Nat) (conv : Bool) (v : Fv) : Nat × Fl :=
  match v with
  | .nan sig => (p.nan, { nv := sig || p.kind == 2 })
  | .inf neg => if p.kind = 0 then (p.inf neg, {}) else (p.largest neg, { nv := true })
  | .fin neg m e => p.round mode conv neg m e false

/-! ## Exact operations -/

/-- The signed numerator of a finite value at exponent e0, which is at most its own. -/
def scaled (neg : Bool) (m : Nat) (e e0 : Int) : Int :=
  let n : Int := (m * 2 ^ (e - e0).toNat : Nat)
  if neg then -n else n

/-- The exact product; 0 times an infinity is an invalid NaN. -/
def Fv.mul (x y : Fv) : Fv × Bool :=
  match x, y with
  | .nan a, .nan b => (.nan false, a || b)
  | .nan a, _ => (.nan false, a)
  | _, .nan b => (.nan false, b)
  | .inf a, .inf b => (.inf (a != b), false)
  | .inf a, .fin b m _ => if m = 0 then (.nan false, true) else (.inf (a != b), false)
  | .fin a m _, .inf b => if m = 0 then (.nan false, true) else (.inf (a != b), false)
  | .fin a m e, .fin b n g => (.fin (a != b) (m * n) (e + g), false)

/-- The negated value. -/
def Fv.neg : Fv → Fv
  | .nan s => .nan s
  | .inf a => .inf (!a)
  | .fin a m e => .fin (!a) m e

/-- The sign of a value; a NaN has none. -/
def Fv.isNeg : Fv → Bool
  | .nan _ => false
  | .inf a => a
  | .fin a _ _ => a
/-- Is it a NaN? -/
def Fv.isNan : Fv → Bool
  | .nan _ => true
  | _ => false
/-- Is it a signalling NaN? -/
def Fv.isSig : Fv → Bool
  | .nan s => s
  | _ => false
/-- Is it a zero? -/
def Fv.isZero : Fv → Bool
  | .fin _ 0 _ => true
  | _ => false

/-- The least exponent of finite terms. -/
def minExp : List Fv → Option Int
  | [] => none
  | .fin _ _ e :: ts => match minExp ts with | some g => some (min e g) | none => some e
  | _ :: ts => minExp ts

/-- The exact sum of terms, with whether it is invalid (R160, R163, R167). -/
def sumFv (mode : Nat) (ts : List Fv) : Fv × Bool :=
  if ts.any Fv.isNan then (.nan false, ts.any Fv.isSig)
  else
    let pinf := ts.any fun t => t == .inf false
    let ninf := ts.any fun t => t == .inf true
    if pinf && ninf then (.nan false, true)
    else if pinf then (.inf false, false)
    else if ninf then (.inf true, false)
    else
      let e0 := (minExp ts).getD 0
      let n := ts.foldl (fun a t => match t with | .fin s m e => a + scaled s m e e0 | _ => a) (0 : Int)
      if n = 0 then
        let neg := if ts.isEmpty then false else if ts.all Fv.isNeg then true
          else if ts.all (fun t => !t.isNeg) then false else mode == 2
        (.fin neg 0 e0, false)
      else (.fin (decide (n < 0)) n.natAbs e0, false)

/-- A sum rounded to a format. -/
def Fp.sum (p : Fp) (mode : Nat) (ts : List Fv) : Nat × Fl :=
  let r := sumFv mode ts
  let d := p.deliver mode false r.1
  (d.1, { d.2 with nv := d.2.nv || r.2 })

/-- x + y. -/
def Fp.add (p : Fp) (mode : Nat) (x y : Nat) : Nat × Fl := p.sum mode [p.decode x, p.decode y]
/-- x - y. -/
def Fp.sub (p : Fp) (mode : Nat) (x y : Nat) : Nat × Fl := p.sum mode [p.decode x, (p.decode y).neg]
/-- x * y. -/
def Fp.mul (p : Fp) (mode : Nat) (x y : Nat) : Nat × Fl :=
  let r := (p.decode x).mul (p.decode y)
  let d := p.deliver mode false r.1
  (d.1, { d.2 with nv := d.2.nv || r.2 })
/-- d + x * y, or d - x * y; 0 times an infinity is invalid whatever d holds (R191). -/
def Fp.fma (p : Fp) (mode : Nat) (minus : Bool) (d x y : Nat) : Nat × Fl :=
  let r := (p.decode x).mul (p.decode y)
  let s := p.sum mode [p.decode d, if minus then r.1.neg else r.1]
  (s.1, { s.2 with nv := s.2.nv || r.2 })
/-- (x + y) / 2 rounded once (R190). -/
def Fp.avg (p : Fp) (mode : Nat) (x y : Nat) : Nat × Fl :=
  let r := sumFv mode [p.decode x, p.decode y]
  let h := match r.1 with
    | .fin n m e => .fin n m (e - 1)
    | v => v
  let d := p.deliver mode false h
  (d.1, { d.2 with nv := d.2.nv || r.2 })

/-- Compares two values that are no NaN: negative, zero or positive; -0 equals +0. -/
def cmpFv (x y : Fv) : Int :=
  match x, y with
  | .inf a, .inf b => if a = b then 0 else if a then -1 else 1
  | .inf a, _ => if a then -1 else 1
  | _, .inf b => if b then 1 else -1
  | .fin a m e, .fin b n g =>
    let e0 := min e g
    let d := scaled a m e e0 - scaled b n g e0
    if d < 0 then -1 else if d = 0 then 0 else 1
  | _, _ => 0

/-- The lesser (`hi` false) or the greater of two floats: -0 below +0, the other operand of a single NaN (R161). -/
def Fp.minmax (p : Fp) (hi : Bool) (x y : Nat) : Nat × Fl :=
  let a := p.decode x
  let b := p.decode y
  let fl : Fl := { nv := a.isSig || b.isSig }
  if a.isNan && b.isNan then (p.nan, fl)
  else if a.isNan then (y, fl)
  else if b.isNan then (x, fl)
  else
    let c := cmpFv a b
    let xLess := if c = 0 then a.isNeg || !b.isNeg else decide (c < 0)
    (if xLess = hi then y else x, fl)

/-! ## Division, roots, powers (R169 to R172) -/

/-- The bits of an integer square root, from bit n - 1 down. -/
def isqrtFrom (v : Nat) : Nat → Nat → Nat
  | 0, r => r
  | n + 1, r => isqrtFrom v n (if (r + 2 ^ n) * (r + 2 ^ n) ≤ v then r + 2 ^ n else r)

/-- ⌊√v⌋ of a number below 2^(2n). -/
def isqrt (n v : Nat) : Nat := isqrtFrom v n 0

/-- A quotient of magnitudes with 80 bits and a sticky part: m, exponent, sticky. -/
def divMag (m : Nat) (e : Int) (n : Nat) (g : Int) : Nat × Int × Bool :=
  let k := 80 + Nat.log2 n
  let num := m * 2 ^ k
  (num / n, e - g - k, num % n != 0)

/-- A square root of a magnitude with a sticky part. -/
def sqrtMag (m : Nat) (e : Int) : Nat × Int × Bool :=
  let odd := e % 2 != 0
  let m1 := if odd then m * 2 else m
  let e1 := if odd then e - 1 else e
  let v := m1 * 2 ^ 160
  let r := isqrt 120 v
  (r, e1 / 2 - 80, r * r != v)

/-- x / y (R169). -/
def Fp.div (p : Fp) (mode : Nat) (x y : Nat) : Nat × Fl :=
  match p.decode x, p.decode y with
  | .nan a, .nan b => (p.nan, { nv := a || b })
  | .nan a, _ => (p.nan, { nv := a })
  | _, .nan b => (p.nan, { nv := b })
  | .inf _, .inf _ => (p.nan, { nv := true })
  | .inf a, .fin b _ _ => (p.inf (a != b), {})
  | .fin a _ _, .inf b => (p.sign (a != b), {})
  | .fin a m e, .fin b n g =>
    if n = 0 then (if m = 0 then (p.nan, { nv := true }) else (p.inf (a != b), { dz := true }))
    else
      let r := divMag m e n g
      p.round mode false (a != b) r.1 r.2.1 r.2.2

/-- √y (R169). -/
def Fp.sqrt (p : Fp) (mode : Nat) (y : Nat) : Nat × Fl :=
  match p.decode y with
  | .nan s => (p.nan, { nv := s })
  | .inf neg => if neg then (p.nan, { nv := true }) else (p.inf false, {})
  | .fin neg m e =>
    if m = 0 then (p.sign neg, {})
    else if neg then (p.nan, { nv := true })
    else
      let r := sqrtMag m e
      p.round mode false false r.1 r.2.1 r.2.2

/-- Fraction bits of the fixed-point evaluation of powers and logarithms (log entry 16). -/
def fixBits : Nat := 320

/-- ln 2 in fixed point: the sum of 1 / (k 2^k), the terms from k on. -/
def ln2From : Nat → Nat → Nat
  | 0, _ => 0
  | n + 1, k => 2 ^ fixBits / (k * 2 ^ k) + ln2From n (k + 1)

/-- The Taylor terms of e^t from term k on, `term` being t^k / k!. -/
def expFrom (t : Nat) : Nat → Nat → Nat → Nat
  | 0, _, _ => 0
  | n + 1, k, term => term + expFrom t n (k + 1) (term * t / 2 ^ fixBits / (k + 1))

/-- 2^f of a fixed-point f in [0, 1). -/
def exp2Frac (f : Nat) : Nat := expFrom (f * ln2From 330 1 / 2 ^ fixBits) 90 0 (2 ^ fixBits)

/-- 2^y (R169). -/
def Fp.exp2 (p : Fp) (mode : Nat) (y : Nat) : Nat × Fl :=
  match p.decode y with
  | .nan s => (p.nan, { nv := s })
  | .inf neg => if neg then (p.sign false, {}) else (p.inf false, {})
  | .fin neg m e =>
    -- the value in units of 2^-fixBits; beyond 2^12 every result overflows or rounds from far below the format
    let big := decide ((12 : Int) < (Nat.log2 m : Int) + e)
    if m = 0 then p.round mode false false 1 0 false
    else if big then p.round mode false false 1 (if neg then -4096 else 4096) true
    else
      let v := scaled neg (m * 2 ^ fixBits) e (-(fixBits : Int) - 160) / (2 ^ (fixBits + 160) : Nat)
      let n := v / (2 ^ fixBits : Nat)
      let f := (v % (2 ^ fixBits : Nat)).toNat
      if f = 0 then p.round mode false false 1 n false
      else p.round mode false false (exp2Frac f) (n - fixBits) true

/-- Binary digits of log2 of a fixed-point x in [1, 2), from the highest down. -/
def log2Digits : Nat → Nat → Nat → Nat
  | 0, _, acc => acc
  | n + 1, x, acc =>
    let y := x * x / 2 ^ fixBits
    if 2 * 2 ^ fixBits ≤ y then log2Digits n (y / 2) (2 * acc + 1) else log2Digits n y (2 * acc)

/-- log2 y (R169). -/
def Fp.log2 (p : Fp) (mode : Nat) (y : Nat) : Nat × Fl :=
  match p.decode y with
  | .nan s => (p.nan, { nv := s })
  | .inf neg => if neg then (p.nan, { nv := true }) else (p.inf false, {})
  | .fin neg m e =>
    if m = 0 then (p.inf true, { dz := true })
    else if neg then (p.nan, { nv := true })
    else
      let l := Nat.log2 m
      let n : Int := (l : Int) + e
      if m = 2 ^ l then p.round mode false (decide (n < 0)) n.natAbs 0 false
      else
        let d := log2Digits 128 (m * 2 ^ fixBits / 2 ^ l) 0
        let v : Int := n * (2 ^ 128 : Nat) + d
        if v < 0 then p.round mode false true (v.natAbs - 1) (-128) true
        else p.round mode false false v.toNat (-128) true

/-- The grid of an estimate: 14 fraction bits for F32 (R171). -/
def Fp.grid (p : Fp) : Fp := if p.fw = 23 then { p with fw := 14 } else p

/-- Rounds an estimate to its grid; a subnormal inexact estimate sets UF (R171). -/
def Fp.estimate (p : Fp) (neg : Bool) (r : Nat × Int × Bool) : Nat × Fl :=
  let g := p.grid
  let d := g.round 0 false neg r.1 r.2.1 r.2.2
  let sub := d.1 / 2 ^ g.fw % 2 ^ g.ew == 0
  (d.1 * 2 ^ (p.fw - g.fw), { d.2 with uf := sub && d.2.nx })

/-- Is an encoding subnormal? -/
def Fp.isSub (p : Fp) (b : Nat) : Bool := b / 2 ^ p.fw % 2 ^ p.ew == 0 && b % 2 ^ p.fw != 0

/-- VRCP (R171). -/
def Fp.rcp (p : Fp) (y : Nat) : Nat × Fl :=
  match p.decode y with
  | .nan s => (p.nan, { nv := s })
  | .inf neg => (p.sign neg, {})
  | .fin neg m e =>
    if m = 0 then (p.inf neg, { dz := true })
    else if p.isSub y then (p.inf neg, { ovf := true, nx := true })
    else p.estimate neg (divMag 1 0 m e)

/-- VRSQ (R171). -/
def Fp.rsq (p : Fp) (y : Nat) : Nat × Fl :=
  match p.decode y with
  | .nan s => (p.nan, { nv := s })
  | .inf neg => if neg then (p.nan, { nv := true }) else (p.sign false, {})
  | .fin neg m e =>
    if m = 0 then (p.inf neg, { dz := true })
    else if neg then (p.nan, { nv := true })
    else
      -- 1/√y = √(1/y): the reciprocal with 240 bits keeps the root's place between two values
      let odd := e % 2 != 0
      let m1 := if odd then m * 2 else m
      let e1 := if odd then e - 1 else e
      let num := 2 ^ 320 / m1
      let r := isqrt 162 num
      p.estimate false (r, -160 - e1 / 2, !(r * r == num && 2 ^ 320 % m1 == 0))

/-- The Newton steps VRCPR and VRSQR with operand x and estimate e (R172). -/
def Fp.newton (p : Fp) (mode : Nat) (root : Bool) (x e : Nat) : Nat × Fl :=
  match p.decode e with
  | .nan _ => (p.nan, {})
  | .inf _ => (e, {})
  | .fin en em ee =>
    if em = 0 then (e, {})
    else match p.decode x with
      | .nan s => (p.nan, { nv := s })
      | .inf _ => (p.nan, { nv := true })
      | .fin xn xm xe =>
        let prod := if root then Fv.fin (!xn) (xm * em * em) (xe + ee + ee) else Fv.fin (!(xn != en)) (xm * em) (xe + ee)
        match (sumFv mode [.fin false (if root then 3 else 2) 0, prod]).1 with
        | .fin dn dm de => p.round mode false (dn != en) (dm * em) (de + ee - if root then 1 else 0) false
        | _ => (p.nan, {})

/-- VFLOOR (2), VCEIL (3), VRNDN (0) and VTRUNC (1) of R170, as rounding modes to an integer. -/
def Fp.integral (p : Fp) (mode : Nat) (y : Nat) : Nat × Fl :=
  match p.decode y with
  | .nan s => (p.nan, { nv := s })
  | .inf _ => (y, {})
  | .fin neg m e =>
    if 0 ≤ e then (y, {})
    else ((p.round 0 false neg (roundShift mode neg m (-e).toNat false).1 0 false).1, {})

/-- VCLASS (R194). -/
def Fp.classMask (p : Fp) (y : Nat) : Nat :=
  match p.decode y with
  | .nan s => if s then 2 ^ 8 else 2 ^ 9
  | .inf neg => if neg then 1 else 2 ^ 7
  | .fin neg m _ =>
    if m = 0 then (if neg then 2 ^ 3 else 2 ^ 4)
    else if p.isSub y then (if neg then 2 ^ 2 else 2 ^ 5)
    else if neg then 2 else 2 ^ 6

/-! ## Integers and block fixed point -/

/-- Delivers an exact integer in w bits, signed or not: wraps or saturates (R152). -/
def deliverInt (signed sat : Bool) (w : Nat) (v : Int) : Nat :=
  if sat then
    let lo : Int := if signed then -(2 ^ (w - 1) : Int) else 0
    let hi : Int := if signed then 2 ^ (w - 1) - 1 else 2 ^ w - 1
    wrapN (if v < lo then lo else if hi < v then hi else v) w
  else wrapN v w

/-- The exact value of an integer lane. -/
def intVal (signed : Bool) (w v : Nat) : Int := if signed then sint v w else ((v % 2 ^ w : Nat) : Int)

/-- A QX value delivered in 32 bits; saturation sets OF and NX (R157). -/
def deliverQx (v : Int) : Nat × Fl :=
  let s := decide (v < -(2 ^ 31)) || decide ((2 : Int) ^ 31 - 1 < v)
  (deliverInt true true 32 v, { ovf := s, nx := s })

/-- Rounds v / 2^k to nearest, ties to even (R157). -/
def shiftRne (v : Int) (k : Nat) : Int :=
  let r := (roundShift 0 (decide (v < 0)) v.natAbs k false).1
  if v < 0 then -(r : Int) else r

/-- A float converted to QX with fraction length f (R157). -/
def toQx (mode f : Nat) (v : Fv) : Nat × Fl :=
  match v with
  | .nan _ => (0, { nv := true })
  | .inf neg => (deliverInt true true 32 (if neg then -(2 ^ 31) else 2 ^ 31), { nv := true })
  | .fin neg m e =>
    let r := roundTo mode neg m (-(e + f)) false
    let n : Int := if neg then -(r.1 : Int) else r.1
    let d := deliverQx n
    (d.1, { d.2 with nx := d.2.nx || r.2 })

/-- A float converted to an integer (R162). -/
def toInt (mode : Nat) (signed : Bool) (w : Nat) (v : Fv) : Nat × Fl :=
  match v with
  | .nan _ => (0, { nv := true })
  | .inf neg => (deliverInt signed true w (if neg then -(2 ^ 64) else 2 ^ 64), { nv := true })
  | .fin neg m e =>
    let r := roundTo mode neg m (-e) false
    let n : Int := if neg then -(r.1 : Int) else r.1
    let d := deliverInt signed true w n
    if intVal signed w d = n then (d, { nx := r.2 }) else (d, { nv := true })

/-! ## Lanes (R151) -/

/-- Bits of an element of a type code. -/
def tyBits (ty : Nat) : Nat := tyWidth ty
/-- Signed integer types. -/
def tySigned (ty : Nat) : Bool := decide (ty < 4)

/-- Lane i of width w. -/
def lane (w : Nat) (v : V128) (i : Nat) : Nat := v.toNat / 2 ^ (w * i) % 2 ^ w
/-- All lanes. -/
def lanes (w : Nat) (v : V128) : List Nat := (List.range (128 / w)).map (lane w v)
/-- Lanes packed from lane 0 on. -/
def packNat (w : Nat) : List Nat → Nat
  | [] => 0
  | x :: xs => x % 2 ^ w + 2 ^ w * packNat w xs
/-- A vector register of lanes. -/
def ofLanes (w : Nat) (l : List Nat) : V128 := BitVec.ofNat 128 (packNat w l)

end Sys2Proof.Machine
end

