-- ==== Sys2Proof/Machine/VecOps.lean ====
section
/-! DEFINITION. What page-1 operations compute on vector registers (R190 to R198): functions of the operands, the type and the
mode, with the flags they raise. -/

namespace Sys2Proof.Machine

/-- Flags of a list of lane results. -/
def laneFlags (l : List (Nat × Fl)) : Fl := Fl.all (l.map Prod.snd)
/-- Lane results packed, with their flags. -/
def packLanes (w : Nat) (l : List (Nat × Fl)) : V128 × Fl := (ofLanes w (l.map Prod.fst), laneFlags l)

/-- Lane by lane on two operands. -/
def map2 (ty : Nat) (op : Nat → Nat → Nat × Fl) (a b : V128) : V128 × Fl :=
  packLanes (tyBits ty) (List.zipWith op (lanes (tyBits ty) a) (lanes (tyBits ty) b))

/-- An integer, QX or float operation on lanes: `i` on exact integers, `p` on floats (R190). -/
def arith (ty mode : Nat) (i : Int → Int → Int) (p : Fp → Nat → Nat → Nat × Fl) (a b : V128) : V128 × Fl :=
  if isFp ty then map2 ty (p (fpOf ty)) a b
  else if ty = 14 then map2 ty (fun x y => deliverQx (i (sint x 32) (sint y 32))) a b
  else
    let w := tyBits ty
    map2 ty (fun x y => (deliverInt (tySigned ty) (mode == 1) w (i (intVal (tySigned ty) w x) (intVal (tySigned ty) w y)), {})) a b

/-- VADD. -/
def vAdd (ty m : Nat) : V128 → V128 → V128 × Fl := arith ty m (fun x y => x + y) (fun p => p.add m)
/-- VSUB. -/
def vSub (ty m : Nat) : V128 → V128 → V128 × Fl := arith ty m (fun x y => x - y) (fun p => p.sub m)
/-- VMUL. -/
def vMul (ty m : Nat) : V128 → V128 → V128 × Fl := arith ty m (fun x y => x * y) (fun p => p.mul m)
/-- VMULH: the upper half of the exact product. -/
def vMulh (ty : Nat) : V128 → V128 → V128 × Fl :=
  arith ty 0 (fun x y => x * y / (2 ^ tyBits ty : Nat)) (fun _ x _ => (x, {}))
/-- VMIN. -/
def vMin (ty : Nat) : V128 → V128 → V128 × Fl := arith ty 0 (fun x y => min x y) (fun p => p.minmax false)
/-- VMAX. -/
def vMax (ty : Nat) : V128 → V128 → V128 × Fl := arith ty 0 (fun x y => max x y) (fun p => p.minmax true)
/-- VAND. -/
def vAnd (a b : V128) : V128 × Fl := (a &&& b, {})
/-- VOR. -/
def vOr (a b : V128) : V128 × Fl := (a ||| b, {})
/-- VXOR. -/
def vXor (a b : V128) : V128 × Fl := (a ^^^ b, {})
/-- VSHL by y mod w. -/
def vShl (ty m : Nat) : V128 → V128 → V128 × Fl :=
  let w := tyBits ty
  map2 ty fun x y => (deliverInt (tySigned ty) (m == 1) w (intVal (tySigned ty) w x * (2 ^ (y % w) : Nat)), {})
/-- VSHR by y mod w. -/
def vShr (ty : Nat) : V128 → V128 → V128 × Fl := map2 ty fun x y => (x / 2 ^ (y % tyBits ty), {})
/-- VSRA by y mod w. -/
def vSra (ty : Nat) : V128 → V128 → V128 × Fl :=
  let w := tyBits ty
  map2 ty fun x y => (wrapN (sint x w / (2 ^ (y % w) : Nat)) w, {})
/-- The magnitude or the negation of y as an exact integer; a saturated unsigned negation gives 0 (R190). -/
def vAbs (ty m : Nat) : V128 → V128 → V128 × Fl :=
  arith ty m (fun _ y => (y.natAbs : Int)) fun p _ y => (y % 2 ^ (p.ew + p.fw), {})
/-- VNEG: a float changes only its sign bit. -/
def vNeg (ty m : Nat) : V128 → V128 → V128 × Fl :=
  arith ty m (fun _ y => -y) fun p _ y => (if nbit y (p.ew + p.fw) then y - 2 ^ (p.ew + p.fw) else y + 2 ^ (p.ew + p.fw), {})
/-- VMOV. -/
def vMov (_a b : V128) : V128 × Fl := (b, {})
/-- VAVG. -/
def vAvg (ty m : Nat) : V128 → V128 → V128 × Fl := arith ty 0 (fun x y => (x + y + 1) / 2) fun p => p.avg m

/-- VFMA and VFMS, lane by lane, with the old d (R191). -/
def vFma (ty m : Nat) (minus : Bool) (d a b : V128) : V128 × Fl :=
  let w := tyBits ty
  let go (i : Nat) : Nat × Fl :=
    let x := lane w a i
    let y := lane w b i
    let z := lane w d i
    if isFp ty then (fpOf ty).fma m minus z x y
    else
      let sg := tySigned ty
      let p := intVal sg w x * intVal sg w y
      (deliverInt sg (m == 1) w (intVal sg w z + if minus then -p else p), {})
  packLanes w ((List.range (128 / w)).map go)

/-- The compares of R192. -/
inductive VCmp where
  | eq | ne | lt | ge | le | gt | unord | ord
deriving DecidableEq, Repr

/-- A compare's answer from the order of its operands, which are no NaN. -/
def VCmp.holds (c : VCmp) (o : Int) : Bool :=
  match c with
  | .eq => o == 0
  | .ne => o != 0
  | .lt => decide (o < 0)
  | .ge => decide (0 ≤ o)
  | .le => decide (o ≤ 0)
  | .gt => decide (0 < o)
  | .unord => false
  | .ord => true

/-- A compare with a NaN operand: VNE and VUNORD hold; the ordered compares are invalid (R192). -/
def VCmp.nan (c : VCmp) : Bool × Bool :=
  match c with
  | .ne | .unord => (true, false)
  | .eq | .ord => (false, false)
  | _ => (false, true)

/-- VEQ to VORD (R192). -/
def vCmp (c : VCmp) (ty : Nat) : V128 → V128 → V128 × Fl :=
  let w := tyBits ty
  map2 ty fun x y =>
    let r : Bool × Fl :=
      if isFp ty then
        let p := (fpOf ty).decode x
        let q := (fpOf ty).decode y
        let sig := p.isSig || q.isSig
        if p.isNan || q.isNan then (c.nan.1, { nv := sig || c.nan.2 }) else (c.holds (cmpFv p q), {})
      else
        let sg := tySigned ty || ty == 14
        (c.holds (intVal sg w x - intVal sg w y), {})
    (if r.1 then 2 ^ w - 1 else 0, r.2)

/-- VSEL (R193). -/
def vSel (d a b : V128) : V128 × Fl := ((a &&& d) ||| (b &&& ~~~d), {})

/-- A float operation on the lane of b, the old lane of a beside it (R194). -/
def spec (ty : Nat) (op : Fp → Nat → Nat → Nat × Fl) : V128 → V128 → V128 × Fl := map2 ty (op (fpOf ty))

/-- One element converted from type ts to type td (R157, R162, R195); `fl` is the QX fraction length. -/
def cvtOne (td ts mode rm fl v : Nat) : Nat × Fl :=
  if ts = 14 then (fpOf td).deliver mode true (let n := sint v 32; .fin (decide (n < 0)) n.natAbs (-(fl : Int)))
  else if isFp ts then
    let x := (fpOf ts).decode v
    if td = 14 then toQx mode fl x
    else if isFp td then (fpOf td).deliver mode true x
    else toInt rm (tySigned td) (tyBits td) x
  else
    let n := intVal (tySigned ts) (tyBits ts) v
    if isFp td then (fpOf td).deliver mode true (.fin (decide (n < 0)) n.natAbs 0)
    else (deliverInt (tySigned td) (mode == 1) (tyBits td) n, {})

/-- VCVT (R195): part p of a narrowing or widening. -/
def vCvt (td ts mode rm fl p : Nat) (a : V128) : V128 × Fl :=
  let ws := tyBits ts
  let wd := tyBits td
  let cv (v : Nat) : Nat × Fl := cvtOne td ts mode rm fl v
  if wd < ws then
    let n := 128 / ws
    packLanes wd ((List.range (128 / wd)).map fun j =>
      if p * n ≤ j ∧ j < p * n + n then cv (lane ws a (j - p * n)) else (lane wd a j, {}))
  else if ws < wd then
    let n := 128 / wd
    packLanes wd ((List.range n).map fun j => cv (lane ws a (p * n + j)))
  else packLanes wd ((lanes ws a).map cv)

/-- VSHUF (R196). -/
def vShuf (ty : Nat) (a b : V128) : V128 × Fl :=
  let w := tyBits ty
  (ofLanes w ((lanes w b).map fun y => if nbit y (w - 1) then 0 else lane w a (y % (128 / w))), {})
/-- VBCAST. -/
def vBcast (ty : Nat) (_a b : V128) : V128 × Fl :=
  let w := tyBits ty
  (ofLanes w ((List.range (128 / w)).map fun _ => lane w b 0), {})
/-- VZIPL and VZIPH: source lanes from `o` on. -/
def vZip (ty o : Nat) (a b : V128) : V128 × Fl :=
  let w := tyBits ty
  (ofLanes w ((List.range (128 / w)).map fun i => lane w (if i % 2 = 0 then a else b) (o + i / 2)), {})
/-- VUZPL and VUZPH: the even or the odd lanes. -/
def vUzp (ty odd : Nat) (a b : V128) : V128 × Fl :=
  let w := tyBits ty
  let h := 64 / w
  (ofLanes w ((List.range (128 / w)).map fun i => if i < h then lane w a (2 * i + odd) else lane w b (2 * (i - h) + odd)), {})

/-- A pairwise F32 tree (R165): `n` levels at most. -/
def sumTree (mode : Nat) : Nat → List Fv → Fl → Fv × Fl
  | 0, l, fl => (l.headD (.fin false 0 0), fl)
  | n + 1, l, fl =>
    let rec pairs : List Fv → List (Nat × Fl)
      | x :: y :: r => fpF32.sum mode [x, y] :: pairs r
      | [x] => [fpF32.deliver mode false x]
      | [] => []
    match l with
    | [x] => (x, fl)
    | _ =>
      let ps := pairs l
      sumTree mode n (ps.map fun q => fpF32.decode q.1) (fl.or (laneFlags ps))

/-- VRSUM (R165, R197). -/
def vRsum (ty mode : Nat) (b : V128) : V128 × Fl :=
  let w := tyBits ty
  let xs := lanes w b
  let r : Nat × Fl :=
    if isFp ty then
      let vs := xs.map (fpOf ty).decode
      let t := sumTree mode 6 vs {}
      let d := (fpOf ty).deliver mode true t.1
      (d.1, t.2.or d.2)
    else if ty = 14 then deliverQx (xs.foldl (fun a x => a + sint x 32) 0)
    else (deliverInt (tySigned ty) (mode == 1) w (xs.foldl (fun a x => a + intVal (tySigned ty) w x) 0), {})
  (ofLanes w [r.1], r.2)

/-- VRMIN and VRMAX (R161, R197). -/
def vRminmax (ty : Nat) (hi : Bool) (b : V128) : V128 × Fl :=
  let w := tyBits ty
  let xs := lanes w b
  let step (acc : Nat × Fl) (x : Nat) : Nat × Fl :=
    if isFp ty then let r := (fpOf ty).minmax hi acc.1 x; (r.1, acc.2.or r.2)
    else
      let sg := tySigned ty || ty == 14
      let less := decide (intVal sg w acc.1 < intVal sg w x)
      (if less = hi then x else acc.1, acc.2)
  let r := (xs.drop 1).foldl step (xs.headD 0, {})
  (ofLanes w [r.1], r.2)

/-- VDOT (R166, R198). -/
def vDot (ty mode : Nat) (a b : V128) : V128 × Fl :=
  let w := tyBits ty
  let g := 128 / w / 4
  let go (j : Nat) : Nat × Fl :=
    let ps := (List.range g).map fun i => (lane w a (g * j + i), lane w b (g * j + i))
    if isFp ty then
      let ts := ps.map fun p => ((fpOf ty).decode p.1).mul ((fpOf ty).decode p.2)
      let r := fpF32.sum mode (ts.map Prod.fst)
      (r.1, { r.2 with nv := r.2.nv || ts.any Prod.snd })
    else
      let sg := tySigned ty
      let n := ps.foldl (fun acc p => acc + intVal sg w p.1 * intVal sg w p.2) (0 : Int)
      (deliverInt sg (mode == 1) 32 n, {})
  packLanes 32 ((List.range 4).map go)

/-- The result and flags of the page-1 operation with a major and fn on the values of its operands (R190 to R198); `d` is the
old destination of a format C operation, `fl` a popped fraction length, `p` and `ts` the part and source type of a VCVT. -/
def vecCompute (maj fn ty m rm fl p ts : Nat) (d a b : V128) : V128 × Fl :=
  match maj with
  | 0 =>
    match fn with
    | 0 => vAdd ty m a b
    | 1 => vSub ty m a b
    | 2 => vMul ty m a b
    | 3 => vMulh ty a b
    | 4 => vMin ty a b
    | 5 => vMax ty a b
    | 6 => vAnd a b
    | 7 => vOr a b
    | 8 => vXor a b
    | 9 => vShl ty m a b
    | 10 => vShr ty a b
    | 11 => vSra ty a b
    | 12 => vAbs ty m a b
    | 13 => vNeg ty m a b
    | 14 => vMov a b
    | _ => vAvg ty m a b
  | 1 => vFma ty m false d a b
  | 2 => vFma ty m true d a b
  | 3 =>
    vCmp (match fn with | 0 => .eq | 1 => .ne | 2 => .lt | 3 => .ge | 4 => .le | 5 => .gt | 6 => .unord | _ => .ord) ty a b
  | 4 => vSel d a b
  | 5 =>
    match fn with
    | 0 => spec ty (fun q _ y => q.rcp y) a b
    | 1 => spec ty (fun q _ y => q.rsq y) a b
    | 2 => spec ty (fun q x y => q.newton m false y x) a b
    | 3 => spec ty (fun q x y => q.newton m true y x) a b
    | 4 => spec ty (fun q _ y => q.exp2 m y) a b
    | 5 => spec ty (fun q _ y => q.log2 m y) a b
    | 6 => spec ty (fun q _ y => q.sqrt m y) a b
    | 7 => spec ty (fun q x y => q.div m x y) a b
    | 8 => spec ty (fun q _ y => q.integral 2 y) a b
    | 9 => spec ty (fun q _ y => q.integral 3 y) a b
    | 10 => spec ty (fun q _ y => q.integral 0 y) a b
    | 11 => spec ty (fun q _ y => q.integral 1 y) a b
    | _ => spec ty (fun q _ y => (q.classMask y, {})) a b
  | 6 => vCvt ty ts m rm fl p a
  | _ =>
    match fn with
    | 0 => vShuf ty a b
    | 1 => vBcast ty a b
    | 2 => vZip ty 0 a b
    | 3 => vZip ty (64 / tyBits ty) a b
    | 4 => vUzp ty 0 a b
    | 5 => vUzp ty 1 a b
    | 6 => vRsum ty m b
    | 7 => vRminmax ty false b
    | 8 => vRminmax ty true b
    | _ => vDot ty m a b

end Sys2Proof.Machine
end

