-- ==== Sys2Proof/Machine/Vector.lean ====
section
/-! DEFINITION. Page 1: dispatch of its instructions (R173 to R175, R201, R202) and the issue of the vector stream's entries
(R176, R179 to R184, R190 to R202). -/

namespace Sys2Proof.Machine

/-! ## The vector stream's steps -/

/-- The head entry has issued: the next member of a VLOOP, its next iteration, or the next entry follows (R187). A VLOOP that has
issued its last member leaves with its members when their operations complete (R173). -/
def Vec.afterEntry (v : Vec) : Vec :=
  match v.loop with
  | none => { v with seq := v.seq.drop 1 }
  | some l =>
    let seq := v.seq.modify (1 + l.next) fun e => { e with vals := [] }
    if l.next + 1 < l.len then { v with seq := seq, loop := some { l with next := l.next + 1 } }
    else if 1 < l.left then { v with seq := seq, loop := some { l with next := 0, left := l.left - 1 } }
    else { v with seq := v.seq.drop (1 + l.len), loop := none,
                  tails := (l.id, 1 + l.len) :: v.tails.filter fun p => v.busy.any (fun n => n.2 == some p.1) || v.mem.any fun x => x.loop == some p.1 }

/-- A halted stream restarts; a VALIGN entry is discarded, and a VDRAMERR entry has left the queue already (R182, R184). -/
def Vec.restart (v : Vec) : Vec :=
  let v1 := { v with halted := false, raised := false, discard := false }
  if v.discard then v1.afterEntry else v1

/-- May a halted stream restart: its late fault has been raised, and the thread runs user code with no handler (R184)? -/
def Thread.mayRestart (t : Thread) : Bool :=
  t.vec.halted && t.vec.raised && t.mode == .user && !t.act && t.st != .frozen

/-- Restarts the vector stream when R184 lets it. -/
def Thread.restart (t : Thread) : Thread := if t.mayRestart then { t with vec := t.vec.restart } else t

/-- A context's vector stream restarts where it may. -/
def State.restartVec (s : State) (c : Nat) : State :=
  let t := s.thread c
  if t.mayRestart then s.setThread c t.restart else s

/-- Keeps values with the entry at the head, so that a VMEM does not pop again (R184). -/
def Vec.keepVals (v : Vec) (vals : List Word) : Vec :=
  { v with seq := v.seq.modify (match v.loop with | some l => 1 + l.next | none => 0) fun e => { e with vals := vals } }

/-- A late fault halts the stream (R182). The scalar issue of the same cycle does not depend on it (R16). -/
def Vec.halt (v : Vec) (now : Nat) (e : SeqEnt) (sub : Nat) (addr : Word) (store : Bool) : Vec :=
  { v with halted := true, raised := false, discard := sub == 2, lateFrom := now + 1,
           late := v.late ++ [{ sub := sub, seqno := e.seqno, addr := addr, store := store }] }

/-- Writes a vector register; a hold latch of it is stale (R179). -/
def Thread.writeV (t : Thread) (n : Nat) (x : V128) : Thread :=
  let t1 := t.setVr n x
  let stale (o : Option (Nat × V128)) : Option (Nat × V128) := o.filter fun p => p.1 != n
  { t1 with vec := { t1.vec with ha := stale t1.vec.ha, hb := stale t1.vec.hb } }

/-- Does the operation read field a as a vector register? -/
def readsA (maj fn : Nat) : Bool :=
  match maj with
  | 0 => !(fn == 12 || fn == 13 || fn == 14)
  | 5 => fn == 2 || fn == 3 || fn == 7
  | 7 => fn == 0 || fn == 2 || fn == 3 || fn == 4 || fn == 5 || fn == 9
  | 8 => false
  | 9 => fn == 2 || fn == 3
  | 10 => false
  | _ => true

/-- Does the operation read field b as a vector register? -/
def readsB (maj fn : Nat) : Bool :=
  match maj with
  | 6 | 9 | 10 => false
  | 8 => fn == 1 || fn == 2
  | _ => true

/-- The vector registers that an entry reads (R177, R178, R336). -/
def SeqEnt.reads (e : SeqEnt) : List Nat :=
  if e.page = 5 then
    (if e.maj = 1 ∧ e.f.ext.getLsbD 1 then [e.f.a.toNat, e.f.a.toNat + 1] else []) ++
      if (e.maj = 1 ∨ e.maj = 2) ∧ e.f.ext.getLsbD 0 then [e.f.b.toNat, e.f.b.toNat + 1] else []
  else
    (if e.maj = 1 ∨ e.maj = 2 ∨ e.maj = 4 then [e.f.d.toNat] else []) ++ (if readsA e.maj e.fn then [e.f.a.toNat] else []) ++
      if readsB e.maj e.fn then [e.f.b.toNat] else []

/-- The vector register that an entry writes. -/
def SeqEnt.dest (e : SeqEnt) : Option Nat :=
  if e.page = 5 then none
  else match e.maj with
    | 1 | 2 | 4 => some e.f.d.toNat
    | 8 => if e.fn = 0 ∨ e.fn = 3 then some e.f.a.toNat else none
    | 9 => if e.fn = 2 ∨ e.fn = 3 then none else some e.f.a.toNat
    | 10 => none
    | _ => some e.f.a.toNat

/-- Cycles from issue to the cycle in which the result is usable (R177). -/
def vecLat (maj fn ty : Nat) : Nat :=
  match maj with
  | 0 => if fn = 2 ∨ fn = 3 then 4 else if fn = 6 ∨ fn = 7 ∨ fn = 8 ∨ fn = 14 then 2 else if isFp ty then 3 else 2
  | 1 | 2 => 4
  | 5 =>
    match fn with
    | 0 | 1 => 4
    | 2 | 3 => 5
    | 4 | 5 => 10
    | 6 | 7 => if ty = 8 then 14 else 10
    | 12 => 2
    | _ => 3
  | 6 => 3
  | 7 => if fn = 6 ∨ fn = 7 ∨ fn = 8 then 6 else if fn = 9 then 5 else 2
  | 8 => if fn = 0 ∨ fn = 3 then 2 else 1
  | 9 => if fn = 2 ∨ fn = 3 then 1 else 4
  | 10 => 1
  | _ => 2

/-- Does an entry use the core's vector divide unit (R177)? -/
def SeqEnt.divides (e : SeqEnt) : Bool := e.page == 1 && e.maj == 5 && (e.fn == 6 || e.fn == 7)

/-- Is an operand taken from its hold latch: its hold bit is set, and the latch holds its register's value (R179)? -/
def heldIn (latch : Option (Nat × V128)) (hold : Bool) (n : Nat) : Bool := hold && (latch.map fun p => p.1) == some n

/-- The late third read of three sources in one bank, held operands left out (R178, R179). -/
def SeqEnt.bankLate (e : SeqEnt) (v : Vec) : Nat :=
  let (d, a, b) := (e.f.d.toNat, e.f.a.toNat, e.f.b.toNat)
  if (e.maj = 1 ∨ e.maj = 2 ∨ e.maj = 4) ∧ d % 6 = a % 6 ∧ a % 6 = b % 6 ∧ d ≠ a ∧ a ≠ b ∧ d ≠ b ∧
      heldIn v.ha (nbit e.f.h.toNat 0) a = false ∧ heldIn v.hb (nbit e.f.h.toNat 1) b = false then 1 else 0

/-- Are an entry's registers and its unit free in this cycle (R176, R177)? The destination of a load under way is not. A memory access
waits for the thread's buffered stores, which stand before it (R180). -/
def State.vecReady (s : State) (c : Nat) (e : SeqEnt) : Bool :=
  let v := (s.thread c).vec
  let free (n : Nat) : Bool :=
    (v.rdy.all fun p => p.1 != n || decide (p.2 ≤ s.gtime)) && v.mem.all fun x => x.store || x.e.dest != some n
  e.reads.all free && e.dest.all free && (!(e.page == 1 && e.maj == 9) || (s.thread c).spec.sb.isEmpty) && (!e.divides || decide ((s.core (coreId c)).vdivFree ≤ s.gtime))

/-- An entry has issued: its result, its completion and its unit (R177, R178). It comes before `Vec.afterEntry`, so that the VLOOP in
progress is still the entry's own. -/
def State.vecNote (s : State) (c : Nat) (e : SeqEnt) (latched : Vec) : State :=
  let t := s.thread c
  let ty := e.f.ext.toNat / 4
  let at_ := s.gtime + vecLat e.maj e.fn ty + e.bankLate latched
  let v := t.vec
  let live (p : Nat × Nat) : Bool := decide (s.gtime < p.2) && e.dest != some p.1
  let rdy := (e.dest.map fun n => (n, at_)).toList ++ v.rdy.filter live
  let push := e.maj == 8 && (e.fn == 1 || e.fn == 2)
  let s1 := s.setThread c { t with vec := { v with rdy := rdy, busy := (at_, v.loop.map (·.id)) :: v.busy.filter (fun n => decide (s.gtime < n.1)),
                                                   pushed := if push then some (e.f.a.toNat, s.gtime) else v.pushed } }
  if e.divides then
    let k := s1.core (coreId c)
    s1.setCore (coreId c) { k with vdivFree := s.gtime + if ty = 8 then 12 else 8 }
  else s1

/-- Fills the hold latches with the operands just read (R179). -/
def Thread.latch (t : Thread) (maj fn a b : Nat) : Thread :=
  { t with vec := { t.vec with ha := if readsA maj fn then some (a, t.vr a) else t.vec.ha,
                               hb := if readsB maj fn then some (b, t.vr b) else t.vec.hb } }

/-- Wakes a scalar stream whose queue can now serve it (R13, R113). -/
def Thread.wakeQ (t : Thread) : Thread :=
  match t.qblk with
  | some (q, push) => if t.queueOk (some (q, push, 1)) then { t with st := if t.st = .qwait then .run else t.st, qblk := none } else t
  | none => t

/-- Pops n entries of a queue register. -/
def Thread.popQ (t : Thread) (q n : Nat) : List Word × Thread := ((t.queue q).take n, t.setQueue q ((t.queue q).drop n))

/-- The bytes of a VMEM access and its least alignment (R200). -/
def SeqEnt.memSize (e : SeqEnt) : Nat := if e.fn = 4 then tyBits (e.f.ext.toNat / 4) / 8 else 16

/-- The subcode of a refused vector access (R182). -/
def AccErr.late : AccErr → Nat
  | .prot => 3
  | .align => 2
  | .bad _ => 4
  | _ => 1

/-- A late fault of an entry's access is recorded (R182, R407). -/
def State.vecFault (s : State) (c : Nat) (e : SeqEnt) (sub : Nat) (addr : Word) (store : Bool) : State :=
  let t := s.thread c
  (s.setThread c { t with vec := t.vec.halt s.gtime e sub addr store }).ringUpd c e.seqno fun r =>
    { r with status := 3, sub := sub, snap0 := addr }

/-- Goes on behind an entry that has issued: the ring entry is complete. -/
def State.vecLeave (s : State) (c : Nat) (e : SeqEnt) (snap0 snap1 : Option Word) : State :=
  let t := s.thread c
  (s.setThread c { t with vec := t.vec.afterEntry }).ringUpd c e.seqno fun r =>
    { r with status := 2, snap0 := snap0.getD r.snap0, snap1 := snap1.getD r.snap1 }

/-- A place in a core's paths. -/
def State.takeSq (s : State) (c : Nat) : State × Nat :=
  let k := s.core (coreId c)
  (s.setCore (coreId c) { k with nsq := k.nsq + 1 }, k.nsq)

/-- Issues the VMEM access of the head entry, which popped `v` (R176, R180, R181, R200): its checks are made, and it is under way. A
store stands in its path with its data; the event LOAD_DATA_RETURN performs a load. -/
def State.vecMem (s : State) (c : Nat) (e : SeqEnt) (v : Word) : State :=
  let n := e.memSize
  let addr := v + immS e.f (4 + 10 * e.f.k) * BitVec.ofNat 64 n
  let store := e.fn == 2 || e.fn == 3
  let t := s.thread c
  let s0 := s.setThread c { t with vec := t.vec.keepVals [v] }
  match s.access (s.who c) addr n n { r := !store, w := store } with
  | .error .hold => s0
  | .error x => (s0.walkLog { code := 1, c := some c } x).vecFault c e x.late addr store
  | .ok l =>
    let r := s0.takeSq c
    let x : VMem := { e := e, addr := addr, loc := l, store := store, sq := r.2, t0 := s.gtime, loop := t.vec.loop.map (·.id),
                      sent := false }
    let t1 := r.1.thread c
    let t2 := if store then t1.latch 9 e.fn e.f.a.toNat 0 else t1
    let s2 := r.1.setThread c { t2 with vec := { t2.vec with mem := t2.vec.mem ++ [x] } }
    let s3 := if store then
        let k := s2.core (coreId c)
        let p := pathOf c addr l
        let o : PathOp := { sq := r.2, c := c, loc := l, size := n, v := (t.vr e.f.a.toNat).toNat, arel := false, vt := t.sys.vt,
                            cls := e.f.h.toNat / 256, vec := true, sent := false }
        (s2.setCore (coreId c) (k.setPath p (k.path p ++ [o]))).storeDrop c l
      else s2
    s3.vecLeave c e (some addr) none

/-- The head entry issues with the values it popped (R176, R190 to R202). -/
def State.vecDo (s : State) (c : Nat) (e : SeqEnt) (vals : List Word) : State :=
  let t := s.thread c
  let ty := e.f.ext.toNat / 4
  let m := e.f.ext.toNat % 4
  let w := tyBits ty
  let a := e.f.a.toNat
  let b := e.f.b.toNat
  let done (x : Thread) : State := ((s.setThread c x).vecNote c e t.vec).vecLeave c e vals[0]? vals[1]?
  match e.maj with
  | 8 =>
    match e.fn with
    | 0 => done (t.writeV a (ofLanes w (List.replicate (128 / w) (vals.getD 0 0).toNat)))
    | 3 => done (t.writeV a (BitVec.ofNat 128 ((vals.getD 0 0).toNat + (vals.getD 1 0).toNat * 2 ^ 64)))
    | n =>
      let t1 := t.latch 8 n 0 b
      let x := (t.vr b).toNat / (if n = 1 then 1 else 2 ^ 64)
      done (t1.setQueue a (t1.queue a ++ [BitVec.ofNat 64 x])).wakeQ
  | 9 => s.vecMem c e (vals.getD 0 0)
  | 10 =>
    let n := if e.f.imm = 0 then (vals.getD 0 0).toNat else e.f.imm.toNat
    let len := e.f.a.toNat
    let v := ({ t.vec.keepVals (if vals.isEmpty then [0] else vals) with
                loop := some { left := n, next := 0, len := len, id := e.seqno.toNat } }).released
    (s.setThread c { t with vec := v }).ringUpd c e.seqno fun r => { r with status := if n = 0 then 2 else 1, snap0 := vals.getD 0 0 }
  | mj =>
    let fmtC := mj == 1 || mj == 2 || mj == 4
    let dst := if fmtC then e.f.d.toNat else a
    let r := vecCompute mj e.fn ty m e.rm ((vals.getD 0 0).toNat % 32) e.f.d.toNat b (t.vr e.f.d.toNat) (t.vr a) (t.vr b)
    done (((t.latch mj e.fn a b).writeV dst r.1).orFlags r.2)

/-- Both streams of a thread are blocked on queues: QDEAD at the scalar instruction (R114), once what precedes it is complete (R125). -/
def State.qdeadNow (s : State) (c : Nat) : State :=
  let t := s.thread c
  match (if s.gtime < t.completeAt then .run else t.st), t.qblk, s.vecBlocked c with
  | .qwait, some (sq, sp), some (q, push) => s.takeTrap c cQDEAD (causeWord cQDEAD 0 0 0) t.pc (qdeadVal sq sp q push) none
  | _, _, _ => s

/-- The vector stream of a context takes its next step on page 1 (R176, R187): it skips a member whose guard is false, waits for
its queues, or issues. -/
def State.vecStep (s : State) (c : Nat) (e : SeqEnt) : State :=
  let t := s.thread c
  if !e.guard then s.setThread c { t with vec := t.vec.afterEntry }
  else if e.irrev && s.speculative c then s
  else if !s.vecReady c e then s
  else match e.queueNeed with
    | none => s.vecDo c e e.vals
    | some (q, push, n) =>
      if !t.vecQueueOk s.gtime (some (q, push, n)) then s.qdeadNow c
      else if push then s.vecDo c e []
      else
        let p := t.popQ q n
        (s.setThread c p.2.wakeQ).vecDo c e p.1

/-- The vector stream's step, and QDEAD where it leaves the stream blocked on a queue beside a scalar stream that is (R114). -/
def State.vecTake (s : State) (c : Nat) (e : SeqEnt) : State := (s.vecStep c e).qdeadNow c

/-- May the head of a vector stream issue in this cycle (R16, R176)? The choice looks at the state before the scalar issue of the cycle. -/
def State.vecMayIssue (s : State) (c : Nat) : Bool :=
  let t := s.thread c
  match t.vec.head with
  | none => false
  | some e => !e.guard || (!(e.irrev && s.speculative c) && s.vecReady c e && t.vecQueueOk s.gtime e.queueNeed)

/-! ## Dispatch -/

/-- A VLOOP member that is not on page 1, or is a VLOOP, or fails a check of R88: subcode, word and position (R201). -/
def memberBad (ws : List Half) : Option (Nat × Half × Nat) ⊕ Nat :=
  match decodeRow ws with
  | .bad sub w p => .inl (some (sub, w, p))
  | .ok r _ len => if r.page = 1 ∧ r.maj ≠ 10 then .inr len else .inl (some (6, ws.getD (len - 1) 0, len - 1))

/-- The checks that a VLOOP makes of its body: members from number m on, from an address on (R201). -/
def State.checkBody (s : State) : Nat → Nat → Word → Except Stop Unit
  | 0, _, _ => .ok ()
  | n + 1, m, pc =>
    match s.fetchWords s.cur pc with
    | .error e => .error (e.stop 2 pc)
    | .ok ws =>
      match memberBad ws with
      | .inl (some (sub, w, p)) => .error (illop sub w p m)
      | .inl none => .error .wait
      | .inr len => State.checkBody s n (m + 1) (pc + BitVec.ofNat 64 (2 * len))

/-- VLOOP (R175, R201, R202): field a is the body length. -/
def execVloop (f : Fld) (s : State) : Host.Outcome State Fault Refusal :=
  issue {} f s fun s =>
    orStop (s.checkBody f.a.toNat 1 s.ir.next) fun _ =>
      if 16 < s.entriesUsed + f.a.toNat + 1 then s.waitVec
      else
        let s1 := s.enqueue 1 rowVloop.id f true false []
        .ok (s1.setT { s1.t with vec := { s1.t.vec with bodyLeft := f.a.toNat } }).advance


/-- VADD is dispatched (R173, R190). -/
def execVadd (f : Fld) (s : State) : Host.Outcome State Fault Refusal := dispatchVec rowVadd.id f s

/-- VSUB is dispatched (R173, R190). -/
def execVsub (f : Fld) (s : State) : Host.Outcome State Fault Refusal := dispatchVec rowVsub.id f s

/-- VMUL is dispatched (R173, R190). -/
def execVmul (f : Fld) (s : State) : Host.Outcome State Fault Refusal := dispatchVec rowVmul.id f s

/-- VMULH is dispatched (R173, R190). -/
def execVmulh (f : Fld) (s : State) : Host.Outcome State Fault Refusal := dispatchVec rowVmulh.id f s

/-- VMIN is dispatched (R173, R190). -/
def execVmin (f : Fld) (s : State) : Host.Outcome State Fault Refusal := dispatchVec rowVmin.id f s

/-- VMAX is dispatched (R173, R190). -/
def execVmax (f : Fld) (s : State) : Host.Outcome State Fault Refusal := dispatchVec rowVmax.id f s

/-- VAND is dispatched (R173, R190). -/
def execVand (f : Fld) (s : State) : Host.Outcome State Fault Refusal := dispatchVec rowVand.id f s

/-- VOR is dispatched (R173, R190). -/
def execVor (f : Fld) (s : State) : Host.Outcome State Fault Refusal := dispatchVec rowVor.id f s

/-- VXOR is dispatched (R173, R190). -/
def execVxor (f : Fld) (s : State) : Host.Outcome State Fault Refusal := dispatchVec rowVxor.id f s

/-- VSHL is dispatched (R173, R190). -/
def execVshl (f : Fld) (s : State) : Host.Outcome State Fault Refusal := dispatchVec rowVshl.id f s

/-- VSHR is dispatched (R173, R190). -/
def execVshr (f : Fld) (s : State) : Host.Outcome State Fault Refusal := dispatchVec rowVshr.id f s

/-- VSRA is dispatched (R173, R190). -/
def execVsra (f : Fld) (s : State) : Host.Outcome State Fault Refusal := dispatchVec rowVsra.id f s

/-- VABS is dispatched (R173, R190). -/
def execVabs (f : Fld) (s : State) : Host.Outcome State Fault Refusal := dispatchVec rowVabs.id f s

/-- VNEG is dispatched (R173, R190). -/
def execVneg (f : Fld) (s : State) : Host.Outcome State Fault Refusal := dispatchVec rowVneg.id f s

/-- VMOV is dispatched (R173, R190). -/
def execVmov (f : Fld) (s : State) : Host.Outcome State Fault Refusal := dispatchVec rowVmov.id f s

/-- VAVG is dispatched (R173, R190). -/
def execVavg (f : Fld) (s : State) : Host.Outcome State Fault Refusal := dispatchVec rowVavg.id f s

/-- VFMA is dispatched (R173, R191). -/
def execVfma (f : Fld) (s : State) : Host.Outcome State Fault Refusal := dispatchVec rowVfma.id f s

/-- VFMS is dispatched (R173, R191). -/
def execVfms (f : Fld) (s : State) : Host.Outcome State Fault Refusal := dispatchVec rowVfms.id f s

/-- VEQ is dispatched (R173, R192). -/
def execVeq (f : Fld) (s : State) : Host.Outcome State Fault Refusal := dispatchVec rowVeq.id f s

/-- VNE is dispatched (R173, R192). -/
def execVne (f : Fld) (s : State) : Host.Outcome State Fault Refusal := dispatchVec rowVne.id f s

/-- VLT is dispatched (R173, R192). -/
def execVlt (f : Fld) (s : State) : Host.Outcome State Fault Refusal := dispatchVec rowVlt.id f s

/-- VGE is dispatched (R173, R192). -/
def execVge (f : Fld) (s : State) : Host.Outcome State Fault Refusal := dispatchVec rowVge.id f s

/-- VLE is dispatched (R173, R192). -/
def execVle (f : Fld) (s : State) : Host.Outcome State Fault Refusal := dispatchVec rowVle.id f s

/-- VGT is dispatched (R173, R192). -/
def execVgt (f : Fld) (s : State) : Host.Outcome State Fault Refusal := dispatchVec rowVgt.id f s

/-- VUNORD is dispatched (R173, R192). -/
def execVunord (f : Fld) (s : State) : Host.Outcome State Fault Refusal := dispatchVec rowVunord.id f s

/-- VORD is dispatched (R173, R192). -/
def execVord (f : Fld) (s : State) : Host.Outcome State Fault Refusal := dispatchVec rowVord.id f s

/-- VSEL is dispatched (R173, R193). -/
def execVsel (f : Fld) (s : State) : Host.Outcome State Fault Refusal := dispatchVec rowVsel.id f s

/-- VRCP is dispatched (R173, R194). -/
def execVrcp (f : Fld) (s : State) : Host.Outcome State Fault Refusal := dispatchVec rowVrcp.id f s

/-- VRSQ is dispatched (R173, R194). -/
def execVrsq (f : Fld) (s : State) : Host.Outcome State Fault Refusal := dispatchVec rowVrsq.id f s

/-- VRCPR is dispatched (R173, R194). -/
def execVrcpr (f : Fld) (s : State) : Host.Outcome State Fault Refusal := dispatchVec rowVrcpr.id f s

/-- VRSQR is dispatched (R173, R194). -/
def execVrsqr (f : Fld) (s : State) : Host.Outcome State Fault Refusal := dispatchVec rowVrsqr.id f s

/-- VEXP2 is dispatched (R173, R194). -/
def execVexp2 (f : Fld) (s : State) : Host.Outcome State Fault Refusal := dispatchVec rowVexp2.id f s

/-- VLOG2 is dispatched (R173, R194). -/
def execVlog2 (f : Fld) (s : State) : Host.Outcome State Fault Refusal := dispatchVec rowVlog2.id f s

/-- VSQRT is dispatched (R173, R194). -/
def execVsqrt (f : Fld) (s : State) : Host.Outcome State Fault Refusal := dispatchVec rowVsqrt.id f s

/-- VDIV is dispatched (R173, R194). -/
def execVdiv (f : Fld) (s : State) : Host.Outcome State Fault Refusal := dispatchVec rowVdiv.id f s

/-- VFLOOR is dispatched (R173, R194). -/
def execVfloor (f : Fld) (s : State) : Host.Outcome State Fault Refusal := dispatchVec rowVfloor.id f s

/-- VCEIL is dispatched (R173, R194). -/
def execVceil (f : Fld) (s : State) : Host.Outcome State Fault Refusal := dispatchVec rowVceil.id f s

/-- VRNDN is dispatched (R173, R194). -/
def execVrndn (f : Fld) (s : State) : Host.Outcome State Fault Refusal := dispatchVec rowVrndn.id f s

/-- VTRUNC is dispatched (R173, R194). -/
def execVtrunc (f : Fld) (s : State) : Host.Outcome State Fault Refusal := dispatchVec rowVtrunc.id f s

/-- VCLASS is dispatched (R173, R194). -/
def execVclass (f : Fld) (s : State) : Host.Outcome State Fault Refusal := dispatchVec rowVclass.id f s

/-- VCVT is dispatched (R173, R195). -/
def execVcvt (f : Fld) (s : State) : Host.Outcome State Fault Refusal := dispatchVec rowVcvt.id f s

/-- VSHUF is dispatched (R173, R196 to R198). -/
def execVshuf (f : Fld) (s : State) : Host.Outcome State Fault Refusal := dispatchVec rowVshuf.id f s

/-- VBCAST is dispatched (R173, R196 to R198). -/
def execVbcast (f : Fld) (s : State) : Host.Outcome State Fault Refusal := dispatchVec rowVbcast.id f s

/-- VZIPL is dispatched (R173, R196 to R198). -/
def execVzipl (f : Fld) (s : State) : Host.Outcome State Fault Refusal := dispatchVec rowVzipl.id f s

/-- VZIPH is dispatched (R173, R196 to R198). -/
def execVziph (f : Fld) (s : State) : Host.Outcome State Fault Refusal := dispatchVec rowVziph.id f s

/-- VUZPL is dispatched (R173, R196 to R198). -/
def execVuzpl (f : Fld) (s : State) : Host.Outcome State Fault Refusal := dispatchVec rowVuzpl.id f s

/-- VUZPH is dispatched (R173, R196 to R198). -/
def execVuzph (f : Fld) (s : State) : Host.Outcome State Fault Refusal := dispatchVec rowVuzph.id f s

/-- VRSUM is dispatched (R173, R196 to R198). -/
def execVrsum (f : Fld) (s : State) : Host.Outcome State Fault Refusal := dispatchVec rowVrsum.id f s

/-- VRMIN is dispatched (R173, R196 to R198). -/
def execVrmin (f : Fld) (s : State) : Host.Outcome State Fault Refusal := dispatchVec rowVrmin.id f s

/-- VRMAX is dispatched (R173, R196 to R198). -/
def execVrmax (f : Fld) (s : State) : Host.Outcome State Fault Refusal := dispatchVec rowVrmax.id f s

/-- VDOT is dispatched (R173, R196 to R198). -/
def execVdot (f : Fld) (s : State) : Host.Outcome State Fault Refusal := dispatchVec rowVdot.id f s

/-- VSPLAT is dispatched (R173, R199). -/
def execVsplat (f : Fld) (s : State) : Host.Outcome State Fault Refusal := dispatchVec rowVsplat.id f s

/-- VPUTQ is dispatched (R173, R199). -/
def execVputq (f : Fld) (s : State) : Host.Outcome State Fault Refusal := dispatchVec rowVputq.id f s

/-- VPUTQH is dispatched (R173, R199). -/
def execVputqh (f : Fld) (s : State) : Host.Outcome State Fault Refusal := dispatchVec rowVputqh.id f s

/-- VGETQ2 is dispatched (R173, R199). -/
def execVgetq2 (f : Fld) (s : State) : Host.Outcome State Fault Refusal := dispatchVec rowVgetq2.id f s

/-- VLD is dispatched (R173, R200). -/
def execVld (f : Fld) (s : State) : Host.Outcome State Fault Refusal := dispatchVec rowVld.id f s

/-- VLD1 is dispatched (R173, R200). -/
def execVld1 (f : Fld) (s : State) : Host.Outcome State Fault Refusal := dispatchVec rowVld1.id f s

/-- VST is dispatched (R173, R200). -/
def execVst (f : Fld) (s : State) : Host.Outcome State Fault Refusal := dispatchVec rowVst.id f s

/-- VST1 is dispatched (R173, R200). -/
def execVst1 (f : Fld) (s : State) : Host.Outcome State Fault Refusal := dispatchVec rowVst1.id f s

/-- VLDE is dispatched (R173, R200). -/
def execVlde (f : Fld) (s : State) : Host.Outcome State Fault Refusal := dispatchVec rowVlde.id f s

end Sys2Proof.Machine
end

