-- ==== Sys2Proof/Machine/Mem.lean ====
section
/-! DEFINITION. Loads, stores, reservations, atomics, fences and the cache controls (R222 to R242): their issue. Their accesses
are performed by the events of EvMem. -/

namespace Sys2Proof.Machine

/-! ## ext6 and the PXH of page 2 (R222, R223) -/

/-- The access size in bytes: ext6 [5:4]. -/
def extSize (f : Fld) : Nat := 2 ^ (f.ext.toNat / 16)
/-- Sign extension: ext6 [3]. -/
def extSx (f : Fld) : Bool := f.ext.getLsbD 3
/-- The ordering: ext6 [2:1], plain 0, acquire 1, release 2, sc 3. -/
def extOrd (f : Fld) : Nat := f.ext.toNat / 2 % 4
/-- The temporal class of a PXH (R87, R226). -/
def temporal (f : Fld) : Nat := f.h.toNat / 256
/-- A loaded value extended to 64 bits (R222). -/
def extend (sx : Bool) (size v : Nat) : Word :=
  if sx then sextW (BitVec.ofNat 64 v) (8 * size) else BitVec.ofNat 64 (v % 2 ^ (8 * size))

/-! ## Waits -/

/-- Vector accesses that the thread dispatched and that are not performed yet. -/
def Thread.vmemPending (t : Thread) : Bool := t.vec.accessLeft fun _ => true

/-- Stores of a context in one of its core's paths. -/
def State.ownIn (s : State) (c p : Nat) : Bool := ((s.core (coreId c)).path p).any fun o => o.c == c

/-- Every earlier access of the thread is performed at its home (R217): its stores, its buffered stores and its vector
accesses. -/
def State.released (s : State) (c : Nat) : Bool :=
  !s.ownIn c 0 && !s.ownIn c 1 && !s.ownIn c 2 && !s.ownIn c 3 && (s.thread c).spec.sb.isEmpty && !(s.thread c).vmemPending

/-- Sets RH to GTIME (R212). -/
def State.acquire (s : State) (c : Nat) : State :=
  let t := s.thread c
  s.setThread c { t with sys := { t.sys with rh := BitVec.ofNat 64 s.gtime } }

/-- Waits for a release before going on, where the ordering has one (R216, R217). -/
def State.afterRelease (s : State) (rel : Bool) (k : State → Res) : Res :=
  if rel && !s.released s.cur then .stop .wait none else k s

/-- Goes on once the thread's buffered stores have drained (R380). -/
def State.afterDrain (s : State) (k : State → Res) : Res := if s.t.spec.sb.isEmpty then k s else .stop .wait none

/-! ## Loads and stores -/

/-- A blocking access of the context in execution starts: it takes its place in its path (R208, R225). -/
def State.startPend (s : State) (p : Pend) : State :=
  let c := s.cur
  let k := s.core (coreId c)
  ({ s with rsvq := s.rsvq.filter fun x => x != c }.setCore (coreId c) { k with nsq := k.nsq + 1 }).setT { s.t with pend := some { p with sq := k.nsq } }

/-- The fields of an access that do not depend on its kind. -/
def State.mkPend (s : State) (kind op : Nat) (l : Loc) (va : Word) (size : Nat) (f : Fld) (win : Win) : Pend :=
  { kind := kind, op := op, loc := l, va := va, size := size, sx := false, d := 0, acq := false, sent := false,
    cls := temporal f, rh := s.t.sys.rh, t0 := s.gtime, sq := 0, lane := 0, opnd := 0, new := 0, win := win, next := s.ir.next }

/-- A load: checks 1 to 5 at issue, then the access is under way (R224, R225). `win` is the window before the instruction. -/
def State.load (s : State) (f : Fld) (va : Word) (size ord : Nat) (sx : Bool) (win : Win) : Res :=
  s.afterRelease (ord == 3) fun s =>
    orStop (s.check va size { r := true } 0) fun l =>
      .ok (s.startPend { s.mkPend 1 ord l va size f win with sx := sx, d := f.d.toNat, acq := ord != 0 })

/-- A store: checks 1 to 5 at issue; a speculative store goes to the store buffer, and while buffered stores drain a later one
waits; an sc store is an acquire too and waits for its write (R216, R224, R225, R377, R380). -/
def State.store (s : State) (f : Fld) (va : Word) (size ord v : Nat) (win : Win) : Res :=
  s.afterRelease (decide (2 ≤ ord)) fun s =>
    orStop (s.check va size { w := true } 1) fun l =>
      let c := s.cur
      if s.speculative c then
        if 64 ≤ s.t.spec.sb.length then .stop .wait none
        else .ok (s.bufStore c { loc := l, va := va, size := size, v := v, cls := temporal f }).advance
      else if !s.t.spec.sb.isEmpty then .stop .wait none
      else if ord = 3 then
        let p := s.mkPend 5 ord l va size f win
        let sq := ((s.storeDrop c l).core (coreId c)).nsq
        let s1 := s.pushStore l size v (temporal f) false (pathOf c va l)
        .ok (s1.setT { s1.t with pend := some { p with sq := sq } })
      else .ok (s.pushStore l size v (temporal f) false (pathOf c va l)).advance

/-- LD (R228). -/
def execLd (f : Fld) (s : State) : Host.Outcome State Fault Refusal :=
  issue { names := [f.a, f.d] } f s fun s' =>
    s'.load f (s'.W f.a + immS f (4 + 10 * f.k) * 8) 8 0 false s.t.win

/-- ST (R228). -/
def execSt (f : Fld) (s : State) : Host.Outcome State Fault Refusal :=
  issue { names := [f.a, f.d] } f s fun s' =>
    s'.store f (s'.W f.a + immS f (4 + 10 * f.k) * 8) 8 0 (s'.W f.d).toNat s.t.win

/-- The address of LDI and STI (R229). -/
def State.scaled (s : State) (f : Fld) : Word := s.W f.a + immS f (4 + 10 * f.k) * BitVec.ofNat 64 (extSize f)

/-- LDR (R229). -/
def execLdr (f : Fld) (s : State) : Host.Outcome State Fault Refusal :=
  issue { irrev := extOrd f != 0, names := [f.a, f.b, f.d] } f s fun s' =>
    s'.load f (s'.W f.a + s'.W f.b) (extSize f) (extOrd f) (extSx f) s.t.win

/-- STR (R229). -/
def execStr (f : Fld) (s : State) : Host.Outcome State Fault Refusal :=
  issue { irrev := extOrd f != 0, names := [f.a, f.b, f.d] } f s fun s' =>
    s'.store f (s'.W f.a + s'.W f.b) (extSize f) (extOrd f) (s'.W f.d).toNat s.t.win

/-- LDI (R229). -/
def execLdi (f : Fld) (s : State) : Host.Outcome State Fault Refusal :=
  issue { irrev := extOrd f != 0, names := [f.a, f.d] } f s fun s' =>
    s'.load f (s'.scaled f) (extSize f) (extOrd f) (extSx f) s.t.win

/-- STI (R229). -/
def execSti (f : Fld) (s : State) : Host.Outcome State Fault Refusal :=
  issue { irrev := extOrd f != 0, names := [f.a, f.d] } f s fun s' =>
    s'.store f (s'.scaled f) (extSize f) (extOrd f) (s'.W f.d).toNat s.t.win

/-! ## Reservations and atomics -/

/-- Host and peer memory, and the steward window, hold no reservation (R230). -/
def Loc.outside (l : Loc) : Bool :=
  match l with
  | .phys pa => !isDram pa
  | _ => false

/-- ARSV (R230). -/
def execArsv (f : Fld) (s : State) : Host.Outcome State Fault Refusal :=
  issue { irrev := true, names := [f.a, f.b, f.d] } f s fun s' =>
    let va := s'.W f.a + s'.W f.b
    s'.afterRelease (extOrd f == 3) fun s' => s'.afterDrain fun s' =>
      orStop (s'.check va (extSize f) { r := true, w := true } 3) fun l =>
        if l.outside then .stop (.freeze 3 va) none
        else .ok (s'.startPend { s'.mkPend 2 (extOrd f) l va (extSize f) f s.t.win with
          sx := extSx f, d := f.d.toNat, acq := extOrd f % 2 == 1 })

/-- AREL (R230, R231): the write of the held word goes to its home. -/
def execArel (f : Fld) (s : State) : Host.Outcome State Fault Refusal :=
  issue { inHold := true, arel := true, irrev := true, names := [f.a, f.b, f.d] } f s fun s' =>
    let va := s'.W f.a + s'.W f.b
    match s'.t.hold with
    | none => .stop (.trap cRSVLONG 0 0 0 (rsvVal 4 va)) none
    | some h =>
      if h.va ≠ va ∨ h.size ≠ extSize f then .stop (.trap cRSVLONG 0 0 0 (rsvVal 3 h.va)) none
      else s'.afterRelease (decide (2 ≤ extOrd f)) fun s' => s'.afterDrain fun s' =>
        let s1 := s'.pushStore h.loc h.size (s'.W f.d).toNat (temporal f) true 2
        let s2 := s1.setT { s1.t with hold := none }
        if extOrd f = 3 then
          let p := s'.mkPend 5 3 h.loc va h.size f s.t.win
          .ok (s2.setT { s2.t with pend := some { p with sq := ((s'.storeDrop s'.cur h.loc).core (coreId s'.cur)).nsq } })
        else .ok s2.advance

/-- The new value of an atomic's word (R233): fn, size in bytes, the old value, the operand, ACAS's new value. -/
def amoNew (fn size old v n : Nat) : Nat :=
  let w := 8 * size
  let x := v % 2 ^ w
  match fn with
  | 0 => (old + x) % 2 ^ w
  | 1 => old &&& x
  | 2 => old ||| x
  | 3 => old ^^^ x
  | 4 => if sint old w ≤ sint x w then old else x
  | 5 => if sint old w ≤ sint x w then x else old
  | 6 => min old x
  | 7 => max old x
  | 8 => x
  | 9 => if old = x then n % 2 ^ w else old
  | 10 => ((if size = 4 then fpF32 else fpBF16).add 0 old x).1
  | _ => ((if size = 4 then fpF32 else fpBF16).minmax false old x).1

/-- The checks of an atomic at issue: R224, and what a host may be asked for (R233, R234). -/
def State.checkAmo (s : State) (fn size : Nat) (va : Word) : Except Stop Loc :=
  match s.check va size { r := true, w := true } 3 with
  | .error e => .error e
  | .ok l =>
    match l with
    | .phys pa =>
      if stewBase ≤ pa then .error (.freeze 3 va)
      else match s.backing pa with
        | .host _ _ => if (fn = 0 ∨ fn = 8 ∨ fn = 9) ∧ 4 ≤ size then .ok l else .error (.freeze 3 va)
        | _ => .ok l
    | _ => .ok l

/-- An AMO (R233): its access starts; RESERVATION_GRANT performs it. -/
def amo (fn : Nat) (f : Fld) (s : State) : Host.Outcome State Fault Refusal :=
  issue { irrev := true, names := if fn = 9 then [f.a, f.b, f.b + 1] else [f.a, f.b] } f s fun s' =>
    let va := s'.W f.a
    s'.afterRelease (decide (2 ≤ extOrd f)) fun s' => s'.afterDrain fun s' =>
      orStop (s'.checkAmo fn (extSize f) va) fun l =>
        let s1 := s'.storeDrop s'.cur l
        .ok (s1.startPend { s1.mkPend 3 fn l va (extSize f) f s.t.win with
          sx := extSx f, d := f.b.toNat, acq := extOrd f % 2 == 1, opnd := s'.W f.b, new := s'.Wn f.b 1 })

/-- AADD (R233). -/
def execAadd (f : Fld) (s : State) : Host.Outcome State Fault Refusal := amo 0 f s
/-- AAND (R233). -/
def execAand (f : Fld) (s : State) : Host.Outcome State Fault Refusal := amo 1 f s
/-- AOR (R233). -/
def execAor (f : Fld) (s : State) : Host.Outcome State Fault Refusal := amo 2 f s
/-- AXOR (R233). -/
def execAxor (f : Fld) (s : State) : Host.Outcome State Fault Refusal := amo 3 f s
/-- AMIN (R233). -/
def execAmin (f : Fld) (s : State) : Host.Outcome State Fault Refusal := amo 4 f s
/-- AMAX (R233). -/
def execAmax (f : Fld) (s : State) : Host.Outcome State Fault Refusal := amo 5 f s
/-- AMINU (R233). -/
def execAminu (f : Fld) (s : State) : Host.Outcome State Fault Refusal := amo 6 f s
/-- AMAXU (R233). -/
def execAmaxu (f : Fld) (s : State) : Host.Outcome State Fault Refusal := amo 7 f s
/-- ASWAP (R233). -/
def execAswap (f : Fld) (s : State) : Host.Outcome State Fault Refusal := amo 8 f s
/-- ACAS (R233). -/
def execAcas (f : Fld) (s : State) : Host.Outcome State Fault Refusal := amo 9 f s
/-- AFADD (R233). -/
def execAfadd (f : Fld) (s : State) : Host.Outcome State Fault Refusal := amo 10 f s
/-- AFMIN (R233). -/
def execAfmin (f : Fld) (s : State) : Host.Outcome State Fault Refusal := amo 11 f s

/-- The first lane that a VAMO has still to apply, from lane k on (R235). -/
def vamoLane (mask : Word) : Nat → Nat → Option Nat
  | 0, _ => none
  | n + 1, k => if mask.getLsbD k then vamoLane mask n (k + 1) else some k

/-- A VAMO goes on with its next lane, or ends with TAMASK := 0 and its acquire (R235). `base` is W[a]; the access it started
before, if any, is over. `p` carries what does not change between lanes. -/
def State.vamoNext (s : State) (base : Word) (b : Nat) (p : Pend) : Res :=
  match vamoLane s.t.sys.tamask 4 0 with
  | none =>
    let s1 := s.setT { s.t with sys := { s.t.sys with tamask := 0 }, pend := none, pc := p.next }
    .ok (if p.acq then s1.acquire s1.cur else s1)
  | some k =>
    let va := base + sextW (BitVec.ofNat 64 (lane 32 (s.t.vr b) k)) 32
    match s.checkAmo p.op p.size va with
    | .error e => .stop e (some (s.setT { s.t with pend := none }))
    | .ok l =>
      let s1 := s.storeDrop s.cur l
      .ok (s1.startPend { p with loc := l, va := va, lane := k, opnd := BitVec.ofNat 64 (lane 32 (s.t.vr (b + 1)) k),
                                 new := BitVec.ofNat 64 (lane 32 (s.t.vr (b + 2)) k) })

/-- A VAMO (R235): it waits for the thread's vector work and, with release ordering, for its earlier accesses. -/
def vamo (fn : Nat) (f : Fld) (s : State) : Host.Outcome State Fault Refusal :=
  issue { irrev := true, names := [f.a] } f s fun s' =>
    s'.afterVec fun s' => s'.afterRelease (decide (2 ≤ extOrd f)) fun s' => s'.afterDrain fun s' =>
      s'.vamoNext (s'.W f.a) f.b.toNat { s'.mkPend 4 fn (.phys 0) (s'.W f.a) (extSize f) f s.t.win with
        sx := extSx f, d := f.b.toNat, acq := extOrd f % 2 == 1, rh := s'.W f.a }

/-- VAMO.AADD (R235). -/
def execVamoAadd (f : Fld) (s : State) : Host.Outcome State Fault Refusal := vamo 0 f s
/-- VAMO.AAND (R235). -/
def execVamoAand (f : Fld) (s : State) : Host.Outcome State Fault Refusal := vamo 1 f s
/-- VAMO.AOR (R235). -/
def execVamoAor (f : Fld) (s : State) : Host.Outcome State Fault Refusal := vamo 2 f s
/-- VAMO.AXOR (R235). -/
def execVamoAxor (f : Fld) (s : State) : Host.Outcome State Fault Refusal := vamo 3 f s
/-- VAMO.AMIN (R235). -/
def execVamoAmin (f : Fld) (s : State) : Host.Outcome State Fault Refusal := vamo 4 f s
/-- VAMO.AMAX (R235). -/
def execVamoAmax (f : Fld) (s : State) : Host.Outcome State Fault Refusal := vamo 5 f s
/-- VAMO.AMINU (R235). -/
def execVamoAminu (f : Fld) (s : State) : Host.Outcome State Fault Refusal := vamo 6 f s
/-- VAMO.AMAXU (R235). -/
def execVamoAmaxu (f : Fld) (s : State) : Host.Outcome State Fault Refusal := vamo 7 f s
/-- VAMO.ASWAP (R235). -/
def execVamoAswap (f : Fld) (s : State) : Host.Outcome State Fault Refusal := vamo 8 f s
/-- VAMO.ACAS (R235). -/
def execVamoAcas (f : Fld) (s : State) : Host.Outcome State Fault Refusal := vamo 9 f s
/-- VAMO.AFADD (R235). -/
def execVamoAfadd (f : Fld) (s : State) : Host.Outcome State Fault Refusal := vamo 10 f s
/-- VAMO.AFMIN (R235). -/
def execVamoAfmin (f : Fld) (s : State) : Host.Outcome State Fault Refusal := vamo 11 f s

/-! ## Fences -/

/-- A fence of cluster scope or wider: every earlier access is performed, then RH := GTIME (R212, R216, R217, R237). -/
def wideFence (f : Fld) (s : State) : Host.Outcome State Fault Refusal :=
  issue { irrev := true } f s fun s => s.afterRelease true fun s => .ok (s.acquire s.cur).advance

/-- Every earlier access of the thread has entered its path, and those to the own slice are performed (R208, R217): what FENCE.LOOP and
FENCE.CORE wait for. -/
def State.loopDone (s : State) : Bool :=
  !s.ownIn s.cur 0 && !s.ownIn s.cur 1 && s.t.spec.sb.isEmpty && !s.t.vmemPending

/-- FENCE.CORE (R208, R217, R237): every earlier access has entered its path, and those through the alias and the loop-back port are
performed, which orders such a pair. -/
def execFenceCore (f : Fld) (s : State) : Host.Outcome State Fault Refusal :=
  issue { irrev := true } f s fun s => if s.loopDone then .ok s.advance else .stop .wait none
/-- FENCE.CLUSTER (R237). -/
def execFenceCluster (f : Fld) (s : State) : Host.Outcome State Fault Refusal := wideFence f s
/-- FENCE.DIE (R218, R237). -/
def execFenceDie (f : Fld) (s : State) : Host.Outcome State Fault Refusal := wideFence f s
/-- FENCE.DEVICE (R237). -/
def execFenceDevice (f : Fld) (s : State) : Host.Outcome State Fault Refusal := wideFence f s
/-- FENCE.SYSTEM (R237). -/
def execFenceSystem (f : Fld) (s : State) : Host.Outcome State Fault Refusal := wideFence f s
/-- FENCE.LOOP (R208, R237): the thread's earlier alias and loop-back accesses are performed. -/
def execFenceLoop (f : Fld) (s : State) : Host.Outcome State Fault Refusal :=
  issue { irrev := true } f s fun s => if s.loopDone then .ok s.advance else .stop .wait none

/-! ## Cache and residency controls (R238 to R242) -/

/-- What a CACHE address names: nothing for local and mesh addresses; else its page, by checks 1 and 4 of R224 alone. -/
def State.cacheAddr (s : State) (va : Word) : Except AccErr (Option Nat) :=
  let v := va.toNat
  if 2 ^ 56 ≤ v then .error .noncanon
  else if isAlias v || isMesh v then .ok none
  else if isSteward s.cur then .ok (if v < 2 ^ 52 then some v else none)
  else match s.translate (s.who s.cur) v with
    | .error e => .error e
    | .ok p => .ok (some (p.pa + (v - p.va)))

/-- The DRAM address that a PREF or CINV acts on; none where PREF does nothing (R239). -/
def State.prefAddr (s : State) (va : Word) : Option Nat :=
  match s.access (s.who s.cur) va 1 1 { r := true } with
  | .ok (.phys pa) => if isDram pa then some pa else none
  | _ => none

/-- PREF (R239): the line enters the cluster L1 under a lease of 4,096 cycles (log entry 9), or its sectors the L2 with class
no-allocate. It waits for the home. -/
def execPref (f : Fld) (s : State) : Host.Outcome State Fault Refusal :=
  issue { names := [f.a] } f s fun s =>
    match s.prefAddr (s.W f.a) with
    | none => .ok s.advance
    | some pa =>
      let line := pa / 256 * 256
      if !s.ready (some s.cur) (.phys line) 256 false then .stop .wait none
      else
        let cls := temporal f
        let r := s.l2ReadSector { code := 0 } line 256 (if cls = 3 then 0 else cls) true
        .ok (if cls = 3 || r.2 || isSteward s.cur then r.1 else r.1.l1Fill (pclOf s.cur) line cls 4095).advance

/-- Does a store of the context to an L2 line wait in its path? -/
def State.ownToLine (s : State) (c line : Nat) : Bool :=
  let k := s.core (coreId c)
  (k.ring ++ k.sring).any fun o => o.c == c && (match o.loc with | .phys pa => pa / 1024 == line | _ => false)

/-- CWB (R239). -/
def execCwb (f : Fld) (s : State) : Host.Outcome State Fault Refusal :=
  issue { irrev := true, names := [f.a] } f s fun s =>
    let va := s.W f.a
    match s.cacheAddr va with
    | .error e => .stop (e.stop 5 va) none
    | .ok none => .ok s.advance
    | .ok (some pa) =>
      if s.ownToLine s.cur (pa / 1024) || s.t.vmemPending || !s.t.spec.sb.isEmpty then .stop .wait none
      else .ok ({ s with l2 := s.l2.map fun (x : L2Line) => if x.line = pa / 1024 then { x with dirty := 0 } else x }).advance

/-- CINV (R239). -/
def execCinv (f : Fld) (s : State) : Host.Outcome State Fault Refusal :=
  issue { names := [f.a] } f s fun s =>
    match s.prefAddr (s.W f.a) with
    | none => .ok s.advance
    | some pa => .ok (s.l1Drop (pclOf s.cur) (pa / 256)).advance

/-- The SPAN conditions that need no translation (R240). -/
def pinSpan (b c : Word) : Bool :=
  bitsOf c 3 2 != 0 || bitsOf c 9 8 != 0 || bitsOf c 63 10 == 0 || bitsOf c 7 4 == 0 || decide (8 < bitsOf c 7 4) ||
    b.toNat % 1024 != 0 || decide (2 ^ 56 ≤ b.toNat) || isAlias b.toNat || isMesh b.toNat

/-- The mask of the w lowest ways that no held register sets aside; which ways a bank sets aside is open (log entry 9). -/
def State.freeWays (s : State) (w : Nat) : Nat :=
  ((((List.range 16).filter fun i => !nbit s.reservedMask i).take w).map (2 ^ ·)).sum

/-- PIN's tests after the translation of its base to a page, and its effect (R240). -/
def State.pin (s : State) (b c : Word) (p : Page) : State × Nat :=
  let i := bitsOf c 1 0
  let w := bitsOf c 7 4
  let size := bitsOf c 63 10 * 1024
  let r : Arr := mget {} s.arrs i
  if p.va + p.size < b.toNat + size then (s, 3)
  else if r.holder.isSome then (s, 1)
  else if 8 < w + s.reservedWays then (s, 2)
  else
    let l := some s.t.lid
    ({ s with arrs := mset s.arrs i { base := b, size := size, ways := w, hits := 0, ovf := 0, mask := s.freeWays w,
                                      pa := p.pa + (b.toNat - p.va), holder := l, last := l } }, 0)

/-- PIN (R240). -/
def execPin (f : Fld) (s : State) : Host.Outcome State Fault Refusal :=
  issue { irrev := true, names := [f.a, f.b] } f s fun s =>
    let b := s.W f.a
    let c := s.W f.b
    if pinSpan b c then .ok (s.setW f.a 3).advance
    else match s.translate (s.who s.cur) b.toNat with
      | .error e => .stop (e.stop 5 b) none
      | .ok p => let r := s.pin b c p; .ok (r.1.setW f.a (BitVec.ofNat 64 r.2)).advance

/-- UNPIN (R241). -/
def execUnpin (f : Fld) (s : State) : Host.Outcome State Fault Refusal :=
  issue { irrev := true, names := [f.a] } f s fun s =>
    let x := s.W f.a
    let i := bitsOf x 1 0
    let r : Arr := mget {} s.arrs i
    if bitsOf x 63 2 ≠ 0 then .ok (s.setW f.a 2).advance
    else if r.holder = some s.t.lid then
      .ok (({ s with arrs := mset s.arrs i { r with holder := none } } : State).setW f.a 0).advance
    else .ok (s.setW f.a 1).advance

/-- LSYNC (R239). -/
def execLsync (f : Fld) (s : State) : Host.Outcome State Fault Refusal :=
  issue {} f s fun s => .ok (s.acquire s.cur).advance

/-- MIGR's status, and the engine with its request (R239, R252). One for a page that is queued or moving already is queued behind it. -/
def State.migr (s : State) (pa : Option Nat) (tier : Word) : State × Nat :=
  match pa with
  | none => (s, 2)
  | some pa =>
    let k := (pa - managedBase) / 65536
    let g := s.pmig (k % 2)
    let e := s.ppte k
    let t := tier.toNat
    if 1 < t ∨ pa < managedBase ∨ 2 ^ 51 ≤ pa ∨ g.npages ≤ k ∨ !nbit e 63 then (s, 2)
    else if t = 1 ∧ s.form ≠ .m then (s, 3)
    else if b2n (nbit e 62) = t ∧ g.queue.any (fun q => q.1 == k) = false then (s, 1)
    else if 64 ≤ g.queue.length then (s, 4)
    else ({ s with dram := { s.dram with pmig := mset s.dram.pmig (k % 2) { g with queue := g.queue ++ [(k, t)] } } }, 0)

/-- MIGR (R239). -/
def execMigr (f : Fld) (s : State) : Host.Outcome State Fault Refusal :=
  issue { irrev := true, names := [f.a, f.b] } f s fun s =>
    let va := s.W f.a
    match s.cacheAddr va with
    | .error e => .stop (e.stop 5 va) none
    | .ok pa => let r := s.migr pa (s.W f.b); .ok (r.1.setW f.b (BitVec.ofNat 64 r.2)).advance

end Sys2Proof.Machine
end

