-- ==== Sys2Proof/Machine/Msg.lean ====
section
/-! DEFINITION. Messages and mailboxes (R353 to R365): posting, delivery, holding and admission, the MBOX instructions, alarms,
slotted sends. -/

namespace Sys2Proof.Machine

/-! ## Threads by their ids -/

/-- The context of a thread of a launch; none while its vcluster is saved. -/
def State.ctxOf (s : State) (lid tid : Nat) : Option Nat :=
  (mfind (s.launch lid).pcls (tid / 64)).map fun p => p * 64 + tid % 64

/-- A vcluster's record: where it stands, or as it was saved. -/
def State.vclu (s : State) (lid v : Nat) : Cluster :=
  match mfind (s.launch lid).pcls v with
  | some p => s.clu p
  | none =>
    match s.saved.find? (fun (p : Nat × Saved) => p.2.lid == lid && p.2.vcl == v && p.2.single.isNone) with
    | some p => p.2.clu
    | none => {}

/-- Changes the record of a vcluster: where it stands, or as it was saved. -/
def State.onVclu (s : State) (lid v : Nat) (g : Cluster → Cluster) : State :=
  match mfind (s.launch lid).pcls v with
  | some p => s.setClu p (g (s.clu p))
  | none =>
    { s with saved := s.saved.map fun (p : Nat × Saved) =>
        if p.2.lid = lid ∧ p.2.vcl = v ∧ p.2.single = none then (p.1, { p.2 with clu := g p.2.clu }) else p }

/-- Has the domain of one vcluster at a level the thread of another tid as a member (R25)? The level is a formed one. -/
def State.memberOf (s : State) (lid level tid tid' : Nat) : Bool :=
  let k := s.vclu lid (tid / 64)
  match level with
  | 0 => tid / 4 == tid' / 4
  | 1 => tid / 64 == tid' / 64
  | 2 => k.formed 2 && mapBit k.dmap2 (tid' / 64)
  | 3 => k.formed 3 && mapBit k.dmap3 (tid' / 64)
  | _ => true

/-- Is a whole vcluster saved? -/
def State.isSaved (s : State) (lid v : Nat) : Bool :=
  s.saved.any fun (p : Nat × Saved) => p.2.lid == lid && p.2.vcl == v && p.2.single.isNone

/-- A vcluster's entry as a cluster's interface holds it (R70): V, HOLD and the physical cluster. -/
def Cluster.vEntry (k : Cluster) (v : Nat) : BitVec 16 := mget 0 k.vct v
/-- Does the vcluster belong to the launch? -/
def Cluster.vValid (k : Cluster) (v : Nat) : Bool := (k.vEntry v).getLsbD 15
/-- Do sends to the vcluster wait? -/
def Cluster.vHold (k : Cluster) (v : Nat) : Bool := (k.vEntry v).getLsbD 14

/-! ## Messages (R353) -/

/-- The word of a message: payload, sender, kind, tag. -/
def msgWord (payload sender kind tag : Nat) : V128 :=
  BitVec.ofNat 128 (payload % 2 ^ 96 + sender % 2 ^ 18 * 2 ^ 96 + kind % 64 * 2 ^ 114 + tag % 256 * 2 ^ 120)

/-- A message that an engine, a unit or the scheduler posts to a thread: its sender field holds the receiver's tid. -/
def unitMsg (lid dst kind tag src payload : Nat) (vt : Word) : NetMsg :=
  { msg := msgWord payload dst kind tag, lid := lid, dst := dst, kind := kind, src := src, counted := false, vt := vt, t0 := 0,
    dev := 0, sq := 0, dseq := 0 }

/-- A message enters the network. -/
def State.launchMsg (s : State) (m : NetMsg) : State := { s with net := s.net ++ [m] }

/-- The source that a message comes from (R209, R356): the core of a sender, an engine or a queue unit, by its class and its number. -/
def NetMsg.poster (m : NetMsg) : Nat × Nat × Nat :=
  match m.kind with
  | 0 => (0, m.lid, m.src / 4)
  | 1 | 7 => (1, m.lid, m.src % 2 ^ 20)
  | 2 | 3 => (2, m.lid, m.src)
  | 4 | 8 => (4, 0, m.src)
  | k => (k, 0, m.src)

/-- The kind of a message in a mailbox. -/
def kindOf (m : V128) : Nat := m.toNat / 2 ^ 114 % 64

/-- Does the mailbox have an entry that a message of this kind may take: 32 in all, 28 of USER (R354)? -/
def Mail.room (b : Mail) (kind : Nat) : Bool :=
  decide (b.box.length < 32) && (kind != 0 || decide ((b.box.filter fun m => kindOf m == 0).length < 28))

/-- Does a mask accept a message (R359)? -/
def accepts (mask : Word) (m : V128) : Bool := mask == 0 || mask.getLsbD (kindOf m)

/-- The place of the chosen message (R359): the oldest accepted one, or the oldest of a full mailbox. -/
def chosen (mask : Word) (box : List V128) : Option Nat :=
  match box.findIdx? (accepts mask) with
  | some n => some n
  | none => if box.length = 32 then some 0 else none

/-- Before which held messages one is admitted (R355): by the cycle of refusal, threads first, then by tid. -/
def NetMsg.before (a b : NetMsg) : Bool :=
  if a.t0 ≠ b.t0 then decide (a.t0 < b.t0)
  else if (a.kind == 0) != (b.kind == 0) then a.kind == 0
  else a.kind == 0 && decide (a.src < b.src)

/-- Puts a refused message into its place. -/
def holdMsg : List NetMsg → NetMsg → List NetMsg
  | [], m => [m]
  | h :: hs, m => if m.before h then m :: h :: hs else h :: holdMsg hs m

/-- The sender's slot empties, the command leaves, or the alarm register is free, when a message is delivered (R355, R276). -/
def State.departed (s : State) (m : NetMsg) : State :=
  match m.kind with
  | 0 =>
    match s.ctxOf m.lid m.src with
    | some c =>
      let t := s.thread c
      if t.mail.slot = some { m with t0 := 0 } then s.setThread c { t with mail := { t.mail with slot := none } } else s
    | none => s
  | 1 =>
    s.onVclu m.lid (m.src % 2 ^ 20) fun k => { k with cmds := k.cmds.filter fun x =>
      !(x.slot == m.src / 2 ^ 20 && x.state == 3 && x.lid == m.lid && x.tid == m.dst) }
  | 5 =>
    match s.ctxOf m.lid m.dst with
    | some c => let t := s.thread c; s.setThread c { t with mail := { t.mail with alarmHeld := false } }
    | none => s
  | _ => s

/-- A unit that delivers a counted message turns black for each domain in which it counts (R368). -/
def State.blacken (s : State) (c lid src dst : Nat) : State :=
  let black (d : Dom) : Dom := { d with black := true }
  let k := s.core (coreId c)
  let s1 := if s.memberOf lid 0 src dst then s.setCore (coreId c) { k with dom := black k.dom } else s
  [1, 2, 3, 4].foldl (fun (a : State) l =>
    if s.memberOf lid l src dst then
      let q := a.clu (pclOf c)
      a.setClu (pclOf c) { q with dom := mset q.dom l (black (mget {} q.dom l)) }
    else a) s1

/-- A conditional arrival is withdrawn when a message counted in its domain is delivered to the thread (R366). -/
def State.withdraw (s : State) (c lid src dst : Nat) : State :=
  let t := s.thread c
  let arr := t.spec.arr.filter fun (p : Nat × Nat) => !(p.2 == 1 && s.memberOf lid p.1 src dst)
  s.setThread c { t with spec := { t.spec with arr := arr } }

/-- The effects of a delivery beside the mailbox entry. -/
def State.delivered (s : State) (c : Nat) (m : NetMsg) : State :=
  let s1 := s.departed m
  if m.counted then (s1.blacken c m.lid m.src m.dst).withdraw c m.lid m.src m.dst else s1

/-- A parked thread wakes when it can choose a message (R13, R359). -/
def Thread.wakeRecv (t : Thread) : Thread :=
  match t.mail.park with
  | some p => if t.st = .parked ∧ (chosen p.mask t.mail.box).isSome then
      { t with st := .run, mail := { t.mail with park := none } } else t
  | none => t

/-- A message enters a mailbox entry. -/
def State.enter (s : State) (c : Nat) (m : NetMsg) : State :=
  let t := s.thread c
  let t1 := { t with mail := { t.mail with box := t.mail.box ++ [m.msg] } }
  (s.setThread c t1.wakeRecv).delivered c m

/-- A message reaches a context (R354 to R356): it enters the mailbox, is held, or is discarded where no thread runs. -/
def State.arriveMsg (s : State) (c : Nat) (m : NetMsg) : State :=
  let t := s.thread c
  if t.st = .empty ∨ t.st = .done ∨ t.lid ≠ m.lid then s.delivered c m
  else if t.mail.room m.kind then s.enter c m
  else
    let h := if m.t0 = 0 then { m with t0 := s.gtime } else m
    let alarm := t.mail.alarmHeld || m.kind == 5
    s.setThread c { t with mail := { t.mail with held := holdMsg t.mail.held h, alarmHeld := alarm } }

/-- The first held message that may take an entry. -/
def Mail.admissible (b : Mail) : Option Nat := b.held.findIdx? fun m => b.room m.kind

/-- A freed entry admits the oldest held message that may take it (R355); of a thread that has ended, one is discarded (R356). -/
def State.admitHeld (s : State) (c : Nat) : State :=
  let t := s.thread c
  if t.st = .saved then s
  else if t.st = .done then
    (match t.mail.held with
      | [] => s
      | m :: ms => (s.setThread c { t with mail := { t.mail with held := ms } }).delivered c m)
  else match t.mail.admissible with
    | none => s
    | some n =>
      match t.mail.held[n]? with
      | none => s
      | some m => (s.setThread c { t with mail := { t.mail with held := t.mail.held.eraseIdx n } }).enter c m

/-- MESSAGE_ADMIT (R355). -/
def execMessageAdmit (pid : Nat) (s : State) : Host.Outcome State Fault Refusal := .next (s.admitHeld pid)

/-- Has the release of a sent message completed: the accesses that its sender issued before it are performed (R219, R358)? Stores that a
speculative thread buffers come after its SEND, since it buffered none when it became speculative (R376, R380). -/
def State.sendReleased (s : State) (m : NetMsg) : Bool :=
  if m.kind ≠ 0 then true
  else match s.ctxOf m.lid m.src with
    | none => true
    | some c =>
      let k := s.core (coreId c)
      let old (l : List PathOp) : Bool := l.any fun o => o.c == c && decide (o.sq < m.sq)
      let t := s.thread c
      t.lid != m.lid || !(old k.priv || old k.loop || old k.ring || old k.sring || (!t.spec.sb.isEmpty && !s.speculative c) ||
        t.vec.accessLeft fun e => decide ((m.dseq - e.seqno - 1).toNat < 2048))

/-- Would the message at place n overtake one that its source sent earlier to the mailboxes of the same core (R209)? A message whose
release has not completed has not been sent. -/
def State.overtakes (s : State) (n : Nat) (m : NetMsg) : Bool :=
  (s.net.take n).any fun x =>
    x.poster == m.poster && x.dst / 4 == m.dst / 4 && x.lid == m.lid && x.dev == m.dev && s.sendReleased x

/-- The cluster that posts a message, where one does. -/
def State.posterPcl (s : State) (m : NetMsg) : Option Nat :=
  match m.kind with
  | 0 => (s.ctxOf m.lid m.src).map pclOf
  | 1 | 7 => mfind (s.launch m.lid).pcls (m.src % 2 ^ 20)
  | 2 | 3 => mfind (s.launch m.lid).pcls (m.src / 16)
  | 4 | 8 => some (m.src / 2)
  | _ => none

/-- Has a link failed that a message has to cross (R72, R429)? -/
def State.msgCut (s : State) (m : NetMsg) : Bool :=
  if m.dev ≠ 0 then s.outer.linkDown.contains (mget 0 s.outer.peerPort m.dev)
  else if s.outer.dieDown.isEmpty then false
  else match s.posterPcl m, s.ctxOf m.lid m.dst with
    | some p, some c => s.dieCut (p / 512) (pclOf c / 512)
    | _, _ => false

/-- The poster's interface holds its sends while the receiver's vcluster moves (R70, R71). -/
def State.heldBack (s : State) (m : NetMsg) : Bool :=
  match s.ctxOf m.lid m.src with
  | some c => m.kind == 0 && (s.clu (pclOf c)).vHold (m.dst / 64)
  | none => false

/-- The message at place n of the network is delivered, held or discarded. -/
def State.deliver (s : State) (n : Nat) : State :=
  match s.net[n]? with
  | none => s
  | some m =>
    if s.overtakes n m || !s.sendReleased m || s.msgCut m then s
    else
      let s1 := { s with net := s.net.eraseIdx n }
      if m.dev ≠ 0 then { s1.departed m with outer := { s1.outer with peerOut := s1.outer.peerOut ++ [m] } }
      else match s.ctxOf m.lid m.dst with
        | none => if s.isSaved m.lid (m.dst / 64) then s else s1.departed m
        | some c =>
          let t := s.thread c
          if t.st = .saved || s.heldBack m || t.mail.admissible.isSome then s
          else s1.arriveMsg c m

/-- MESSAGE_DELIVER (R354): the message at place n of those under way. -/
def execMessageDeliver (n : Nat) (s : State) : Host.Outcome State Fault Refusal := .next (s.deliver n)

/-! ## SEND and SENDS -/

/-- The message of a SEND (R353, R358). -/
def State.sendMsg (s : State) (d p0 p1 : Word) : NetMsg :=
  let t := s.t
  { msg := msgWord (p0.toNat + p1.toNat % 2 ^ 32 * 2 ^ 64) t.tid 0 (bitsOf d 31 24), lid := t.lid, dst := bitsOf d 17 0,
    kind := 0, src := t.tid, counted := bitsOf d 36 32 == 0, vt := t.sys.vt, t0 := 0, dev := bitsOf d 36 32,
    sq := (s.core (coreId s.cur)).nsq, dseq := t.vec.dseq }

/-- The effect of SEND (R358): a destination outside the launch, or a peer that is not configured, is a violation, and so is one that a
failed link cuts off (R72, R429). -/
def State.sendBody (s : State) (d p0 p1 : Word) : Res :=
  let m := s.sendMsg d p0 p1
  if s.t.mail.slot.isSome then .stop .wait none
  else if (m.dev = 0 ∧ (s.clu (pclOf s.cur)).vValid (m.dst / 64) = false) ∨ (m.dev ≠ 0 ∧ mhas s.outer.peerPort m.dev = false) ∨
      s.msgCut m = true then
    .stop (.freeze 5 d) none
  else
    let s1 := s.setT { s.t with mail := { s.t.mail with slot := some m } }
    .ok (s1.launchMsg m).advance

/-- SEND (R358). -/
def execSend (f : Fld) (s : State) : Host.Outcome State Fault Refusal :=
  issue { irrev := true, names := [f.a, f.b, f.b + 1] } f s fun s => s.sendBody (s.W f.a) (s.W f.b) (s.Wn f.b 1)

/-- φ of R364: the cycles since the launch's start in its frame. -/
def State.slotPhase (s : State) : Nat :=
  let start := ((s.launch s.t.lid).start).getD 0
  let f := ((s.clu (pclOf s.cur)).log2f).getD 32
  ((s.gtime : Int) - start).emod (2 ^ f) |>.toNat

/-- SENDS (R364): outside its slot it raises SLOTVIOL. -/
def execSends (f : Fld) (s : State) : Host.Outcome State Fault Refusal :=
  issue { irrev := true, names := [f.a, f.b, f.b + 1] } f s fun s =>
    let d := s.W f.a
    let ph := s.slotPhase
    let fits (e : SlotEnt) : Bool := e.core == coreNo s.cur && e.dstv == bitsOf d 17 6 && decide (e.start ≤ ph) && decide (ph < e.start + e.len)
    if s.t.mail.slot.isSome then .stop .wait none
    else if bitsOf d 36 32 ≠ 0 || !((s.clu (pclOf s.cur)).log2f.isSome && (s.clu (pclOf s.cur)).slots.any fits) then
      .stop (.trap cSLOTVIOL 0 0 0 (BitVec.ofNat 64 (ph % 2 ^ 32 + bitsOf d 17 0 * 2 ^ 32))) none
    else s.sendBody d (s.W f.b) (s.Wn f.b 1)

/-- The cycles from φ to a slot's start, in a frame. -/
def SlotEnt.wait (e : SlotEnt) (ph frame : Nat) : Nat :=
  if e.start ≤ ph ∧ ph < e.start + e.len then 0 else (e.start + frame - ph % frame) % frame

/-- The slot that comes first. -/
def nextSlot (ph frame : Nat) : List SlotEnt → Option SlotEnt
  | [] => none
  | e :: es => match nextSlot ph frame es with
    | none => some e
    | some x => if e.wait ph frame ≤ x.wait ph frame then some e else some x

/-- SLOTRD (R365). -/
def execSlotrd (f : Fld) (s : State) : Host.Outcome State Fault Refusal :=
  issue { names := [f.a, f.b] } f s fun s =>
    let k := s.clu (pclOf s.cur)
    let ph := s.slotPhase
    let frame := 2 ^ (k.log2f.getD 32)
    let mine := k.slots.filter fun e => e.core == coreNo s.cur && e.dstv == bitsOf (s.W f.b) 11 0
    let v := match (if k.log2f.isSome then nextSlot ph frame mine else none) with
      | none => ones64
      | some e =>
        let w := e.wait ph frame
        BitVec.ofNat 64 (w + (if w = 0 then e.start + e.len - ph else e.len) * 2 ^ 32)
    .ok (s.setW f.a v).advance

/-! ## RECV, RECVT, MPEEK, MCOUNT -/

/-- Writes a message to a pair (R359). -/
def State.setMsg (s : State) (a : BitVec 6) (m : V128) : State :=
  (s.setWn a 0 (m.setWidth 64)).setWn a 1 (BitVec.ofNat 64 (m.toNat / 2 ^ 64))

/-- Removes the message at place n and delivers it to W[a], W[a + 1]: an acquire (R359). -/
def State.takeMsg (s : State) (a : BitVec 6) (n : Nat) (m : V128) : State :=
  let s1 := s.setT { s.t with mail := { s.t.mail with box := s.t.mail.box.eraseIdx n } }
  (s1.setMsg a m).acquire s.cur

/-- The thread enters PARKED (R13, R359). -/
def State.parkOn (s : State) (p : Park) : Res :=
  .stop .wait (some (s.setT { s.t with st := .parked, mail := { s.t.mail with park := some p } }))

/-- RECV (R359). -/
def execRecv (f : Fld) (s : State) : Host.Outcome State Fault Refusal :=
  issue { irrev := true, names := [f.a, f.a + 1] } f s fun s =>
    match chosen (s.W f.a) s.t.mail.box with
    | some n => .ok (s.takeMsg f.a n (s.t.mail.box.getD n 0)).advance
    | none => s.parkOn { a := f.a.toNat, mask := s.W f.a, deadline := none, x := 0, nextPc := s.ir.next }

/-- RECVT (R360). -/
def execRecvt (f : Fld) (s : State) : Host.Outcome State Fault Refusal :=
  issue { irrev := true, names := [f.a, f.a + 1, f.b] } f s fun s =>
    match chosen (s.W f.a) s.t.mail.box with
    | some n => .ok ((s.takeMsg f.a n (s.t.mail.box.getD n 0)).setP (destP f.x) true).advance
    | none =>
      if (s.W f.b).toNat ≤ s.gtime then .ok (s.setP (destP f.x) false).advance
      else s.parkOn { a := f.a.toNat, mask := s.W f.a, deadline := some (s.W f.b).toNat, b := f.b.toNat, x := destP f.x,
                      nextPc := s.ir.next }

/-- A parked RECVT returns without a message (R360): the registers it names enter the frame (R103), and P[x] is 0. -/
def State.recvtEnds (s : State) (p : Park) : Res :=
  (s.nameRegs [p.a, p.a + 1, p.b]).bind fun s1 =>
    .ok (s1.setT ({ s1.t with st := .run, pc := p.nextPc, mail := { s1.t.mail with park := none } }.setP p.x false))

/-- RECVT_TIMEOUT (R360): the deadline of a parked RECVT is reached and no message can be chosen. A trap of the naming is taken as at the
RECVT. -/
def execRecvtTimeout (pid : Nat) (s : State) : Host.Outcome State Fault Refusal :=
  let t := s.thread pid
  .next (match t.mail.park with
    | some p =>
      match p.deadline with
      | some d =>
        if t.st = .parked ∧ d ≤ s.gtime ∧ (chosen p.mask t.mail.box).isNone then
          let s0 := { s with cur := pid }
          match (s0.recvtEnds p).keepWin t.win with
          | .ok s1 => s1
          | .stop .wait _ => s
          | .stop e q => s0.stopped e (q.getD s0)
        else s
      | none => s
    | none => s)

/-- MPEEK (R361). -/
def execMpeek (f : Fld) (s : State) : Host.Outcome State Fault Refusal :=
  issue { names := [f.a, f.a + 1] } f s fun s =>
    match chosen (s.W f.a) s.t.mail.box with
    | some n => .ok ((s.setMsg f.a (s.t.mail.box.getD n 0)).setP (destP f.x) true).advance
    | none => .ok (s.setP (destP f.x) false).advance

/-- MCOUNT (R361). -/
def execMcount (f : Fld) (s : State) : Host.Outcome State Fault Refusal :=
  issue { names := [f.a] } f s fun s =>
    .ok (s.setW f.a (BitVec.ofNat 64 ((s.t.mail.box.filter (accepts (s.W f.a))).length))).advance

/-! ## Alarms (R362) -/

/-- ALARM (R362). -/
def execAlarm (f : Fld) (s : State) : Host.Outcome State Fault Refusal :=
  issue { irrev := true, names := [f.a, f.b] } f s fun s =>
    let m := s.t.mail
    if m.alarmHeld then .stop .wait none
    else
      let T := s.W f.a
      let new := if T = 0 then none else some (T.toNat, (s.W f.b).toNat % 256)
      let s1 := s.setT { s.t with mail := { m with alarm := new } }
      .ok (s1.setW f.b (if m.alarm.isSome then 1 else 0)).advance

/-- Admits held messages while one may take an entry (R355). -/
def State.admitAll (s : State) (c : Nat) : Nat → State
  | 0 => s
  | n + 1 => if (s.thread c).mail.admissible.isSome then (s.admitHeld c).admitAll c n else s

/-- ALARM_FIRE (R362): the messages that were refused earlier enter the mailbox first (R355). -/
def execAlarmFire (pid : Nat) (s : State) : Host.Outcome State Fault Refusal :=
  let t := s.thread pid
  .next (match t.mail.alarm with
    | some (d, tag) =>
      if d ≤ s.gtime ∧ t.st ≠ .empty ∧ t.st ≠ .done ∧ t.st ≠ .saved then
        ((s.setThread pid { t with mail := { t.mail with alarm := none } }).admitAll pid t.mail.held.length).arriveMsg pid
          (unitMsg t.lid t.tid 5 tag pid d t.sys.vt)
      else s
    | none => s)

end Sys2Proof.Machine
end

