-- ==== Sys2Proof/Machine/Engine.lean ====
section
/-! DEFINITION. What the engines share (R207, R213, R214, R274): reads and targets through a who, units of ownership, unit
writes; and objects that an instruction reads as a load of its thread. -/

namespace Sys2Proof.Machine

/-- Why an engine's access does not succeed: a wait, a translation fault, a protection violation, an uncorrectable error. -/
inductive EngErr where
  | wait
  | fault (level reason : Nat) (va : Word)
  | prot (va : Word)
  | dram (va : Word)
deriving DecidableEq, Repr

/-- A failed check as an engine meets it. -/
def AccErr.eng (va : Word) : AccErr → EngErr
  | .noncanon => .fault 0 3 va
  | .align => .fault 0 0 va
  | .prot => .prot va
  | .walk l r => .fault l r va
  | .bad _ => .dram va
  | .hold => .wait

/-- A range cut at every multiple of 64: address and length of each piece. -/
def granules : Nat → Word → Nat → List (Word × Nat)
  | 0, _, _ => []
  | k + 1, va, n =>
    if n = 0 then [] else
      let m := min n (64 - va.toNat % 64)
      (va, m) :: granules k (va + BitVec.ofNat 64 m) (n - m)

/-- The pieces of a range. -/
def piecesOf (va : Word) (n : Nat) : List (Word × Nat) := granules (n / 64 + 2) va n

/-- Does a range of n bytes stay in the space, the split and the slice of its first byte (R205)? One whose first byte no access may name is
refused there. -/
def State.spanOk (s : State) (w : Who) (va : Word) (n : Nat) : Bool :=
  let v := va.toNat
  if isAlias v then decide (v - aliasBase + n ≤ if w.steward then 2 ^ 15 else s.lmemBytes w.pcl)
  else if isMesh v then
    let e := mget 0 (s.clu w.pcl).vct (v / 2 ^ 19 % 4096)
    w.steward || !e.getLsbD 15 || e.getLsbD 14 || decide (v % 2 ^ 15 + n ≤ s.lmemBytes (e.toNat % 4096))
  else decide (v + n ≤ 2 ^ 56) && !(decide (v < aliasBase) && decide (aliasBase < v + n)) &&
    !(decide (v < meshBase) && decide (meshBase < v + n))

/-- An engine reads a range, each unit as it stands at its home (R214); no read comes between the read and the write of a hold (R221). -/
def State.engReadL (ag : Agent) (w : Who) (cls : Nat) : List (Word × Nat) → State → State × Except EngErr (List Byte)
  | [], s => (s, .ok [])
  | (va, n) :: ps, s =>
    match s.access w va n 1 { r := true } with
    | .error e => (s.walkLog ag e, .error (e.eng va))
    | .ok l =>
      if s.reserved none l n || !s.dramReady l n then (s, .error .wait)
      else
        let r := s.homeRead ag l n cls
        if r.2 then (r.1, .error (.dram va))
        else
          let q := State.engReadL ag w cls ps r.1
          (q.1, q.2.map fun bs => leBytes n (s.valueAt l n) ++ bs)

/-- An engine's read of n bytes at an address. -/
def State.engRead (s : State) (ag : Agent) (w : Who) (cls : Nat) (va : Word) (n : Nat) : State × Except EngErr (List Byte) :=
  if s.spanOk w va n then State.engReadL ag w cls (piecesOf va n) s else (s, .error (.prot va))

/-- Puts bytes into a unit; bytes written again take the later value (R273). -/
def UnitW.put (u : UnitW) (off : Nat) (bs : List Byte) : UnitW :=
  { u with cells := msetRun u.cells off bs, n := u.n + bs.length }

/-- The place of a location in its unit. -/
def unitOff : Loc → Nat
  | .slice _ o => o % 64
  | .sram _ o => o % 64
  | .phys pa => pa % 256

/-- Adds bytes at a location to a list of units. -/
def addUnit : List UnitW → Loc → List Byte → List UnitW
  | [], l, bs => [({ loc := unitOf l, cells := [], n := 0 } : UnitW).put (unitOff l) bs]
  | u :: us, l, bs => if u.loc = unitOf l then u.put (unitOff l) bs :: us else u :: addUnit us l bs

/-- The units that a write of bytes at an address falls into. -/
def State.engTargetL (s : State) (w : Who) : List (Word × Nat) → List Byte → List UnitW → Except EngErr (List UnitW)
  | [], _, us => .ok us
  | (va, n) :: ps, bs, us =>
    match s.access w va n 1 { w := true } with
    | .error e => .error (e.eng va)
    | .ok l => State.engTargetL s w ps (bs.drop n) (addUnit us l (bs.take n))

/-- Adds an engine's write of bytes at an address to a list of units. -/
def State.engTarget (s : State) (w : Who) (va : Word) (bs : List Byte) (us : List UnitW) : Except EngErr (List UnitW) :=
  if s.spanOk w va bs.length then s.engTargetL w (piecesOf va bs.length) bs us else .error (.prot va)

/-- The maximal runs of a unit's bytes: first place and bytes. -/
def runsOf : SMap Byte → List (Nat × List Byte)
  | [] => []
  | (o, b) :: m =>
    match runsOf m with
    | (p, bs) :: rs => if p = o + 1 then (o, b :: bs) :: rs else (o, [b]) :: (p, bs) :: rs
    | [] => [(o, [b])]

/-- A unit is written at one instant (R214). -/
def State.writeUnit (s : State) (w : Writer) (u : UnitW) (cls : Nat) : State :=
  (runsOf u.cells).foldl (fun (a : State) (r : Nat × List Byte) => a.homeWrite w (u.loc.add r.1) r.2 cls) s

/-- Does the home of a unit take an engine's write now: no reservation stands in it, no lease holds it, its channel serves? -/
def State.unitReady (s : State) (u : UnitW) : Bool :=
  (runsOf u.cells).all fun r =>
    !s.reserved none (u.loc.add r.1) r.2.length && !s.leaseHolds (u.loc.add r.1) && s.dramReady (u.loc.add r.1) r.2.length

/-- May an engine's write of a unit be performed now: the interface has sent it on, where it has to (R249), and the home takes it? -/
def State.unitDue (s : State) (u : UnitW) : Bool := (u.sent || !u.loc.dram) && s.unitReady u

/-- An engine context takes ownership of units (R213). -/
def State.own (s : State) (pcl eng id : Nat) (us : List UnitW) : State :=
  let o (u : UnitW) : Own := { loc := u.loc, size := unitSize u.loc, pcl := pcl, eng := eng, id := id }
  { s with owned := s.owned ++ us.map o }

/-- It releases one unit. -/
def State.disown (s : State) (pcl eng id : Nat) (l : Loc) : State :=
  { s with owned := s.owned.filter fun o => !(o.loc == l && o.pcl == pcl && o.eng == eng && o.id == id) }

/-- It releases everything. -/
def State.disownAll (s : State) (pcl eng id : Nat) : State :=
  { s with owned := s.owned.filter fun o => !(o.pcl == pcl && o.eng == eng && o.id == id) }

/-- The writer that an engine is for a thread of a launch (R379). -/
def State.engWriter (s : State) (lid tid code : Nat) (vt : Word) : Writer :=
  { c := s.ctxOf lid tid, vt := vt, code := code }

/-! ## Objects read as a load of the thread (R266) -/

/-- Reads the pieces of an object as loads of the thread (R210, R220), through its store buffer and its L1; a failure names the object's
address. `ag` is the agent code of R258, and `cls` the temporal class. -/
def State.loadPieces (ag c cls : Nat) (tv : Word) : List (Word × Nat) → State → Got (List Byte)
  | [], s => .ok s []
  | (va, n) :: ps, s =>
    match s.access (s.who c) va n 1 { r := true } with
    | .error e => .stop (e.stop 0 tv) none
    | .ok l =>
      match s.loadAs ag c va l n cls 0 with
      | .stop (.trap cause acc level reason _) p => .stop (.trap cause acc level reason tv) p
      | .stop e p => .stop e p
      | .ok s1 v => (State.loadPieces ag c cls tv ps s1).bind fun s2 bs => .ok s2 (leBytes n v ++ bs)

/-- An object of n bytes at an address that must be a multiple of `al`, read by an agent with a temporal class. -/
def State.loadObjAs (ag cls : Nat) (s : State) (va : Word) (n al : Nat) : Got (List Byte) :=
  if n = 0 then .ok s []
  else if 2 ^ 56 ≤ va.toNat then .stop (.trap cPFAULT 0 0 3 va) none
  else if va.toNat % al ≠ 0 then .stop (.trap cALIGN 0 0 0 va) none
  else if !s.spanOk (s.who s.cur) va n then .stop (.freeze 0 va) none
  else State.loadPieces ag s.cur cls va (piecesOf va n) s

/-- An object that the thread loads. -/
def State.loadObj (s : State) (va : Word) (n al : Nat) : Got (List Byte) := s.loadObjAs 1 0 va n al

/-- A field of an object: n bytes at an offset (R4). -/
def fieldAt (b : List Byte) (o n : Nat) : Nat := leVal ((b.drop o).take n)
/-- Are the bytes of a range of an object zero? -/
def zeroAt (b : List Byte) (o n : Nat) : Bool := ((b.drop o).take n).all (· == 0)

/-! ## Pre-emption's waits (R408) -/

/-- The contexts of a cluster, or of one core of it. -/
def ctxsOf (pcl : Nat) (core : Option Nat) : List Nat :=
  match core with
  | some k => (List.range 4).map (ctxId pcl k)
  | none => (List.range 64).map (pcl * 64 + ·)

/-- Has a context come to the end of steps 1 to 3 (R408)? -/
def State.ctxStopped (s : State) (c : Nat) : Bool :=
  let t := s.thread c
  t.st == .empty || (t.hold.isNone && t.pend.isNone && t.spec.sb.isEmpty && !t.spec.abort &&
    !s.ownIn c 0 && !s.ownIn c 1 && !s.ownIn c 2 && !s.ownIn c 3 && decide (t.completeAt ≤ s.gtime) && t.vec.under s.gtime == 0)

/-- A cluster is being saved and its contexts have stopped: its engines begin no further job (R331, R408). -/
def State.enginesHeld (s : State) (pcl : Nat) : Bool := (s.clu pcl).saving && (ctxsOf pcl none).all s.ctxStopped

/-- The stores of a context that its cores' paths and its store buffer still hold. -/
def State.storesOut (s : State) (c : Nat) : Bool :=
  s.ownIn c 0 || s.ownIn c 1 || s.ownIn c 2 || s.ownIn c 3 || !(s.thread c).spec.sb.isEmpty

/-- The issue of an engine's command is a release (R219): the thread's earlier stores are performed first. -/
def State.afterStores (s : State) (k : State → Res) : Res := if s.storesOut s.cur then .stop .wait none else k s

/-- Does a vector access of a thread that it dispatched before `dseq` still wait? -/
def Thread.vmemBefore (t : Thread) (dseq : BitVec 12) : Bool :=
  t.vec.accessLeft fun e => decide ((dseq - e.seqno - 1).toNat < 2048)

end Sys2Proof.Machine
end

