-- ==== Sys2Proof/Machine/Copy.lean ====
section
/-! DEFINITION. The copy engine (R263 to R281): request blocks and their checks, tensor maps, gather and scatter, multicast,
sealed copies, and the events that perform a command. -/

namespace Sys2Proof.Machine

/-! ## Request blocks and tensor maps -/

/-- A request block (R263). -/
structure Blk where
  src : Word
  dst : Word
  len : Nat
  flags : Nat
  tag : Nat
  kslot : Nat
  qh : Word
  qseq : Nat
  rbytes : Nat
  aux0 : Word
  aux1 : Word
  aux2 : Word
  origin : List Int
  tail : Bool
deriving DecidableEq, Repr

/-- Reads the fields of a block. -/
def parseBlk (b : List Byte) : Blk :=
  let w (o : Nat) : Word := BitVec.ofNat 64 (fieldAt b o 8)
  { src := w 0, dst := w 8, len := fieldAt b 0x10 4, flags := fieldAt b 0x14 2, tag := fieldAt b 0x16 1, kslot := fieldAt b 0x17 1,
    qh := w 0x18, qseq := fieldAt b 0x20 4, rbytes := fieldAt b 0x24 4, aux0 := w 0x28, aux1 := w 0x30, aux2 := w 0x38,
    origin := (List.range 12).map fun d => sint (fieldAt b (0x40 + 4 * d) 4) 32, tail := zeroAt b 0x70 16 }

/-- MAP, COUNT, PEN, ROT. -/
def Blk.map (b : Blk) : Bool := nbit b.flags 0
/-- COUNT. -/
def Blk.count (b : Blk) : Bool := nbit b.flags 1
/-- ROT. -/
def Blk.rot (b : Blk) : Nat := b.flags / 16 % 16

/-- Gather and scatter. -/
def isRows (fn : Nat) : Bool := fn == 4 || fn == 5
/-- Sealed copies. -/
def isSealed (fn : Nat) : Bool := fn == 7 || fn == 8

/-- Check 1 of R266; ROT counts as a per-command field (log entry 13). -/
def Blk.reserved (b : Blk) (fn : Nat) : Bool :=
  nbit b.flags 3 || b.flags / 256 != 0 || !b.tail ||
  (!isRows fn && (b.rot != 0 || b.rbytes != 0 || b.aux2 != 0)) ||
  (!isRows fn && !isSealed fn && (b.aux1 != 0 || (fn != 3 && b.aux0 != 0))) ||
  (!isSealed fn && b.kslot != 0) ||
  (b.map && b.len != 0) || (!b.map && b.origin.any (· != 0))

/-- A tensor map (R270): base, element size, rank, rotation, fill, and stride, size, box and element stride by dimension. -/
structure TMap where
  base : Word
  e : Nat
  rank : Nat
  rot : Nat
  fill : List Byte
  stride : List Int
  size : List Nat
  box : List Nat
  estr : List Nat
deriving DecidableEq, Repr

/-- The product of numbers. -/
def prodOf (l : List Nat) : Nat := l.foldl (· * ·) 1

/-- A tensor map, where it is valid (R272). -/
def parseMap (b : List Byte) : Option TMap :=
  let et := fieldAt b 8 1
  let rank := fieldAt b 9 1
  let rot := fieldAt b 10 1
  let e := 2 ^ et
  let dims := List.range rank
  let stride := dims.map fun d => sint (fieldAt b (0x40 + 16 * d) 8) 64
  let size := dims.map fun d => fieldAt b (0x48 + 16 * d) 4
  let box := dims.map fun d => fieldAt b (0x4C + 16 * d) 2
  let estr := dims.map fun d => fieldAt b (0x4E + 16 * d) 1
  let base := fieldAt b 0 8
  if et ≤ 4 ∧ 1 ≤ rank ∧ rank ≤ 12 ∧ rot ≤ 4 ∧ zeroAt b 0x0B 5 ∧ zeroAt b 0x20 32 ∧ base % e = 0 ∧
      stride.all (fun x => x % e == 0) ∧ box.all (fun x => decide (x ≤ 4096)) ∧
      estr.all (fun x => decide (1 ≤ x) && decide (x ≤ 8)) ∧ dims.all (fun d => fieldAt b (0x4F + 16 * d) 1 == 0) ∧
      zeroAt b (0x40 + 16 * rank) (16 * (12 - rank)) ∧ prodOf box * e < 2 ^ 32 then
    some { base := BitVec.ofNat 64 base, e := e, rank := rank, rot := rot, fill := (b.drop 0x10).take e, stride := stride,
           size := size, box := box, estr := estr }
  else none

/-! ## Spaces (R265) -/

/-- The space of a range. -/
inductive Space where
  | glob
  | slice (vcl core off : Nat)
  | bad
deriving DecidableEq, Repr

/-- Where n bytes at an address lie, for a thread of vcluster v and core k (R203, R205). -/
def spaceOf (v k : Nat) (va : Word) (n : Nat) : Space :=
  let x := va.toNat
  if 2 ^ 56 < x + n ∨ 2 ^ 56 ≤ x then .bad
  else if isAlias x then (if x - aliasBase + n ≤ 2 ^ 15 then .slice v k (x - aliasBase) else .bad)
  else if isMesh x then
    let o := x - meshBase
    if o < 2 ^ 31 ∧ o % 2 ^ 15 + n ≤ 2 ^ 15 then .slice (o / 2 ^ 19) (o / 2 ^ 15 % 16) (o % 2 ^ 15) else .bad
  else if (x < aliasBase ∧ aliasBase < x + n) ∨ (x < meshBase ∧ meshBase < x + n) then .bad
  else .glob

/-- Global memory. -/
def Space.isGlob (p : Space) : Bool := p == .glob
/-- Any slice of the launch, whose vclusters `valid` names (R70). -/
def Space.isSlice (p : Space) (valid : Nat → Bool) : Bool := match p with | .slice v _ _ => valid v | _ => false
/-- The cluster memory of vcluster v. -/
def Space.isOwnCl (p : Space) (v : Nat) : Bool := match p with | .slice x _ _ => x == v | _ => false
/-- The slice of core k of vcluster v. -/
def Space.isOwn (p : Space) (v k : Nat) : Bool := match p with | .slice x y _ => x == v && y == k | _ => false

/-- The mesh address of a byte of a slice; past the slice, an address of the reserved range (R205). -/
def sliceVa (v k off : Nat) : Word :=
  if off < 2 ^ 15 then BitVec.ofNat 64 (meshBase + v * 2 ^ 19 + k * 2 ^ 15 + off) else BitVec.ofNat 64 (meshBase + 2 ^ 31 + off)

/-- The place of row `row` of a dense box at (v, k, o): core and offset (R271). -/
def denseRow (k o row rb rot : Nat) : Nat × Nat :=
  if rot = 0 then (k, o + row * rb) else ((k + row % 2 ^ rot) % 16, o + row / 2 ^ rot * rb)

/-- Box indices of a row, dimension 1 fastest. -/
def rowIdx : Nat → List Nat → List Nat
  | _, [] => []
  | row, b :: bs => row % b :: rowIdx (row / b) bs

/-- The pieces of a map command (R271): for CFETCH from global elements or FILL to the dense box, for CSTORE back. -/
def mapPieces (m : TMap) (origin : List Int) (fetch : Bool) (v k o : Nat) : List Piece :=
  let b0 := m.box.headD 0
  let rest := m.box.drop 1
  ((List.range (prodOf rest)).map fun row =>
    let ix := rowIdx row rest
    let p := denseRow k o row (b0 * m.e) m.rot
    (List.range b0).filterMap fun j =>
      let x := ((j :: ix).zip (origin.zip m.estr)).map fun (q : Nat × Int × Nat) => q.2.1 + (q.1 : Int) * q.2.2
      let inb := (x.zip m.size).all fun (q : Int × Nat) => decide (0 ≤ q.1) && decide (q.1 < q.2)
      let g := BitVec.ofNat 64 (wrapN ((m.base.toNat : Int) + ((x.zip m.stride).map fun (q : Int × Int) => q.1 * q.2).foldl (· + ·) 0) 64)
      let l := sliceVa v p.1 (p.2 + j * m.e)
      if fetch then some { src := if inb then some g else none, fill := if inb then [] else m.fill, dst := l, len := m.e }
      else if inb then some { src := some l, fill := [], dst := g, len := m.e } else none).flatten

/-- The pieces of CGATH and CSCAT (R277). -/
def rowPieces (b : Blk) (gath : Bool) (v k o : Nat) (index : List Nat) : List Piece :=
  ((List.range index.length).zip index).filterMap fun (q : Nat × Nat) =>
    let p := denseRow k o q.1 b.rbytes b.rot
    let l := sliceVa v p.1 p.2
    let inb := decide (q.2 < b.aux2.toNat)
    let g (base : Word) : Word := base + BitVec.ofNat 64 (q.2 * b.aux1.toNat)
    if gath then
      some { src := if inb then some (g b.src) else none, fill := if inb then [] else List.replicate b.rbytes 0, dst := l, len := b.rbytes }
    else if inb then some { src := some l, fill := [], dst := g b.dst, len := b.rbytes } else none

/-- The vclusters of a bitmap laid out as DMAP2. -/
def bitmapOf (b : List Byte) : List Nat := (List.range (8 * b.length)).filter fun i => (b.getD (i / 8) 0).getLsbD (i % 8)

/-! ## Acceptance (R266) -/

/-- What the checks leave of a command: its pieces, the rows of CGATH and CSCAT, the receivers of CMCAST, its extent, its
bytes, and whether a side is global. -/
structure Plan where
  pieces : List Piece := []
  rows : Nat := 0
  recv : List Nat := []
  zero : Bool := false
  bytes : Nat := 0
  counted : Nat := 0
  glob : Bool := false
deriving DecidableEq, Repr

/-- Every piece's global side lies in global memory. -/
def globOk (v k : Nat) (dstSide : Bool) (ps : List Piece) : Bool :=
  ps.all fun p =>
    if dstSide then (spaceOf v k p.dst p.len).isGlob
    else match p.src with | some x => (spaceOf v k x p.len).isGlob | none => true

/-- The bytes that pieces write. -/
def pieceBytes (ps : List Piece) : Nat := (ps.map (·.len)).foldl (· + ·) 0

/-- Checks 2 and 3 of R266, and the plan; `obj` is the object that the command names. An error is the status. -/
def planOf (fn : Nat) (b : Blk) (obj : List Byte) (v k : Nat) (valid : Nat → Bool) : Except Nat Plan :=
  let ps (va : Word) (n : Nat) : Space := spaceOf v k va n
  let one : List Piece := [{ src := some b.src, fill := [], dst := b.dst, len := b.len }]
  let linear (ok glob : Bool) : Except Nat Plan :=
    if ok then .ok { pieces := one, zero := b.len == 0, bytes := b.len, counted := b.len, glob := glob } else .error 5
  if b.map then
    if 2 ≤ fn then .error 4
    else
      let mapVa := if fn = 0 then b.src else b.dst
      let dense := if fn = 0 then b.dst else b.src
      match parseMap obj with
      | none => .error 4
      | some m =>
        if (b.origin.drop m.rank).any (· != 0) then .error 12
        else match ps dense 1 with
          | .slice x y o =>
            let l := mapPieces m b.origin (fn == 0) x y o
            if (ps mapVa 256).isGlob && x == v && globOk v k (fn == 1) l then
              .ok { pieces := l, zero := m.box.any (· == 0), bytes := pieceBytes l, counted := pieceBytes l, glob := true }
            else .error 5
          | _ => .error 5
  else match fn with
    | 0 => linear ((ps b.src b.len).isGlob && (ps b.dst b.len).isOwnCl v) true
    | 1 => linear ((ps b.src b.len).isOwnCl v && (ps b.dst b.len).isGlob) true
    | 2 => linear ((ps b.src b.len).isOwnCl v && (ps b.dst b.len).isSlice valid) false
    | 3 =>
      let off := b.dst.toNat % 2 ^ 15
      let core := b.dst.toNat / 2 ^ 15 % 16
      let set := bitmapOf obj
      if (ps b.src b.len).isOwnCl v && decide (b.dst.toNat < 2 ^ 56) && decide (off + b.len ≤ 2 ^ 15) && set.all valid then
        .ok { pieces := set.map fun x => { src := some b.src, fill := [], dst := sliceVa x core off, len := b.len },
              recv := set, zero := b.len == 0 || set.isEmpty, bytes := b.len, counted := b.len }
      else .error 5
    | 7 =>
      if (ps b.src b.len).isOwnCl v && ((ps b.dst b.len).isGlob || (ps b.dst b.len).isSlice valid) && decide (b.len ≤ 2 ^ 24) &&
          b.aux0.toNat % 16 == 0 && ((ps b.aux0 16).isGlob || (ps b.aux0 16).isSlice valid) then
        .ok { pieces := one, bytes := b.len + 16, counted := b.len + 16, glob := (ps b.dst b.len).isGlob }
      else .error 5
    | 8 =>
      if ((ps b.src b.len).isGlob || (ps b.src b.len).isOwnCl v) && (ps b.dst b.len).isOwn v k && decide (b.len ≤ 2 ^ 24) &&
          b.aux0.toNat % 16 == 0 && ((ps b.aux0 16).isGlob || (ps b.aux0 16).isOwnCl v) then
        .ok { pieces := one, bytes := b.len, counted := b.len, glob := (ps b.src b.len).isGlob }
      else .error 5
    | _ =>
      let dense := if fn = 4 then b.dst else b.src
      let index := (List.range b.len).map fun i => fieldAt obj (4 * i) 4
      match ps dense 1 with
      | .slice x y o =>
        let l := rowPieces b (fn == 4) x y o index
        if x == v && decide (1 ≤ b.rbytes) && decide (b.rbytes ≤ 32768) && decide (b.rot ≤ 4) &&
            ((ps b.aux0 (4 * b.len)).isGlob || (ps b.aux0 (4 * b.len)).isOwnCl v) && globOk v k (fn == 5) l then
          .ok { pieces := l, rows := b.len, zero := b.len == 0, bytes := pieceBytes l, counted := pieceBytes l, glob := true }
        else .error 5
      | _ => .error 5

/-- Checks 4 to 7 of R266; 0 where none fails. -/
def lateCheck (fn : Nat) (b : Blk) (p : Plan) (k : Cluster) (tid : Nat) : Nat :=
  let key : KeySlot := mget {} k.keys b.kslot
  if b.count && decide (268435455 < p.counted) then 11
  else if isSealed fn && (decide (15 < b.kslot) || !key.valid || key.owner != tid) then 3
  else if isSealed fn && decide (b.aux1.toNat ≤ if fn = 7 then key.lastSeal else key.lastOpen) then 2
  else if fn == 3 && k.mcasts.any (fun m => m.tag == b.tag) then 8
  else 0

/-- The object that a command names: address, size, alignment (R266). -/
def objOf (fn : Nat) (b : Blk) : Word × Nat × Nat :=
  if b.map && decide (fn < 2) then (if fn = 0 then b.src else b.dst, 256, 64)
  else if isRows fn then (b.aux0, 4 * b.len, 4)
  else if fn = 3 then (b.aux0, 512, 8)
  else (0, 0, 1)

/-- The cost of R267. -/
def costOf (fn : Nat) (p : Plan) : Nat :=
  let c := (if p.glob then 1024 else 256) + ceilDiv p.bytes 64
  let c1 := c + p.rows + 64 * (if fn = 3 then p.recv.length else 0)
  if isSealed fn then c1 - ceilDiv p.bytes 64 + ceilDiv p.bytes 16 else c1

/-- The payload of COPYDONE (R268). -/
def doneWord (bytes status : Nat) (block : Word) : Nat :=
  min bytes (2 ^ 32 - 1) + status % 256 * 2 ^ 32 + block.toNat % 2 ^ 56 * 2 ^ 40

/-- Posts a COPYDONE of the engine of a vcluster. -/
def State.postDone (s : State) (vcl slot lid tid tag bytes status : Nat) (block vt : Word) : State :=
  s.launchMsg (unitMsg lid tid 1 tag (slot * 2 ^ 20 + vcl) (doneWord bytes status block) vt)

/-- The costs of a command's reads of global memory, sector by sector (R249). -/
def readCosts (ps : List Piece) : List Nat :=
  (ps.map fun p => match p.src with
    | some va =>
      if isAlias va.toNat || isMesh va.toNat then [] else (sectorPieces (p.len / 256 + 2) va.toNat p.len).map fun x => max 16 x.2
    | none => []).flatten

/-- The lowest command slot that is free. -/
def freeSlot (l : List Cmd) : Nat := ((List.range 64).find? fun i => l.all fun k => k.slot != i).getD 64

/-- A command is accepted: it takes a slot, and a promise (R266, R267, R275, R281). The answer is the promise. -/
def State.acceptCopy (s : State) (fn : Nat) (f : Fld) (va : Word) (b : Blk) (p : Plan) : State × Nat :=
  let c := s.cur
  let t := s.t
  let pcl := pclOf c
  let k := s.clu pcl
  let slot := freeSlot k.cmds
  let P := if p.zero then s.gtime else max s.gtime k.plast + costOf fn p
  let cmd : Cmd :=
    { slot := slot, lid := t.lid, tid := t.tid, fn := fn, block := va, tag := b.tag, count := b.count, pen := nbit b.flags 2,
      qh := b.qh, qseq := b.qseq, kslot := b.kslot, ctr := b.aux1, cls := temporal f, pieces := p.pieces, prep := p.zero,
      units := [], total := p.counted, written := 0, promise := P, fin := s.gtime, vt := t.sys.vt,
      asid := (s.who c).asid, core := coreNo c, priv := t.privileged, tagAt := b.aux0, len := b.len, src := b.src, dst := b.dst,
      status := 0, state := if p.zero then 3 else 0, voided := false, dseq := t.vec.dseq, asks := readCosts p.pieces }
  let key : KeySlot := mget {} k.keys b.kslot
  let keys := match fn with
    | 7 => mset k.keys b.kslot { key with lastSeal := b.aux1.toNat }
    | 8 => mset k.keys b.kslot { key with lastOpen := b.aux1.toNat }
    | _ => k.keys
  let mc := if fn = 3 then k.mcasts ++ [{ tag := b.tag, lid := t.lid, tid := t.tid, wait := p.recv, done := p.zero }] else k.mcasts
  let s1 := s.setClu pcl { k with cmds := k.cmds ++ [cmd], plast := if p.zero then k.plast else P, keys := keys, mcasts := mc }
  (if p.zero then s1.postDone k.vcl slot t.lid t.tid b.tag 0 0 va t.sys.vt else s1, P)

/-- A COPY instruction (R263 to R267). -/
def copy (fn : Nat) (f : Fld) (s : State) : Host.Outcome State Fault Refusal :=
  issue { irrev := true, names := [f.a, f.b] } f s fun s => s.afterStores fun s =>
    let c := s.cur
    let pcl := pclOf c
    let va := s.W f.a
    if 64 ≤ (s.clu pcl).cmds.length then .stop .wait none
    else (s.loadObj va 128 64).res fun s1 raw =>
      let b := parseBlk raw
      let refuse (s : State) (st : Nat) : Res :=
        let t := s.t
        .ok ((s.postDone (s.clu pcl).vcl 64 t.lid t.tid b.tag 0 st va t.sys.vt).setW f.b (BitVec.ofNat 64 s.gtime)).advance
      if b.reserved fn then refuse s1 12
      else
        let o := objOf fn b
        (s1.loadObj o.1 o.2.1 o.2.2).res fun s2 obj =>
          let k := s2.clu pcl
          match planOf fn b obj k.vcl (coreNo c) k.vValid with
          | .error st => refuse s2 st
          | .ok p =>
            let st := lateCheck fn b p k s2.t.tid
            if st ≠ 0 then refuse s2 st
            else let r := s2.acceptCopy fn f va b p; .ok (r.1.setW f.b (BitVec.ofNat 64 r.2)).advance

/-- CFETCH (R265). -/
def execCfetch (f : Fld) (s : State) : Host.Outcome State Fault Refusal := copy 0 f s
/-- CSTORE (R265). -/
def execCstore (f : Fld) (s : State) : Host.Outcome State Fault Refusal := copy 1 f s
/-- CSEND (R265). -/
def execCsend (f : Fld) (s : State) : Host.Outcome State Fault Refusal := copy 2 f s
/-- CMCAST (R265, R278). -/
def execCmcast (f : Fld) (s : State) : Host.Outcome State Fault Refusal := copy 3 f s
/-- CGATH (R265, R277). -/
def execCgath (f : Fld) (s : State) : Host.Outcome State Fault Refusal := copy 4 f s
/-- CSCAT (R265, R277). -/
def execCscat (f : Fld) (s : State) : Host.Outcome State Fault Refusal := copy 5 f s
/-- CSEAL (R265, R281). -/
def execCseal (f : Fld) (s : State) : Host.Outcome State Fault Refusal := copy 7 f s
/-- COPEN (R265, R281). -/
def execCopen (f : Fld) (s : State) : Host.Outcome State Fault Refusal := copy 8 f s

/-- CFREE (R276, R279): a release at device scope, then the issuing cluster leaves the multicast's record. -/
def execCfree (f : Fld) (s : State) : Host.Outcome State Fault Refusal :=
  issue { irrev := true, names := [f.a] } f s fun s =>
    if 64 ≤ (s.clu (pclOf s.cur)).cmds.length then .stop .wait none
    else s.afterRelease true fun s =>
    let x := s.W f.a
    let mine := (s.clu (pclOf s.cur)).vcl
    let free (m : Mcast) : Mcast := if m.tag = bitsOf x 7 0 then { m with wait := m.wait.filter (· != mine) } else m
    .ok (if bitsOf x 63 20 = 0 then s.onVclu s.t.lid (bitsOf x 19 8) fun k => { k with mcasts := k.mcasts.map free } else s).advance

/-- ALLFREE (R279): every receiver has freed the multicast, and its COPYDONE is delivered. -/
def execAllfree (pcl tag : Nat) (s : State) : Host.Outcome State Fault Refusal :=
  let k := s.clu pcl
  .next (match k.mcasts.find? fun m => m.tag == tag && m.done && m.wait.isEmpty && !k.cmds.any (fun x => x.fn == 3 && x.tag == tag) with
    | some m =>
      (s.setClu pcl { k with mcasts := k.mcasts.filter fun x => x.tag != tag }).launchMsg
        (unitMsg m.lid m.tid 7 tag k.vcl tag ones64)
    | none => s)

/-! ## Performing a command (R273, R274, R281) -/

/-- A command of a cluster's engine. -/
def Cluster.cmd (k : Cluster) (slot : Nat) : Option Cmd := k.cmds.find? fun x => x.slot == slot
/-- Sets a command of a cluster. -/
def Cluster.setCmd (k : Cluster) (x : Cmd) : Cluster := { k with cmds := k.cmds.map fun y => if y.slot = x.slot then x else y }
/-- Sets a command. -/
def State.setCmd (s : State) (pcl : Nat) (x : Cmd) : State := s.setClu pcl ((s.clu pcl).setCmd x)

/-- The rights of a command: those of its issuer (R274). -/
def Cmd.who (k : Cmd) (pcl : Nat) : Who :=
  { core := pcl * 16 + k.core, pcl := pcl, asid := k.asid, priv := k.priv, handler := false, steward := false }

/-- The queue that a command counts in: vcluster, core and offset; a multicast's queue has the receiver's vcluster (R278). -/
def Cmd.queueAt (k : Cmd) (vcl : Nat) (recv : Option Nat) : Option (Nat × Nat × Nat) :=
  match spaceOf vcl k.core k.qh 64 with
  | .slice v c o => some (recv.getD v, c, o)
  | _ => none

/-- Sends a counted decrement, or notes that it is discarded (R288). -/
def State.sendDec (s : State) (pcl : Nat) (k : Cmd) (recv : Option Nat) (bytes : Nat) (err : Bool) : State :=
  if !k.count then s
  else match k.queueAt (s.clu pcl).vcl recv with
    | some (v, c, o) =>
      { s with decs := s.decs ++ [{ lid := k.lid, vcl := v, core := c, off := o, qseq := k.qseq, bytes := bytes, err := err,
                                    cvcl := (s.clu pcl).vcl, slot := k.slot }] }
    | none => match (s.clu pcl).cmd k.slot with
      | some x => s.setCmd pcl (if x.status = 0 then { x with status := 9 } else x)
      | none => s

/-- The vclusters to which a multicast's pieces go. -/
def Cmd.receivers (k : Cmd) : List Nat := k.pieces.map fun p => (p.dst.toNat - meshBase) / 2 ^ 19 % 4096

/-- The vcluster of a unit of a slice. -/
def State.unitVcl (s : State) (u : UnitW) : Option Nat :=
  match u.loc with
  | .slice c _ => some (s.clu (c / 16)).vcl
  | _ => none

/-- A command ends early (R274, R288): what it owns is released, and the counted bytes it did not write are decremented. -/
def State.copyEnd (s : State) (pcl : Nat) (k : Cmd) (status : Nat) : State :=
  let s1 := (s.disownAll pcl 0 k.slot).setCmd pcl
    { k with prep := true, units := [], status := status, state := 0, fin := s.gtime }
  if k.fn = 3 then
    let left (v : Nat) : Nat :=
      if k.prep then ((k.units.filter fun u => s.unitVcl u == some v).map (·.n)).foldl (· + ·) 0 else k.total
    k.receivers.foldl (fun (a : State) v => a.sendDec pcl k (some v) (left v) true) s1
  else s1.sendDec pcl k none (k.total - k.written) true

/-- What the pieces of a command read and where they write: the units in its order. -/
def copyPieces (pcl : Nat) (k : Cmd) : List Piece → State → List UnitW → State × Except EngErr (List UnitW)
  | [], s, us => (s, .ok us)
  | p :: ps, s, us =>
    let r := match p.src with
      | some va => s.engRead { code := 2, c := s.ctxOf k.lid k.tid } (k.who pcl) k.cls va p.len
      | none => (s, .ok p.fill)
    match r.2 with
    | .error e => (r.1, .error e)
    | .ok bs =>
      match r.1.engTarget (k.who pcl) p.dst bs us with
      | .error e => (r.1, .error e)
      | .ok us1 => copyPieces pcl k ps r.1 us1

/-- The units of a sealed copy, and whether the tag matches (R281). The unit of CSEAL's tag stands last. -/
def sealUnits (s : State) (pcl : Nat) (k : Cmd) : State × Except EngErr (List UnitW × Bool) :=
  let w := k.who pcl
  let ag : Agent := { code := 2, c := s.ctxOf k.lid k.tid }
  let key : KeySlot := mget {} (s.clu pcl).keys k.kslot
  let kb := beBytes 32 key.key
  let iv := beBytes 4 key.sid ++ beBytes 8 k.ctr.toNat
  let r := s.engRead ag w k.cls k.src k.len
  match r.2 with
  | .error e => (r.1, .error e)
  | .ok text =>
    if k.fn = 7 then
      let c := gcmCrypt kb iv text
      match r.1.engTarget w k.dst c [] with
      | .error e => (r.1, .error e)
      | .ok us =>
        match r.1.engTarget w k.tagAt (gcmTag kb iv c) us with
        | .error e => (r.1, .error e)
        | .ok us1 =>
          let last := match r.1.access w k.tagAt 16 1 { w := true } with | .ok l => unitOf l | .error _ => .phys 0
          (r.1, .ok ((us1.filter fun u => u.loc != last) ++ us1.filter fun u => u.loc == last, true))
    else
      let q := r.1.engRead ag w k.cls k.tagAt 16
      match q.2 with
      | .error e => (q.1, .error e)
      | .ok tag =>
        let good := gcmTag kb iv text == tag
        let plain := if good then gcmCrypt kb iv text else List.replicate k.len 0
        (q.1, (q.1.engTarget w k.dst plain []).map fun us => (us, good))

/-- May the engine start on a command: the interface has sent its reads on (R249); at most 8 are performed at once, in order, and no
unfinished earlier one of the same thread is still to be read (R273, R276); the issuer's vector accesses before it are performed (R219). -/
def State.mayStart (s : State) (pcl : Nat) (k : Cmd) : Bool :=
  let l := (s.clu pcl).cmds
  let before := l.takeWhile fun x => x.slot != k.slot
  k.asks.isEmpty && decide ((l.filter fun x => x.prep && !x.units.isEmpty).length < 8) &&
    before.all (fun x => x.prep || (x.state != 0 && x.tid != k.tid)) &&
    (match s.ctxOf k.lid k.tid with
      | some c => let t := s.thread c; t.lid != k.lid || t.tid != k.tid || !t.vmemBefore k.dseq
      | none => true)

/-- A failed access of a command (R274, R402). -/
def State.copyFail (s : State) (pcl : Nat) (k : Cmd) (e : EngErr) : State :=
  let m := copyMaster pcl k.slot
  match e with
  | .wait => s
  | .fault l r va => let s1 := s.setCmd pcl { k with state := 1 }; s1.makeRec (mkRec s1 m 2 (causeWord cPFAULT 5 l r) va)
  | .prot va => let s1 := s.setCmd pcl { k with state := 2 }; s1.makeRec (mkRec s1 m 1 (causeWord cPROT 5 0 0) va)
  | .dram _ => s.copyEnd pcl k 7

/-- The engine reads a command's sources and takes ownership of its units. -/
def State.copyStart (s : State) (pcl : Nat) (k : Cmd) : State :=
  if isSealed k.fn then
    let r := sealUnits s pcl k
    match r.2 with
    | .error e => r.1.copyFail pcl k e
    | .ok (us, good) =>
      let k1 := { k with prep := true, units := us, status := if good then 0 else 1 }
      let s1 := (r.1.own pcl 0 k.slot us).setCmd pcl { k1 with fin := s.gtime }
      if good then s1 else s1.sendDec pcl k none 0 true
  else
    let r := copyPieces pcl k k.pieces s []
    match r.2 with
    | .error e => r.1.copyFail pcl k e
    | .ok us => (r.1.own pcl 0 k.slot us).setCmd pcl { k with prep := true, units := us, fin := s.gtime }

/-- May unit n of a command be written: CSEAL's last unit comes last, and an earlier command of the same thread that writes the
unit goes first (R273, R281). -/
def State.mayWrite (s : State) (pcl : Nat) (k : Cmd) (n : Nat) (u : UnitW) : Bool :=
  (k.fn != 7 || decide (n + 1 < k.units.length) || k.units.length == 1) &&
    (((s.clu pcl).cmds.takeWhile fun x => x.slot != k.slot).all fun x => x.tid != k.tid || x.units.all fun v => v.loc != u.loc) &&
    s.unitDue u

/-- A command writes its unit at place n, and counts it (R214, R288). -/
def State.copyWrite (s : State) (pcl : Nat) (k : Cmd) (n : Nat) : State :=
  match k.units[n]? with
  | none => s
  | some u =>
    if s.cutFrom pcl u.loc then ({ s with fresh := s.fresh + 1 }).copyFail pcl k (.prot (Config.openAddr s.fresh))
    else if !s.mayWrite pcl k n u then s
    else
      let s1 := (s.writeUnit (s.engWriter k.lid k.tid 2 k.vt) u k.cls).disown pcl 0 k.slot u.loc
      let s2 := s1.setCmd pcl { k with units := k.units.eraseIdx n, written := k.written + u.n, fin := s.gtime }
      s2.sendDec pcl k (if k.fn = 3 then s.unitVcl u else none) u.n false

/-- The copy engine's turn on a command: it starts it, or writes its unit at place n. -/
def State.copyTurn (s : State) (pcl slot n : Nat) : State :=
  match (s.clu pcl).cmd slot with
  | none => s
  | some k =>
    if k.state ≠ 0 then s
    else if k.prep then s.copyWrite pcl k n
    else if s.mayStart pcl k then s.copyStart pcl k else s

/-- A thread that a PROMISE can reach: it runs on some context and is not SAVED (R269). -/
def State.promiseTo (s : State) (lid tid : Nat) : Option Nat :=
  match s.ctxOf lid tid with
  | some c =>
    let t := s.thread c
    if t.lid = lid ∧ t.tid = tid ∧ t.st ≠ .empty ∧ t.st ≠ .done ∧ t.st ≠ .saved then some c else none
  | none => none

/-- COPY_COMPLETE (R268, R269): the last write is performed and every decrement has been applied; COPYDONE is posted, and a
PROMISE is raised where the promise is broken. -/
def execCopyComplete (pcl slot : Nat) (s : State) : Host.Outcome State Fault Refusal :=
  .next (match (s.clu pcl).cmd slot with
    | none => s
    | some k =>
      if k.state ≠ 0 ∨ !k.prep ∨ !k.units.isEmpty ∨ s.decs.any (fun d => d.lid == k.lid && d.cvcl == (s.clu pcl).vcl && d.slot == slot) then s
      else
        let s1 := s.setCmd pcl { k with state := 3 }
        let s2 := s1.postDone (s.clu pcl).vcl slot k.lid k.tid k.tag k.written k.status k.block k.vt
        let q := s2.clu pcl
        let s3 := if k.fn = 3 then
            s2.setClu pcl { q with mcasts := q.mcasts.map fun m => if m.tag = k.tag then { m with done := true } else m } else s2
        match (if k.pen && !k.voided && decide (k.promise < k.fin) then s3.promiseTo k.lid k.tid else none) with
        | some c => let t := s3.thread c; s3.setThread c { t with promise := t.promise ++ [k.block] }
        | none => s3)

end Sys2Proof.Machine
end

