-- ==== Sys2Proof/Machine/EvMem.lean ====
section
/-! DEFINITION. The memory events: a load's data returns, a store is performed, a reservation is granted, buffered stores
drain, a fetch block arrives, a page is walked. An event that is not enabled leaves the machine as it is. -/

namespace Sys2Proof.Machine

/-- Has the network interface sent an access of path p on, where it has to (R249)? -/
def sentOn (c p : Nat) (l : Loc) (sent : Bool) : Bool := sent || decide (p < 2) || isSteward c || !l.dram

/-- A blocking access ends: its result is in place, and the thread goes on in the next cycle at the earliest (R225). -/
def State.endPend (s : State) (c : Nat) (p : Pend) : State :=
  let t := s.thread c
  let s1 := s.setThread c { t with pend := none, pc := p.next, notBefore := max t.notBefore (s.gtime + 1) }
  if p.acq then s1.acquire c else s1

/-- A blocking access traps: everything but the named partial effects is as before the instruction (R7, R225). -/
def State.failPend (s : State) (c : Nat) (p : Pend) (e : Stop) : State :=
  let t := s.thread c
  let s1 := { s.setThread c { t with pend := none, win := p.win } with cur := c }
  s1.stopped e s1

/-- Is every earlier instruction of a context complete, so that a trap may be recorded (R125)? -/
def State.complete (s : State) (c : Nat) : Bool := decide ((s.thread c).completeAt ≤ s.gtime)

/-- The cycle from which the result of a load is usable whose data returns now (R225): c + 3 where the own slice serves it at once, and
no sooner where it serves it later. -/
def Pend.usableAt (p : Pend) (now : Nat) : Nat := if isAlias p.va.toNat then max (p.t0 + 3) (now + 1) else now + 1

/-- A load's value is written to W[d] (R222, R225, R228), and the thread's next instruction can issue when it is usable. -/
def State.finishLoad (s : State) (c : Nat) (p : Pend) (v : Nat) : State :=
  let t := (s.thread c).setW p.d (extend p.sx p.size v)
  (s.setThread c { t with notBefore := p.usableAt s.gtime }).endPend c p

/-- May a load be answered: by a usable copy, else by its home, which it reaches in the order of its path (R207 to R211)? -/
def State.loadServable (s : State) (c path : Nat) (l : Loc) (n cls sq : Nat) (sent home : Bool) : Bool :=
  sentOn c path l sent && s.loadReady c l n cls home && s.pathClearBefore c path l sq

/-- The data of a blocking load returns (R210, R220, R225): a usable copy, or the home. `lease` is the length of the lease that
the home grants, of R210. -/
def State.loadReturn (s : State) (c lease : Nat) : State :=
  match (s.thread c).pend with
  | none => s
  | some p =>
    if p.kind ≠ 1 then s
    else
      let home := s.atHome c p.op
      match (if home then none else s.l1Usable (pclOf c) p.loc p.t0 p.rh.toNat) with
      | some x => (s.l1Use (pclOf c) x).finishLoad c p (x.at_ p.loc p.size)
      | none =>
        if !s.loadServable c (p.path c) p.loc p.size p.cls p.sq p.sent home then s
        else match s.homeLoad 1 c p.loc p.size p.cls home lease with
          | none => s
          | some (s1, bad, v) =>
            if bad then (if s.complete c then s1.failPend c p (.trap cDRAMERR 0 0 0 p.va) else s) else s1.finishLoad c p v

/-- The value that a vector load writes (R200): 16 bytes, or an element in every lane. -/
def SeqEnt.loaded (e : SeqEnt) (v : Nat) : V128 :=
  if e.fn = 4 then let w := 8 * e.memSize; ofLanes w (List.replicate (128 / w) v) else BitVec.ofNat 128 v

/-- The cycle from which a vector load's result is usable (R177): c + 4 where the own slice serves it at once, in the first cycle after
its issue, and later otherwise. -/
def VMem.usableAt (x : VMem) (now : Nat) : Nat :=
  if isAlias x.addr.toNat ∧ now ≤ x.t0 + 1 then x.t0 + 4 else max (x.t0 + 5) (now + 1)

/-- A vector access is over (R173, R176). -/
def Vec.endMem (v : Vec) (sq : Nat) : Vec := { v with mem := v.mem.filter fun x => x.sq != sq }

/-- A vector load's data is in its register (R200, R210). -/
def State.vecLoaded (s : State) (c : Nat) (x : VMem) (v : Nat) : State :=
  let t := (s.thread c).writeV x.e.f.a.toNat (x.e.loaded v)
  let d := x.e.f.a.toNat
  s.setThread c { t with vec := { t.vec.endMem x.sq with
    rdy := (d, x.usableAt s.gtime) :: t.vec.rdy.filter fun p => p.1 != d && decide (s.gtime < p.2) } }

/-- The data of a vector load returns (R176, R180, R210), or a VDRAMERR is found (R182): the load's destination stays as it is. -/
def State.vecReturn (s : State) (c i lease : Nat) : State :=
  match (s.thread c).vec.mem[i]? with
  | none => s
  | some x =>
    if x.store then s
    else
      let n := x.e.memSize
      let cls := x.e.f.h.toNat / 256
      let home := s.atHome c 0
      match (if home then none else s.l1Usable (pclOf c) x.loc x.t0 (s.thread c).sys.rh.toNat) with
      | some y => (s.l1Use (pclOf c) y).vecLoaded c x (y.at_ x.loc n)
      | none =>
        if !s.loadServable c (pathOf c x.addr x.loc) x.loc n cls x.sq x.sent home then s
        else match s.homeLoad 2 c x.loc n cls home lease with
          | none => s
          | some (s1, bad, v) =>
            if bad then
              let t := s1.thread c
              (s1.setThread c { t with vec := t.vec.endMem x.sq }).vecFault c x.e 4 x.addr false
            else s1.vecLoaded c x v

/-- The number that LOAD_DATA_RETURN gives vector access i of a context; a context's own number stands for its blocking load. -/
def vecAccess (c i : Nat) : Nat := c + 2 ^ 20 * (i + 1)

/-- LOAD_DATA_RETURN (R176, R225): of a context's blocking load, or of one of its vector accesses. -/
def execLoadDataReturn (pid lease : Nat) (s : State) : Host.Outcome State Fault Refusal :=
  .next (if decide (2 ^ 20 ≤ pid) && (s.thread pid).pend.isNone then s.vecReturn (pid % 2 ^ 20) (pid / 2 ^ 20 - 1) lease
    else s.loadReturn pid lease)

/-- May the store at place n of a path be performed now? The stores of the stream unit's ring are performed in its order (R305). An AREL's
write belongs to a reservation that was granted before any engine's ownership, so it does not wait for owners (log entry 28). -/
def State.storeEnabled (s : State) (k p n : Nat) : Bool :=
  match ((s.core k).path p)[n]? with
  | none => false
  | some o =>
    (if o.arel then !s.reserved (some o.c) o.loc o.size && !s.leaseHolds o.loc && s.dramReady o.loc o.size && !s.cutFor (some o.c) o.loc
      else s.ready (some o.c) o.loc o.size true) && s.pathClearBefore o.c p o.loc o.sq && sentOn o.c p o.loc o.sent &&
      (p != 3 || (((s.core k).path p).take n).all fun x => x.c != o.c)

/-- What the performing of a store ends (R173, R230): an AREL's reservation, a vector access. -/
def State.storeEnds (s : State) (o : PathOp) : State :=
  let s1 := if o.arel then { s with resv := s.resv.filter fun r => !(r.loc == o.loc && r.holder == o.c) } else s
  if o.vec then let t := s1.thread o.c; s1.setThread o.c { t with vec := t.vec.endMem o.sq } else s1

/-- A store of a path is performed at its home (R207 to R211); an AREL's write ends its reservation (R230), and an sc store's
write ends its thread's wait. -/
def State.storeHome (s : State) (k p n : Nat) : State :=
  match ((s.core k).path p)[n]? with
  | none => s
  | some o =>
    if !s.storeEnabled k p n then s
    else
      let x := s.core k
      let s1 := s.setCore k (x.setPath p ((x.path p).eraseIdx n))
      let s2 := s1.homeWrite { c := some o.c, vt := o.vt } o.loc (leBytes o.size o.v) o.cls
      let s3 := s2.storeEnds o
      match (s3.thread o.c).pend with
      | some q => if 5 ≤ q.kind ∧ q.sq = o.sq then s3.endPend o.c { q with acq := q.kind == 5 } else s3
      | none => s3

/-- STORE_AT_HOME (R207): the store at place n of a path of a core; path 0 is the port to the own slice, 1 the loop-back port, 2 the
request ring, 3 the stream unit's ring. -/
def execStoreAtHome (core path n : Nat) (s : State) : Host.Outcome State Fault Refusal := .next (s.storeHome core path n)

/-- A vector register with one 32-bit lane replaced. -/
def setLane32 (v : V128) (k x : Nat) : V128 :=
  ofLanes 32 ((List.range 4).map fun i => if i = k then x else lane 32 v i)

/-- An atomic is performed at its home: it reads, computes and writes with no access between (R233). -/
def State.doAmo (s : State) (c : Nat) (p : Pend) (old : Nat) : State :=
  let new := amoNew p.op p.size old p.opnd.toNat p.new.toNat
  let s1 := (s.homeWrite { s.writer c with request := false } p.loc (leBytes p.size new) p.cls).storeDrop c p.loc
  let t := s1.thread c
  if p.kind = 3 then (s1.setThread c (t.setW p.d (extend p.sx p.size old))).endPend c p
  else
    let x := (extend p.sx p.size old).toNat % 2 ^ 32
    let t1 := t.writeV (p.d + 1) (setLane32 (t.vr (p.d + 1)) p.lane x)
    let t2 := { t1 with pend := none, sys := { t1.sys with tamask := t1.sys.tamask ||| BitVec.ofNat 64 (2 ^ p.lane) } }
    let s2 := { s1.setThread c t2 with cur := c }
    match (s2.vamoNext p.rh p.d p).keepWin p.win with
    | .ok s3 => s3
    | .stop e q => (q.getD s2).stopped e (q.getD s2)

/-- A reservation arrives at its home, in the order of its path (R208, R230), and stands among those that wait there. -/
def State.arriveHome (s : State) (c : Nat) (p : Pend) : State :=
  if !s.rsvq.contains c && sentOn c 2 p.loc p.sent && s.pathClearBefore c 2 p.loc p.sq then { s with rsvq := s.rsvq ++ [c] } else s

/-- Is a context's reservation at the head at its home (R230, R221): it has arrived, none that arrived earlier waits there, and no hold
stands there? -/
def State.atHead (s : State) (c : Nat) (p : Pend) : Bool :=
  let d := s.dest p.loc
  s.rsvq.contains c &&
  ((s.rsvq.takeWhile fun x => x != c).all fun x => match (s.thread x).pend with
    | some q => decide (q.kind < 2) || decide (4 < q.kind) || s.dest q.loc != d
    | none => true) &&
  s.resv.all fun r => s.dest r.loc != d

/-- The read of a reservation at the head, and what follows it (R230, R233, R235): an ARSV's thread holds the word, an atomic is
performed. -/
def State.grantRead (s : State) (c : Nat) (p : Pend) : State :=
  let old := s.valueAt p.loc p.size
  let r := s.homeRead { code := 1, c := some c } p.loc p.size p.cls
  if r.2 then r.1.failPend c p (.trap cDRAMERR 3 0 0 p.va)
  else if p.kind = 2 then
    let v : Resv := { loc := p.loc, size := p.size, holder := c }
    let h : Hold := { loc := p.loc, va := p.va, size := p.size, count := 0 }
    let s1 := { r.1.storeDrop c p.loc with resv := r.1.resv ++ [v] }
    let t := (s1.thread c).setW p.d (extend p.sx p.size old)
    (s1.setThread c { t with hold := some h }).endPend c p
  else r.1.doAmo c p old

/-- Does the completer of host memory take AtomicOps (R234)? That is the completer's, and open (log entry 10). -/
def State.atomicRefused (s : State) (p : Pend) : Bool :=
  match p.loc with
  | .phys pa => p.kind != 2 && (match s.backing pa with
      | .host e off => Config.atomicRefused e off p.op p.size
      | _ => false)
  | _ => false

/-- A reservation goes on: it arrives at its home, and at the head it is granted (R230). An AtomicOp that its completer does not support
freezes the master (R234). -/
def State.grant (s : State) (c : Nat) : State :=
  match (s.thread c).pend with
  | none => s
  | some p =>
    if p.kind < 2 ∨ 4 < p.kind then s
    else
      let s := s.arriveHome c p
      if !(s.atHead c p && s.ready (some c) p.loc p.size true) || (!s.complete c && (s.atomicRefused p || s.readsBad p.loc p.size)) then s
      else
        let s := { s with rsvq := s.rsvq.erase c }
        if s.atomicRefused p then s.failPend c p (.freeze 3 p.va) else s.grantRead c p

/-- RESERVATION_GRANT (R230). -/
def execReservationGrant (pid : Nat) (s : State) : Host.Outcome State Fault Refusal := .next (s.grant pid)

/-- Clears a context's tags and marks (R380). -/
def State.dropMarks (s : State) (c : Nat) : State := { s with marks := s.marks.filter fun m => m.c != c }

/-- Does an address lie in a vcluster that is being moved (R71)? -/
def State.moving (s : State) (c : Nat) (va : Word) (n : Nat) : Bool :=
  match s.access (s.who c) va n 1 { w := true } with
  | .error .hold => true
  | _ => false

/-- The next buffered store of a thread that is no longer speculative is performed; with the last its tags and marks clear
(R380). A conflict found stops the drain. -/
def State.drain (s : State) (c : Nat) : State :=
  let t := s.thread c
  if s.speculative c || t.spec.abort then s
  else match t.spec.sb with
    | [] => s.dropMarks c
    | e :: es =>
      if s.moving c e.va e.size then s
      else if !(s.ready (some c) e.loc e.size true && s.pathClear c (pathOf c e.va e.loc) e.loc) then s
      else
        let s1 := s.setThread c { t with spec := { t.spec with sb := es } }
        let s2 := s1.storeNow c e.loc e.size e.v e.cls
        if es.isEmpty then s2.dropMarks c else s2

/-- STORE_DRAIN (R380). -/
def execStoreDrain (pid : Nat) (s : State) : Host.Outcome State Fault Refusal := .next (s.drain pid)

/-! ## Fetch and walks -/

/-- An asynchronous cause is pending and may be taken (R393): a late fault, a PROMISE, or a PREEMPT. -/
def Thread.asyncReady (t : Thread) : Bool :=
  t.mode == .user && !t.act && (!t.vec.late.isEmpty || !t.promise.isEmpty || t.preempt.isSome)

/-- The block that holds an address. -/
def blockOf64 (pc : Word) : Nat := pc.toNat / 64 * 64

/-- Does the cluster's front end hold the block of an address? -/
def State.haveBlock (s : State) (c : Nat) (pc : Word) : Bool := (s.clu (pclOf c)).fblocks.contains (blockOf64 pc)

/-- A fetch fails at the first instruction that needs its block (R77). -/
def State.fetchFails (s : State) (c : Nat) (e : Stop) : State := let s1 := { s with cur := c }; s1.stopped e s1

/-- A fetch block arrives, or its fetch fails (R77): what DRAM reports of the read is counted, and an uncorrectable error is raised as that
of a load (R256). -/
def State.fetchArrive (s : State) (c : Nat) : State :=
  let t := s.thread c
  if t.st ≠ .run || t.asyncReady || s.haveBlock c t.pc then s
  else match s.fetchAccess c t.pc with
    | .error .hold => s
    | .error e => s.fetchFails c (e.stop 2 t.pc)
    | .ok l =>
      if !s.dramReady l 2 then s
      else
        let n := 64 - t.pc.toNat % 64
        let r := s.homeRead { code := 1, c := some c } l n 0
        if r.2 then r.1.fetchFails c (.trap cDRAMERR 2 0 0 t.pc)
        else
          let k := r.1.clu (pclOf c)
          r.1.setClu (pclOf c) { k with fblocks := blockOf64 t.pc :: k.fblocks }

/-- FETCH_BLOCK_ARRIVAL (R77). -/
def execFetchBlockArrival (pid : Nat) (s : State) : Host.Outcome State Fault Refusal := .next (s.fetchArrive pid)

/-- The addresses that a walk reads from a table on, at most one for each level (R396). -/
def State.walkPath (s : State) (va : Nat) : Nat → Nat → List Nat
  | level, table =>
    let pa := table + 8 * (if level = 4 then va / 2 ^ 48 % 256 else va / 2 ^ (12 + 9 * level) % 512)
    let e := s.readAt (.phys pa) 8
    pa :: match level with
      | 0 => []
      | n + 1 => if nbit e 0 && !nbit e 1 && !s.readsBad (.phys pa) 8 then s.walkPath va n (e / 2 ^ 12 % 2 ^ 40 * 2 ^ 12) else []

/-- A walk reads its entries at their homes (R397): what DRAM reports of them is counted (R256). -/
def State.walkReadAll (s : State) (asid va : Nat) : State :=
  let ps := if s.asRoot asid = 0 then [] else s.walkPath va 4 (s.asRoot asid)
  ((s.astab + 32 * asid) :: ps).foldl (fun (a : State) pa => (a.homeRead { code := 0 } (.phys pa) 8 0).1) s

/-- The page that a miss names, in the least size (R396, R398). -/
def pageOf (va : Nat) : Nat := va / 4096 * 4096

/-- The addresses that a thread needs translated: its PC while it runs, that of its access under way. -/
def Thread.needs (t : Thread) : List Nat :=
  (if t.st = .run then [t.pc.toNat] else []) ++ (match t.pend with | some p => [p.va.toNat] | none => [])

/-- The cores of a cluster that need a page. -/
def State.coresNeeding (s : State) (m : Miss) : List Nat :=
  (s.thr.filterMap fun (x : Nat × Thread) =>
    if !isSteward x.1 && pclOf x.1 == m.pcl && x.2.sys.asid.toNat % 2 ^ 16 == m.asid && x.2.needs.any (fun v => pageOf v == m.page) then
      some (coreId x.1) else none).eraseDups

/-- A translation enters a TLB of 32 entries, of a core, or of 1,024, of a cluster; the oldest entry makes room (R398). -/
def tlbFill (l : List TlbEnt) (e : TlbEnt) : List TlbEnt :=
  let own (x : TlbEnt) : Bool := x.pcl == e.pcl && x.core == e.core
  e :: ((l.filter fun x => own x && !(x.asid == e.asid && x.va == e.va)).take (if e.core.isSome then 31 else 1023) ++
    l.filter fun x => !own x)

/-- PAGE_WALK (R396 to R398): a walk ends, and with it the misses that joined it. The translation it finds enters the TLBs of the cores
that need the page and their cluster's; a failed walk leaves nothing, and one that must wait for memory goes on. -/
def execPageWalk (pcl asid va : Nat) (s : State) : Host.Outcome State Fault Refusal :=
  let m : Miss := { pcl := pcl, asid := asid, page := pageOf va }
  match s.walk (some pcl) asid va with
  | .ok p =>
    let e : TlbEnt := { pcl := pcl, asid := asid, va := p.va, size := p.size, pa := p.pa, k := p.k, x := p.x, w := p.w, r := p.r }
    let l := (s.coresNeeding m).foldl (fun l k => tlbFill l { e with core := some k }) s.tlb
    .next { s.walkReadAll asid va with tlb := tlbFill l e, walks := s.walks.filter (· != m) }
  | .error .hold => .next s
  | .error _ => .next { s with walks := s.walks.filter (· != m) }

end Sys2Proof.Machine
end

