-- ==== Sys2Proof/Machine/Streams.lean ====
section
/-! DEFINITION. Page 4: fibre descriptors, the stream registers, their checks, combinators and output (R295 to R323), and the
residency of stream contexts (R300, R302). -/

namespace Sys2Proof.Machine

/-! ## Descriptors (R295 to R297) -/

/-- A level entry of a fibre descriptor. -/
structure Lev where
  kind : Nat
  nu : Bool
  size : Nat
  pos : Nat
  crd : Nat
  ncrd : Nat
deriving DecidableEq, Repr

/-- Level l of a descriptor. -/
def levOf (d : List Byte) (l : Nat) : Lev :=
  let o := 0x10 + 32 * l
  { kind := fieldAt d o 1, nu := nbit (fieldAt d (o + 1) 1) 0, size := fieldAt d (o + 4) 4, pos := fieldAt d (o + 8) 8,
    crd := fieldAt d (o + 16) 8, ncrd := fieldAt d (o + 24) 4 }

/-- NLEV of a descriptor. -/
def fibLevels (d : List Byte) : Nat := fieldAt d 9 1
/-- E: the bytes of a value (R295). -/
def fibWidth (d : List Byte) : Nat := tyBits (fieldAt d 8 1 % 16) / 8
/-- VALS of a descriptor. -/
def fibVals (d : List Byte) : Nat := fieldAt d 0 8

/-- A canonical global address (R203). -/
def isGlobal (a : Nat) : Bool := decide (a < 2 ^ 56) && !isAlias a && !isMesh a

/-- Are the arrays of a level as R295 and R297 ask? -/
def Lev.arraysOk (x : Lev) : Bool :=
  match x.kind with
  | 0 => x.pos == 0 && x.crd == 0 && x.ncrd == 0
  | 1 => isGlobal x.pos && isGlobal x.crd && x.pos % 4 == 0 && x.crd % 4 == 0
  | 2 => isGlobal x.pos && isGlobal x.crd && x.pos % 8 == 0 && x.crd % 4 == 0 && x.ncrd == 0
  | _ => x.pos == 0 && isGlobal x.crd && x.crd % 4 == 0

/-- Is level l of a descriptor valid (R297)? -/
def levOk (d : List Byte) (l : Nat) : Bool :=
  let o := 0x10 + 32 * l
  let x := levOf d l
  let up := levOf d (l - 1)
  if fibLevels d ≤ l then zeroAt d o 32
  else
    decide (x.kind ≤ 3) && decide (fieldAt d (o + 1) 1 ≤ 1) && zeroAt d (o + 2) 2 && zeroAt d (o + 0x1C) 4 && decide (1 ≤ x.size) &&
    (x.kind == 1 || !x.nu) && x.arraysOk &&
    (x.kind != 3 || (decide (0 < l) && (up.kind == 3 || (up.kind == 1 && up.nu)))) &&
    (!(x.kind == 1 && x.nu) || (decide (l + 1 < fibLevels d) && (levOf d (l + 1)).kind == 3))

/-- Is a descriptor valid (R297)? -/
def fibreOk (d : List Byte) : Bool :=
  let vt := fieldAt d 8 1
  decide (vt < 16) && vt != 13 && vt != 15 && decide (1 ≤ fibLevels d) && decide (fibLevels d ≤ 6) && zeroAt d 10 6 &&
  zeroAt d 0xD0 48 && isGlobal (fibVals d) && fibVals d % fibWidth d == 0 && (List.range 6).all (levOk d)

/-! ## Registers and their images (R298) -/

/-- A stream register of a thread. -/
def Thread.sr (t : Thread) (n : Nat) : Strm := mget {} t.strm n
/-- Sets a stream register. -/
def Thread.setSr (t : Thread) (n : Nat) (r : Strm) : Thread := { t with strm := mset t.strm n r }
/-- A stream register of the context in execution. -/
def State.sr (s : State) (n : Nat) : Strm := s.t.sr n
/-- Sets a stream register of the context in execution. -/
def State.setSr (s : State) (n : Nat) (r : Strm) : State := s.setT (s.t.setSr n r)

/-- The image of a register (R298). -/
def Strm.image (r : Strm) : List Byte :=
  leBytes 8 (r.mode + r.level * 2 ^ 8 + (b2n r.done + b2n r.fpend * 2 + r.fkind * 4 + r.fsub * 16) * 2 ^ 16 + r.cls * 2 ^ 24 +
    r.ina * 2 ^ 32 + r.inb * 2 ^ 40 + r.phase * 2 ^ 48) ++
  leBytes 8 r.desc.toNat ++ leBytes 8 r.parent.toNat ++ leBytes 8 r.posn.toNat ++ leBytes 8 r.send.toNat ++
  leBytes 8 r.crdv.toNat ++ leBytes 8 r.aux.toNat ++ leBytes 8 r.fpos.toNat

/-- A word of an image. -/
def wordAt (b : List Byte) (o : Nat) : Word := BitVec.ofNat 64 (fieldAt b o 8)

/-- The register that an image makes, with every fault record cleared (R302, R313). -/
def strmOfImage (b : List Byte) : Strm :=
  { mode := fieldAt b 0 1, level := fieldAt b 1 1 % 8, done := nbit (fieldAt b 2 1) 0, cls := fieldAt b 3 1 % 4, ina := fieldAt b 4 1,
    inb := fieldAt b 5 1, phase := fieldAt b 6 1, desc := wordAt b 8, parent := wordAt b 0x10, posn := wordAt b 0x18,
    send := wordAt b 0x20, crdv := wordAt b 0x28, aux := wordAt b 0x30 }

/-- Does SLOAD refuse an image for register n (R313)? -/
def badImage (n : Nat) (b : List Byte) : Bool :=
  let m := fieldAt b 0 1
  let x := fieldAt b 4 1
  let y := fieldAt b 5 1
  decide (4 < m) || decide (8 ≤ fieldAt b 1 1) || decide (128 ≤ fieldAt b 2 1) || decide (4 ≤ fieldAt b 3 1) || fieldAt b 7 1 != 0 ||
  decide (6 ≤ fieldAt b 1 1 % 8) ||
  ((m == 2 || m == 3) && (decide (7 < x) || decide (7 < y) || x == y || x == n || y == n))

/-- Clears the fault record. -/
def Strm.clearRec (r : Strm) : Strm := { r with fpend := false, fkind := 0, fsub := 0, fpos := 0, faddr := 0, fwalk := 0 }
/-- Discards the lookahead and the fault record (R308). -/
def Strm.forget (r : Strm) : Strm := { r.clearRec with look := [] }
/-- Is the register a combinator? -/
def Strm.isComb (r : Strm) : Bool := r.mode == 2 || r.mode == 3

/-- The trap MALFORM (R306). -/
def malf (sub addr : Nat) : Stop := .trap cMALFORM 0 0 0 (BitVec.ofNat 64 (sub * 2 ^ 56 + addr % 2 ^ 56))

/-! ## Reads (R300, R307) -/

/-- The stop that a fault record stands for (R307). -/
def Strm.recorded (r : Strm) : Stop :=
  match r.fkind with
  | 0 => .trap cPFAULT 0 (r.fwalk / 16) (r.fwalk % 16) r.faddr
  | 1 => .trap cDRAMERR 0 0 0 r.faddr
  | 2 => malf r.fsub r.faddr.toNat
  | _ => .freeze 0 r.faddr

/-- An entry of n bytes of a register's arrays: as the lookahead met it, else read now as a plain load of the thread. -/
def State.entry (s : State) (r : Strm) (addr n : Nat) : Got Nat :=
  let va := BitVec.ofNat 64 addr
  if r.fpend && r.fkind != 2 && r.faddr == va then .stop r.recorded none
  else match r.look.find? (fun (p : Nat × Nat) => p.1 == addr) with
    | some p => .ok s p.2
    | none =>
      match s.check va n { r := true } 0 with
      | .error e => .stop e none
      | .ok l => s.loadAs 4 s.cur va l n r.cls 0

/-- The descriptor of a register: the one that its open read; after SLOAD or a reload it is read at its first use. -/
def State.fibre (s : State) (r : Strm) : Got (List Byte) :=
  if r.dsc.isEmpty then
    (s.loadObjAs 4 r.cls r.desc 256 64).bind fun s1 d =>
      if !fibreOk d || decide (fibLevels d ≤ r.level) then .stop (malf 7 r.desc.toNat) none else .ok s1 d
  else .ok s r.dsc

/-- Coordinate array entry q of a C or S level, with the check POSOUT (R306). -/
def State.crdEntry (s : State) (r : Strm) (x : Lev) (q : Nat) : Got Nat :=
  if x.ncrd ≤ q then .stop (malf 4 (x.crd + 4 * q)) none else s.entry r (x.crd + 4 * q) 4

/-- START of a D fibre: p SIZE. -/
def Strm.dStart (r : Strm) (x : Lev) : Nat := r.parent.toNat * x.size % 2 ^ 64

/-- The coordinate of position q of a D, C or S level and the address of its entry. -/
def State.coord (s : State) (r : Strm) (x : Lev) (q : Nat) : Got (Nat × Nat) :=
  if x.kind = 0 then .ok s ((q + (2 ^ 64 - r.dStart x % 2 ^ 64)) % 2 ^ 64, 0)
  else (s.crdEntry r x q).bind fun s1 c => .ok s1 (c, x.crd + 4 * q)

/-- The address of the bitmap word that holds bit b of a B fibre (R296). -/
def bitWord (r : Strm) (x : Lev) (b : Nat) : Nat := x.pos + 8 * ((x.size + 63) / 64) * r.parent.toNat + 8 * (b / 64)

/-- Where the position or count entries of a level's positions stand, where it has such (R296). -/
def Lev.ends (y : Lev) : Option Nat := if y.kind = 1 then some y.pos else if y.kind = 2 then some y.crd else none

/-- Does an entry that the lookahead read lie behind position q: one of its level's own, or of the level below (R300)? -/
def Strm.behind (r : Strm) (x : Lev) (q aux a : Nat) : Bool :=
  let lo := if x.kind = 2 then bitWord r x 0 else x.crd
  let hi := if x.kind = 2 then bitWord r x aux else x.crd + 4 * q
  let y := levOf r.dsc (r.level + 1)
  (decide (lo ≤ a) && decide (a < hi)) || match y.ends with
    | some b => decide (b ≤ a) && decide (a < b + 4 * q)
    | none => y.kind == 3 && decide (y.crd ≤ a) && decide (a < y.crd + 4 * q)

/-- The register at position q with coordinate c: what the record and the lookahead keep of what lies behind (R307). -/
def Strm.moveTo (r : Strm) (x : Lev) (q c aux : Nat) : Strm :=
  let r1 := { r with posn := BitVec.ofNat 64 q, crdv := BitVec.ofNat 64 c, aux := BitVec.ofNat 64 aux,
                     look := r.look.filter fun (p : Nat × Nat) => !r.behind x q aux p.1 }
  if r1.fpend && decide (r1.fpos.toNat < q) then r1.clearRec else r1

/-- The register exhausted (R299). -/
def Strm.exhaust (r : Strm) : Strm := { r.forget with posn := r.send, done := true, crdv := ones64, aux := 0 }

/-- Consumes position q with coordinate c, read at address `a`, after the element (c', q') (R306, R307). -/
def State.consume (s : State) (r : Strm) (d : List Byte) (q c a aux : Nat) (prev : Option (Nat × Nat)) : Got Strm :=
  let x := levOf d r.level
  let r1 := r.moveTo x q c aux
  if x.size ≤ c then .stop (malf 2 a) none
  else match prev with
    | none => .ok s r1
    | some (pc, pq) =>
      if x.kind ≠ 1 || decide (pc < c) then .ok s r1
      else if !x.nu || decide (c < pc) then .stop (malf 1 a) none
      else
        let y := levOf d (r.level + 1)
        (s.crdEntry r y q).bind fun s1 sc => (s1.crdEntry r y pq).bind fun s2 sp =>
          if sc < sp then .stop (malf 1 a) none
          else if sc = sp ∧ q = pq + 1 then .stop (malf 6 a) none
          else .ok s2 r1

/-! ## Bitmaps (R296) -/

/-- The lowest set bit of a 64-bit word. -/
def lowBit (v : Nat) : Nat := ((List.range 64).find? (nbit v)).getD 64

/-- The first set bit from `b` on of a bitmap of so many words left, with the address of its word; one at or above SIZE is
RANGE. -/
def State.nextBit (r : Strm) (x : Lev) (base : Nat) : Nat → Nat → State → Got (Option (Nat × Nat))
  | 0, _, s => .ok s none
  | n + 1, b, s =>
    let a := base + 8 * (b / 64)
    (s.entry r a 8).bind fun s1 w =>
      let v := w / 2 ^ (b % 64)
      if v = 0 then State.nextBit r x base n (b / 64 * 64 + 64) s1
      else
        let c := b + lowBit v
        if x.size ≤ c then .stop (malf 2 a) none else .ok s1 (some (c, a))

/-- The next set bit of a B fibre from `b` on. -/
def State.bitFrom (s : State) (r : Strm) (x : Lev) (b : Nat) : Got (Option (Nat × Nat)) :=
  let w := (x.size + 63) / 64
  State.nextBit r x (x.pos + 8 * w * r.parent.toNat) (w - b / 64) b s

/-- The address of the count entry that ends a B fibre. -/
def Strm.cntEnd (r : Strm) (x : Lev) : Nat := x.crd + 4 * (r.parent.toNat + 1)

/-- Walks a B fibre until n elements are passed or a coordinate reaches `key`; the check BITCNT is made on each step, the others
on the landing (R306, R318, R319). `q` and `b` are the position and bit reached. -/
def State.bitWalk (r : Strm) (d : List Byte) (key : Nat) (prev : Option (Nat × Nat)) : Nat → Nat → Nat → Nat → State → Got Strm
  | 0, _, _, _, s => .ok s r
  | fuel + 1, n, q, b, s =>
    let x := levOf d r.level
    (s.bitFrom r x b).bind fun s1 o =>
      match o with
      | none => if q = r.send.toNat then .ok s1 r.exhaust else .stop (malf 5 (r.cntEnd x)) none
      | some (c, a) =>
        if r.send.toNat ≤ q then .stop (malf 5 (r.cntEnd x)) none
        else if n ≤ 1 ∨ key ≤ c then s1.consume r d q c a c prev
        else State.bitWalk r d key prev fuel (n - 1) (q + 1) (c + 1) s1

/-- Steps left in a register. -/
def Strm.left (r : Strm) : Nat := r.send.toNat - r.posn.toNat

/-! ## Opening and moving (R310, R316, R318, R319) -/

/-- START and END of the fibre of a register's parent (R296), with the check POSDEC. -/
def State.fibreEnds (s : State) (r : Strm) (x : Lev) : Got (Nat × Nat) :=
  let p := r.parent.toNat
  match x.kind with
  | 0 => .ok s (r.dStart x, (r.dStart x + x.size) % 2 ^ 64)
  | 3 => .ok s (p, (p + 1) % 2 ^ 64)
  | k =>
    let a := (if k = 1 then x.pos else x.crd) + 4 * p
    (s.entry r a 4).bind fun s1 st => (s1.entry r (a + 4) 4).bind fun s2 en =>
      if en < st then .stop (malf 3 (a + 4)) none else .ok s2 (st, en)

/-- Step 3 of R310: opens the fibre of a register whose level, parent, descriptor and class are set. -/
def State.openRead (s : State) (r : Strm) (d : List Byte) : Got Strm :=
  let x := levOf d r.level
  (s.fibreEnds r x).bind fun s1 e =>
    let r1 := { r with posn := BitVec.ofNat 64 e.1, send := BitVec.ofNat 64 e.2 }
    if x.kind = 2 then State.bitWalk r1 d 0 none 1 1 e.1 0 s1
    else if e.1 = e.2 then .ok s1 r1.exhaust
    else (s1.coord r1 x e.1).bind fun s2 c => s2.consume r1 d e.1 c.1 c.2 0 none

/-- The element that was current before a move. -/
def Strm.prev (r : Strm) : Option (Nat × Nat) := some (r.crdv.toNat, r.posn.toNat)

/-- Advances a READ register by n > 0 positions (R316, R319). -/
def State.advanceBy (s : State) (r : Strm) (n : Nat) : Got Strm :=
  if r.done then .ok s r
  else (s.fibre r).bind fun s1 d =>
    let r1 := { r with dsc := d }
    let x := levOf d r.level
    if x.kind = 2 then State.bitWalk r1 d (2 ^ 64) r.prev (r.left + 1) n (r.posn.toNat + 1) (r.aux.toNat + 1) s1
    else
      let q := r.posn.toNat + n
      if r.send.toNat ≤ q then .ok s1 r1.exhaust
      else (s1.coord r1 x q).bind fun s2 c => s2.consume r1 d q c.1 c.2 0 r.prev

/-- A probe of R318: the coordinate of position t; a recorded fault of the position is raised, and one at or above SIZE raises RANGE. -/
def State.probe (s : State) (r : Strm) (x : Lev) (t : Nat) : Got Nat :=
  if r.fpend && r.fpos.toNat == t then .stop r.recorded none
  else (s.crdEntry r x t).bind fun s1 c => if x.size ≤ c then .stop (malf 2 (x.crd + 4 * t)) none else .ok s1 c

/-- The doubling part of a gallop: lo, hi and the coordinate at hi. -/
def State.gallopUp (r : Strm) (x : Lev) (key : Nat) : Nat → Nat → Nat → State → Got (Nat × Nat × Nat)
  | 0, _, lo, s => .ok s (lo, r.send.toNat, 0)
  | fuel + 1, i, lo, s =>
    let t := r.posn.toNat + 2 ^ i
    if r.send.toNat ≤ t then .ok s (lo, r.send.toNat, 0)
    else (s.probe r x t).bind fun s1 c =>
      if key ≤ c then .ok s1 (lo, t, c) else State.gallopUp r x key fuel (i + 1) t s1

/-- The halving part of a gallop: the landing and its coordinate. -/
def State.gallopIn (r : Strm) (x : Lev) (key : Nat) : Nat → Nat → Nat → Nat → State → Got (Nat × Nat)
  | 0, _, hi, c, s => .ok s (hi, c)
  | fuel + 1, lo, hi, c, s =>
    if hi ≤ lo + 1 then .ok s (hi, c)
    else
      let mid := lo + (hi - lo) / 2
      (s.probe r x mid).bind fun s1 cm =>
        if key ≤ cm then State.gallopIn r x key fuel lo mid cm s1 else State.gallopIn r x key fuel mid hi c s1

/-- SSKIP on a READ register (R318). -/
def State.gallop (s : State) (r : Strm) (key : Nat) : Got Strm :=
  if r.done || decide (key ≤ r.crdv.toNat) then .ok s r
  else (s.fibre r).bind fun s1 d =>
    let r1 := { r with dsc := d }
    let x := levOf d r.level
    match x.kind with
    | 2 => State.bitWalk r1 d key r.prev (r.left + 1) (2 ^ 64) (r.posn.toNat + 1) (r.aux.toNat + 1) s1
    | 0 =>
      let hi := r.dStart x + key
      if r.send.toNat ≤ hi then .ok s1 r1.exhaust else s1.consume r1 d hi key 0 0 r.prev
    | _ =>
      (State.gallopUp r1 x key 65 0 r.posn.toNat s1).bind fun s2 g =>
        (State.gallopIn r1 x key 65 g.1 g.2.1 g.2.2 s2).bind fun s3 h =>
          if r.send.toNat ≤ h.1 then .ok s3 r1.exhaust else s3.consume r1 d h.1 h.2 (x.crd + 4 * h.1) 0 r.prev

/-! ## Combinators (R314 to R317) -/

/-- Keeps the state before a part of an instruction whose earlier effects stay when it traps (R317). -/
def Got.keep {α : Type} (g : Got α) (s : State) : Got α :=
  match g with
  | .ok s1 a => .ok s1 a
  | .stop .wait p => .stop .wait p
  | .stop e p => .stop e (some (p.getD s))

/-- Moves register n by an action on READ registers; on a trap everything done before stays. -/
def State.moveReg (s : State) (n : Nat) (g : State → Strm → Got Strm) : Res :=
  ((g s (s.sr n)).keep s).res fun s1 r => .ok (s1.setSr n r)

/-- The inputs of a combinator; one that is not READ raises MALFORM 7 (R314). -/
def State.withIns (s : State) (r : Strm) (k : Strm → Strm → Res) : Res :=
  let a := s.sr r.ina
  let b := s.sr r.inb
  if a.mode = 1 ∧ b.mode = 1 then k a b else .stop (malf 7 0) (some s)

/-- Is a combinator over these inputs exhausted (R299)? -/
def combDone (mode : Nat) (a b : Strm) : Bool := if mode = 2 then a.done || b.done else a.done && b.done
/-- The current coordinate of a READ register. -/
def Strm.cur (r : Strm) : Word := if r.done then ones64 else r.crdv
/-- The current coordinate of a combinator (R314). -/
def combCrd (mode : Nat) (a b : Strm) : Word :=
  if combDone mode a b then ones64 else if mode = 2 then a.cur else if a.cur.toNat ≤ b.cur.toNat then a.cur else b.cur
/-- The match mask of a combinator (R314). -/
def combMask (mode : Nat) (a b : Strm) : Nat :=
  if combDone mode a b then 0
  else if mode = 2 then 3
  else b2n (!a.done && a.crdv == combCrd mode a b) + 2 * b2n (!b.done && b.crdv == combCrd mode a b)

/-- settle (R314) for register n, with so many gallops at most. -/
def State.settleComb (n : Nat) : Nat → State → Res
  | 0, s => .ok s
  | k + 1, s =>
    let r := s.sr n
    let quiet := s.setSr n { r with phase := 0, aux := 0 }
    if r.mode = 3 then .ok quiet
    else s.withIns r fun a b =>
      if a.done || b.done || a.crdv == b.crdv then .ok quiet
      else if a.crdv.toNat < b.crdv.toNat then
        ((s.setSr n { r with phase := 2, aux := b.crdv }).moveReg r.ina fun s x => s.gallop x b.crdv.toNat).bind (State.settleComb n k)
      else
        ((s.setSr n { r with phase := 3, aux := a.crdv }).moveReg r.inb fun s x => s.gallop x a.crdv.toNat).bind (State.settleComb n k)

/-- settle with enough gallops: each moves an input. -/
def State.settleReg (s : State) (n : Nat) : Res :=
  let r := s.sr n
  State.settleComb n ((s.sr r.ina).left + (s.sr r.inb).left + 2) s

/-- The advance of input b that PHASE 1 stands for, and the settling (R317). -/
def State.phaseOne (s : State) (n : Nat) : Res :=
  let r := s.sr n
  s.withIns r fun _ _ =>
    (s.moveReg r.inb fun s x => s.advanceBy x 1).bind fun s1 =>
      (s1.setSr n { r with phase := 0 }).settleReg n

/-- The pending work of a combinator (R317). -/
def State.pendWork (s : State) (n : Nat) : Res :=
  let r := s.sr n
  if !r.isComb || r.phase == 0 then .ok s else if r.phase = 1 then s.phaseOne n else s.settleReg n

/-- SNEXT on a combinator (R317). -/
def State.nextComb (s : State) (n : Nat) : Res :=
  let r := s.sr n
  if r.phase ≠ 0 then s.pendWork n
  else s.withIns r fun a b =>
    let m := combMask r.mode a b
    if combDone r.mode a b then .ok s
    else
      (if nbit m 0 then s.moveReg r.ina fun s x => s.advanceBy x 1 else .ok s).bind fun s1 =>
        if nbit m 1 then (s1.setSr n { r with phase := 1 }).phaseOne n else s1.settleReg n

/-! ## Residency (R302) -/

/-- First byte of a context's thread record in the save area of its launch (R410). -/
def State.recBase (s : State) (c : Nat) : Word :=
  let t := s.thread c
  (s.launch t.lid).save + BitVec.ofNat 64 (0x1000 + 0x200000 * (t.tid / 64) + 0x1000 * (t.tid % 64))

/-- The device's own accesses to a launch's save area. -/
def State.saveWho (s : State) (c : Nat) : Who := { s.who c with priv := true }

/-- The stream contexts that a core's unit holds: those of threads that still stand there. -/
def State.residents (s : State) (k : Nat) : List Nat :=
  (s.core k).strms.filter fun c =>
    let t := s.thread c
    t.st != .empty && t.st != .done && t.st != .saved

/-- Loads the eight images of a drained context, clearing every fault record. -/
def State.loadImages (s : State) (c : Nat) : Option State :=
  match s.engRead { code := 4, c := some c } (s.saveWho c) 0 (s.recBase c + 0x800) 512 with
  | (s1, .ok b) =>
    let t := s1.thread c
    let m := (List.range 8).map fun i => (i, strmOfImage ((b.drop (64 * i)).take 64))
    some (s1.setThread c { t with strm := m, drained := false })
  | _ => none

/-- Gives the context in execution a place in its core's stream unit. -/
def State.joinUnit (s : State) : State :=
  let k := coreId s.cur
  let x := s.core k
  s.setCore k { x with strms := s.residents k ++ [s.cur], strmWant := if x.strmWant = some s.cur then none else x.strmWant }

/-- Goes on where the thread's stream context is resident; else it takes a free place, loading a drained context first, or waits
for a drain. -/
def State.strmGate (s : State) (k : State → Res) : Res :=
  let rs := s.residents (coreId s.cur)
  let go (s : State) : Res := k (s.setT { s.t with lastStrm := s.gtime })
  if rs.contains s.cur then go s
  else if 2 ≤ rs.length then
    let x := s.core (coreId s.cur)
    .stop .wait (some (s.setCore (coreId s.cur) { x with strmWant := some s.cur }))
  else if s.t.drained then
    match s.loadImages s.cur with
    | some s1 => .stop .wait (some s1.joinUnit)
    | none => .stop .wait none
  else go s.joinUnit

/-- The registers whose lookahead and records a trap of an instruction discards (R308): those named, and the inputs of the
combinators among them. -/
def State.touched (s : State) (rs : List Nat) : List Nat :=
  rs ++ (rs.map fun n => let r := s.sr n; if r.isComb then [r.ina, r.inb] else []).flatten

/-- Discards the lookahead and the records of registers. -/
def State.forgetAll (s : State) (rs : List Nat) : State :=
  rs.foldl (fun (a : State) n => if mhas a.t.strm n then a.setSr n (a.sr n).forget else a) s

/-- Completes the pending work of every combinator that an instruction names (R317). -/
def State.pendAll : List Nat → State → Res
  | [], s => .ok s
  | n :: ns, s => (s.pendWork n).bind (State.pendAll ns)

/-- What a trap of a page-4 instruction leaves (R308): where it has no state of its own, `before`, the state in which it issued with the
pending work of R317 done. -/
def Res.forgetting (r : Res) (before : State) (rs : List Nat) : Res :=
  match r with
  | .ok s1 => .ok s1
  | .stop .wait p => .stop .wait p
  | .stop e p => .stop e (some ((p.getD before).forgetAll (before.touched rs)))

/-- The state before an instruction with the pending work of the combinators that it names done (R317). -/
def State.worked (s : State) (work : Bool) (rs : List Nat) : State :=
  match (if work then State.pendAll rs s else .ok s) with
  | .ok s1 => s1
  | .stop _ _ => s

/-- The way of a page-4 instruction to issue: residency, the pending work of the combinators it names, its own effect. -/
def strmIssue (irrev : Bool) (names : List (BitVec 6)) (regs : List Nat) (work : Bool) (f : Fld) (s : State)
    (body : State → Res) : Host.Outcome State Fault Refusal :=
  issue { irrev := irrev, names := names } f s fun s1 => s1.strmGate fun s2 =>
    ((if work then State.pendAll regs s2 else .ok s2).bind body).forgetting (s.worked work regs) regs

/-- An effect that may not be speculative (R304). -/
def State.irrevocable (s : State) (b : Bool) (k : State → Res) : Res :=
  if b && s.speculative s.cur then .stop .wait none else k s

/-! ## Opening and closing (R310 to R313) -/

/-- Does the chain in execution hold a PXH? -/
def State.hasPxh (s : State) : Bool := s.ir.words.any fun w => w.toNat / 1024 == 63

/-- SOPEN's effect after its wait (R310). -/
def State.sopen (s : State) (n : Nat) (ow p : Word) (cls : Nat) : Res :=
  let da := zextW ow 56
  let lev := bitsOf ow 59 56
  let mode := bitsOf ow 63 60
  (s.loadObjAs 4 cls da 256 64).res fun s1 d =>
    let x := levOf d lev
    if !fibreOk d || decide (fibLevels d ≤ lev) || (mode != 1 && mode != 4) || (mode == 4 && (x.kind != 1 || x.nu)) then
      .stop (malf 7 da.toNat) none
    else
      let r : Strm := { mode := mode, level := lev, desc := da, parent := p, cls := cls, dsc := d }
      if mode = 1 then (s1.openRead r d).res fun s2 r1 => .ok (s2.setSr n r1).advance
      else (s1.entry r (x.pos + 4 * p.toNat) 4).res fun s2 v =>
        .ok (s2.setSr n { r with posn := BitVec.ofNat 64 v, send := BitVec.ofNat 64 v, crdv := ones64 }).advance

/-- SOPEN (R310). -/
def execSopen (f : Fld) (s : State) : Host.Outcome State Fault Refusal :=
  strmIssue false [f.b, f.b + 1] [f.a.toNat] true f s fun s =>
    s.irrevocable (bitsOf (s.W f.b) 63 60 == 4) fun s => s.afterRelease true fun s =>
      s.sopen f.a.toNat (s.W f.b) (s.Wn f.b 1) (temporal f)

/-- SCLOSE (R312). -/
def execSclose (f : Fld) (s : State) : Host.Outcome State Fault Refusal :=
  strmIssue false [] [f.a.toNat] true f s fun s =>
    s.irrevocable ((s.sr f.a.toNat).mode == 4) fun s => .ok (s.setSr f.a.toNat {}).advance

/-- SSAVE (R313): a store of 64 bytes. -/
def execSsave (f : Fld) (s : State) : Host.Outcome State Fault Refusal :=
  strmIssue true [f.b] [f.a.toNat] true f s fun s =>
    let va := s.W f.b
    orStop (s.check va 64 { w := true } 1) fun l =>
      if !s.t.spec.sb.isEmpty then .stop .wait none
      else .ok (s.pushStore l 64 (leVal (s.sr f.a.toNat).image) (temporal f) false (pathOf s.cur va l)).advance

/-- SLOAD (R313). -/
def execSload (f : Fld) (s : State) : Host.Outcome State Fault Refusal :=
  strmIssue false [f.b] [f.a.toNat] true f s fun s => s.afterRelease true fun s =>
    let va := s.W f.b
    (s.loadObjAs 4 (temporal f) va 64 64).res fun s1 b =>
      if badImage f.a.toNat b then .stop (malf 7 va.toNat) none
      else .ok (s1.setSr f.a.toNat (strmOfImage b)).advance

/-- Opens in register n the fibre below the current element of the READ register r (R311). -/
def State.openBelow (s : State) (n : Nat) (r : Strm) (cls : Nat) : Res :=
  (s.fibre r).res fun s1 d =>
    if fibLevels d ≤ r.level + 1 then .stop (malf 7 r.desc.toNat) none
    else
      let c : Strm := { mode := 1, level := r.level + 1, desc := r.desc, parent := r.posn, cls := cls, dsc := d, look := r.look }
      (s1.openRead c d).res fun s2 r1 => .ok (s2.setSr n r1).advance

/-- SCHILD (R311). -/
def execSchild (f : Fld) (s : State) : Host.Outcome State Fault Refusal :=
  strmIssue false [] [f.a.toNat, f.b.toNat] true f s fun s => s.afterRelease true fun s =>
    let r := s.sr f.b.toNat
    let cls := if s.hasPxh then temporal f else r.cls
    let bad : Res := .stop (malf 7 0) none
    if r.isComb then s.withIns r fun a b =>
      if combDone r.mode a b then bad
      else s.openBelow f.a.toNat (if nbit (combMask r.mode a b) 0 then a else b) cls
    else if r.mode = 1 ∧ r.done = false then s.openBelow f.a.toNat r cls
    else bad

/-! ## Combinators and navigation (R314 to R319) -/

/-- SISECT and SUNION (R314). -/
def combine (mode : Nat) (f : Fld) (s : State) : Host.Outcome State Fault Refusal :=
  strmIssue false [] [f.d.toNat, f.a.toNat, f.b.toNat] true f s fun s =>
    let r : Strm := { mode := mode, ina := f.a.toNat, inb := f.b.toNat }
    s.withIns r fun _ _ => ((s.setSr f.d.toNat r).settleReg f.d.toNat).bind fun s1 => .ok s1.advance

/-- SISECT (R314). -/
def execSisect (f : Fld) (s : State) : Host.Outcome State Fault Refusal := combine 2 f s
/-- SUNION (R314). -/
def execSunion (f : Fld) (s : State) : Host.Outcome State Fault Refusal := combine 3 f s

/-- SNEXT (R316, R317). -/
def execSnext (f : Fld) (s : State) : Host.Outcome State Fault Refusal :=
  strmIssue false [] [f.a.toNat] false f s fun s =>
    let n := f.a.toNat
    let r := s.sr n
    let go : Res :=
      match r.mode with
      | 0 => .ok s
      | 1 => s.moveReg n fun s x => s.advanceBy x 1
      | 4 => .stop (malf 7 0) none
      | _ => s.nextComb n
    go.bind fun s1 => .ok s1.advance

/-- SSKIP (R318). -/
def execSskip (f : Fld) (s : State) : Host.Outcome State Fault Refusal :=
  strmIssue false [f.b] [f.a.toNat] true f s fun s =>
    let n := f.a.toNat
    let key := (s.W f.b).toNat
    let r := s.sr n
    let go : Res :=
      match r.mode with
      | 0 => .ok s
      | 1 => s.moveReg n fun s x => s.gallop x key
      | 4 => .stop (malf 7 0) none
      | _ => s.withIns r fun _ _ =>
        (s.moveReg r.ina fun s x => s.gallop x key).bind fun s1 =>
          (s1.moveReg r.inb fun s x => s.gallop x key).bind fun s2 => s2.settleReg n
    go.bind fun s1 => .ok s1.advance

/-- SSKIPN (R319). -/
def execSskipn (f : Fld) (s : State) : Host.Outcome State Fault Refusal :=
  strmIssue false [f.b] [f.a.toNat] true f s fun s =>
    let n := f.a.toNat
    let k := (s.W f.b).toNat
    let go : Res :=
      match (s.sr n).mode with
      | 0 => .ok s
      | 1 => if k = 0 then .ok s else s.moveReg n fun s x => s.advanceBy x k
      | _ => .stop (malf 7 0) none
    go.bind fun s1 => .ok s1.advance

/-! ## Queries (R320) -/

/-- Reads a query's value: that of a combinator comes from its inputs. -/
def State.query (s : State) (n : Nat) (one : Strm → Word) (two : Nat → Strm → Strm → Word) (k : Word → Res) : Res :=
  let r := s.sr n
  if r.isComb then s.withIns r fun a b => k (two r.mode a b) else k (one r)

/-- SCRD (R320). -/
def execScrd (f : Fld) (s : State) : Host.Outcome State Fault Refusal :=
  strmIssue false [f.a] [f.b.toNat] true f s fun s =>
    s.query f.b.toNat (fun r => if r.mode = 0 then ones64 else if r.mode = 1 then r.cur else r.crdv) combCrd fun v =>
      .ok (s.setW f.a v).advance

/-- SPOS (R320). -/
def execSpos (f : Fld) (s : State) : Host.Outcome State Fault Refusal :=
  strmIssue false [f.a] [f.b.toNat] true f s fun s =>
    s.query f.b.toNat (fun r => if r.mode = 0 then 0 else r.posn) (fun m a b => BitVec.ofNat 64 (combMask m a b)) fun v =>
      .ok (s.setW f.a v).advance

/-- SDONE (R320). -/
def execSdone (f : Fld) (s : State) : Host.Outcome State Fault Refusal :=
  strmIssue false [] [f.a.toNat] true f s fun s =>
    s.query f.a.toNat (fun r => if r.mode = 0 || (r.mode == 1 && r.done) then 1 else 0)
      (fun m a b => if combDone m a b then 1 else 0) fun v => .ok (s.setP (destP f.x) (v == 1)).advance

/-- SLEN of a READ, WRITE or CLOSED register. -/
def Strm.len (r : Strm) : Word := if r.mode = 1 then r.send - r.posn else if r.mode = 4 then r.posn - r.send else 0

/-- SLEN (R320). -/
def execSlen (f : Fld) (s : State) : Host.Outcome State Fault Refusal :=
  strmIssue false [f.a] [f.b.toNat] true f s fun s =>
    s.query f.b.toNat Strm.len
      (fun m a b => if m = 3 then a.len + b.len else if a.len.toNat ≤ b.len.toNat then a.len else b.len) fun v =>
      .ok (s.setW f.a v).advance

/-! ## Values to the vector stream (R321, R322) -/

/-- The live inputs of a register, a before b (R321). -/
def State.liveIns (s : State) (n : Nat) (k : List Strm → Res) : Res :=
  let r := s.sr n
  if r.isComb then s.withIns r fun a b =>
    let m := combMask r.mode a b
    k ((if nbit m 0 then [a] else []) ++ (if nbit m 1 then [b] else []))
  else k (if r.mode = 1 ∧ r.done = false then [r] else [])

/-- The value address of a READ register (R321). -/
def valueAddr (d : List Byte) (r : Strm) : Word := BitVec.ofNat 64 (fibVals d + r.posn.toNat * fibWidth d)

/-- Does a store of a context to some of these bytes wait in a path? -/
def State.ownStoreTo (s : State) (c : Nat) (l : Loc) (n : Nat) : Bool :=
  [0, 1, 2, 3].any fun p => ((s.core (coreId c)).path p).any fun o => o.c == c && overlaps o.loc o.size l n

/-- What SVALQ, SCRDQ and SVLD push for each live input; `kind` 0 the address, 1 the coordinate, 2 the loaded value. -/
def State.liveVals (kind cls : Nat) : List Strm → State → Got (List Word)
  | [], s => .ok s []
  | r :: rs, s =>
    if kind = 1 then (State.liveVals kind cls rs s).bind fun s1 l => .ok s1 (r.crdv :: l)
    else (s.fibre r).bind fun s1 d =>
      let va := valueAddr d r
      if kind = 0 then (State.liveVals kind cls rs s1).bind fun s2 l => .ok s2 (va :: l)
      else
        match s1.check va (fibWidth d) { r := true } 0 with
        | .error e => .stop e none
        | .ok l =>
          if s1.ownStoreTo s1.cur l (fibWidth d) then .stop .wait none
          else (s1.loadAs 4 s1.cur va l (fibWidth d) cls 0).bind fun s2 v =>
          (State.liveVals kind cls rs s2).bind fun s3 l => .ok s3 (BitVec.ofNat 64 v :: l)

/-- The effect of SVALQ, SCRDQ and SVLD (R321). -/
def pushLive (kind : Nat) (f : Fld) (s : State) : Host.Outcome State Fault Refusal :=
  strmIssue true [] [f.b.toNat] true f s fun s =>
    let q := f.a.toNat
    s.liveIns f.b.toNat fun rs =>
      if 0 < rs.length ∧ 8 < (s.t.queue q).length + rs.length then s.blockOn q true
      else (State.liveVals kind (temporal f) rs s).res fun s1 l =>
        .ok (s1.setT (s1.t.setQueue q (s1.t.queue q ++ l))).advance

/-- SVALQ (R321). -/
def execSvalq (f : Fld) (s : State) : Host.Outcome State Fault Refusal := pushLive 0 f s
/-- SCRDQ (R321). -/
def execScrdq (f : Fld) (s : State) : Host.Outcome State Fault Refusal := pushLive 1 f s
/-- SVLD (R321). -/
def execSvld (f : Fld) (s : State) : Host.Outcome State Fault Refusal := pushLive 2 f s

/-- The loop of SBATCH (R322): steps left, steps made; the register, the addresses to push. -/
def State.batch (d : List Byte) : Nat → Nat → Strm → List Word → State → Got (Strm × List Word)
  | 0, _, r, out, s => .ok s (r, out)
  | fuel + 1, k, r, out, s =>
    if r.done then .ok s (r, out)
    else match s.advanceBy r 1 with
      | .ok s1 r1 => State.batch d fuel (k + 1) r1 (out ++ [valueAddr d r]) s1
      | .stop .wait _ => .stop .wait none
      | .stop e p => if r.posn.toNat + 1 < r.send.toNat ∧ 0 < k then .ok (p.getD s) (r, out) else .stop e p

/-- SBATCH (R322). -/
def execSbatch (f : Fld) (s : State) : Host.Outcome State Fault Refusal :=
  strmIssue true [f.a] [f.b.toNat] true f s fun s =>
    let r := s.sr f.b.toNat
    let n := (s.W f.a).toNat
    let room := 8 - (s.t.queue 0).length
    if r.mode ≠ 1 || r.done then .ok (s.setW f.a 0).advance
    else if n = 0 then .ok s.advance
    else if room = 0 then s.blockOn 0 true
    else (s.fibre r).res fun s1 d =>
      (State.batch d (min n room) 0 { r with dsc := d } [] s1).res fun s2 o =>
        let s3 := s2.setSr f.b.toNat o.1
        .ok ((s3.setT (s3.t.setQueue 0 (s3.t.queue 0 ++ o.2))).setW f.a (BitVec.ofNat 64 o.2.length)).advance

/-! ## Building a fibre (R323) -/

/-- A store on the stream ring (R305). -/
def State.strmStore (s : State) (va : Word) (n v cls : Nat) (k : State → Loc → Res) : Res :=
  orStop (s.check va n { w := true } 1) fun l =>
    if !s.t.spec.sb.isEmpty then .stop .wait none else k (s.pushStore l n v cls false 3) l

/-- The register of an output instruction with its descriptor; one that is not WRITE raises MALFORM 7. -/
def State.outReg (s : State) (n : Nat) (k : State → Strm → List Byte → Res) : Res :=
  let r := s.sr n
  if r.mode ≠ 4 then .stop (malf 7 0) none else (s.fibre r).res fun s1 d => k s1 { r with dsc := d } d

/-- SAPP (R323). -/
def execSapp (f : Fld) (s : State) : Host.Outcome State Fault Refusal :=
  strmIssue true [f.b] [f.a.toNat] true f s fun s => s.outReg f.a.toNat fun s r d =>
    let x := levOf d r.level
    let c := bitsOf (s.W f.b) 31 0
    let q := r.posn.toNat
    let a := x.crd + 4 * q
    if x.size ≤ c then .stop (malf 2 a) none
    else if r.crdv ≠ ones64 ∧ c ≤ r.crdv.toNat then .stop (malf 1 a) none
    else if x.ncrd ≤ q then .stop (malf 4 a) none
    else s.strmStore (BitVec.ofNat 64 a) 4 c r.cls fun s1 _ =>
      .ok (s1.setSr f.a.toNat { r with crdv := BitVec.ofNat 64 c, posn := BitVec.ofNat 64 (q + 1) }).advance

/-- SAPPV (R323). -/
def execSappv (f : Fld) (s : State) : Host.Outcome State Fault Refusal :=
  strmIssue true [f.b] [f.a.toNat] true f s fun s => s.outReg f.a.toNat fun s r d =>
    let e := fibWidth d
    let va := BitVec.ofNat 64 (fibVals d) + (r.posn - 1) * BitVec.ofNat 64 e
    if r.posn = r.send then .stop (malf 4 va.toNat) none
    else s.strmStore va e ((s.W f.b).toNat % 2 ^ (8 * e)) r.cls fun s1 _ => .ok (s1.setSr f.a.toNat r).advance

/-- Do stores of a context on the stream ring wait? -/
def State.strmOut (s : State) (c : Nat) : Bool := s.ownIn c 3

/-- SSEAL (R323): its store follows the earlier output, and it completes when that store is performed. -/
def execSseal (f : Fld) (s : State) : Host.Outcome State Fault Refusal :=
  strmIssue true [] [f.a.toNat] true f s fun s => s.outReg f.a.toNat fun s r d =>
    let va := BitVec.ofNat 64 ((levOf d r.level).pos + 4 * (r.parent.toNat + 1))
    if s.strmOut s.cur then .stop .wait none
    else s.strmStore va 4 (r.posn.toNat % 2 ^ 32) r.cls fun s1 l =>
      let sq := (s1.core (coreId s1.cur)).nsq - 1
      let p := s1.mkPend 6 0 l va 4 f s1.t.win
      let s2 := s1.setSr f.a.toNat {}
      .ok (s2.setT { s2.t with pend := some { p with sq := sq } })

/-! ## The unit's own events (R300, R302) -/

/-- The coordinate of position k as the lookahead knows it. -/
def Strm.known (r : Strm) (x : Lev) (k : Nat) : Option Nat :=
  if k = r.posn.toNat then some r.crdv.toNat else (r.look.find? fun (p : Nat × Nat) => p.1 == x.crd + 4 * k).map Prod.snd

/-- Is an entry read already? -/
def Strm.seen (r : Strm) (a : Nat) : Bool := r.look.any fun (p : Nat × Nat) => p.1 == a

/-- Records a fault at position k (R300). -/
def Strm.record (r : Strm) (k kind sub walk a : Nat) : Strm :=
  { r with fpend := true, fkind := kind, fsub := sub, fwalk := walk, fpos := BitVec.ofNat 64 k, faddr := BitVec.ofNat 64 a }

/-- Sets a stream register of a context. -/
def State.putSr (s : State) (c n : Nat) (r : Strm) : State := s.setThread c ((s.thread c).setSr n r)

/-- What the lookahead does next for a register (R300): it records a malformed element of a position with a subcode and an address, or
reads an entry of a position, at an address, of so many bytes; the entries of the level below record nothing, since no element of
this level fails by them. -/
inductive LookStep where
  | none
  | malformed (k sub a : Nat)
  | own (k a bytes : Nat)
  | below (a : Nat)
deriving DecidableEq, Repr

/-- The checks of element k of a C or S level whose entry is read (R306): its subcode and address, or the S entries that its check with
NU = 1 still needs. -/
def Strm.lookCheck (r : Strm) (d : List Byte) (k v : Nat) : LookStep :=
  let x := levOf d r.level
  let y := levOf d (r.level + 1)
  let a := x.crd + 4 * k
  if x.size ≤ v then .malformed k 2 a
  else if x.kind ≠ 1 then .none
  else match r.known x (k - 1) with
    | Option.none => .none
    | some u =>
      if v < u ∨ (v = u ∧ x.nu = false) then .malformed k 1 a
      else if v ≠ u then .none
      else
        let val (q : Nat) : Option Nat := (r.look.find? fun (p : Nat × Nat) => p.1 == y.crd + 4 * q).map Prod.snd
        if y.ncrd ≤ k then .malformed k 4 (y.crd + 4 * k)
        else match val (k - 1), val k with
          | some sp, some sc => if sc < sp then .malformed k 1 a else if sc = sp then .malformed k 6 a else .none
          | Option.none, _ => .own k (y.crd + 4 * (k - 1)) 4
          | _, Option.none => .own k (y.crd + 4 * k) 4

/-- Position k of a C or S level: its entry, its checks, then the entries of the level below. -/
def Strm.lookAt (r : Strm) (d : List Byte) (k : Nat) : LookStep :=
  let x := levOf d r.level
  let a := x.crd + 4 * k
  if x.ncrd ≤ k then .malformed k 4 a
  else match r.known x k with
    | Option.none => .own k a 4
    | some v => match r.lookCheck d k v with
      | .none => match (levOf d (r.level + 1)).ends with
        | some b =>
          if fibLevels d ≤ r.level + 1 then .none
          else if !r.seen (b + 4 * k) then .below (b + 4 * k) else if !r.seen (b + 4 * k + 4) then .below (b + 4 * k + 4) else .none
        | Option.none => .none
      | o => o

/-- The next step for a C or S level: at most 64 positions past POSN, and never at or past END. -/
def Strm.lookCrd (r : Strm) (d : List Byte) : LookStep :=
  let n := min 64 (r.send.toNat - r.posn.toNat - 1)
  (((List.range n).map fun i => r.lookAt d (r.posn.toNat + 1 + i)).find? (· != LookStep.none)).getD .none

/-- Set bits of a word below 64. -/
def popcount (v : Nat) : Nat := ((List.range 64).filter (nbit v)).length

/-- The next step for a B level: the words of the bitmap from the current one on, while what has been read holds fewer than 64 further
elements; a set bit at or above SIZE, and a bitmap that ends before END, are malformed (R306). -/
def Strm.lookBits (r : Strm) (d : List Byte) : LookStep :=
  let x := levOf d r.level
  let w := (x.size + 63) / 64
  let b := r.aux.toNat
  let word (i : Nat) : Option Nat :=
    ((r.look.find? fun (p : Nat × Nat) => p.1 == bitWord r x 0 + 8 * i).map Prod.snd).map fun v =>
      if i = b / 64 then v / 2 ^ (b % 64 + 1) * 2 ^ (b % 64 + 1) else v
  let ws := (List.range (w - b / 64)).map (b / 64 + ·)
  let got := ws.takeWhile fun i => (word i).isSome
  let bits := got.flatMap fun i => ((List.range 64).filter (nbit ((word i).getD 0))).map (64 * i + ·)
  let k (j : Nat) : Nat := r.posn.toNat + 1 + j
  match bits.findIdx? (fun c => decide (x.size ≤ c)) with
  | some j => if k j < r.send.toNat then .malformed (k j) 2 (bitWord r x (bits.getD j 0)) else .none
  | Option.none =>
    if 64 ≤ bits.length || decide (r.send.toNat ≤ k bits.length) then .none
    else match ws[got.length]? with
      | some i => .own (k bits.length) (bitWord r x 0 + 8 * i) 8
      | Option.none => .malformed (k bits.length) 5 (r.cntEnd x)

/-- The next step of the lookahead of a register that is open, not exhausted and without a record. -/
def Strm.lookStep (r : Strm) : LookStep :=
  match (levOf r.dsc r.level).kind with
  | 0 => .none
  | 2 => r.lookBits r.dsc
  | _ => r.lookCrd r.dsc

/-- The lookahead reads one entry of n bytes for position k; a failed read is recorded where `rec` says so (R300). -/
def State.lookRead (s : State) (c n : Nat) (r : Strm) (k a bytes : Nat) (rec : Bool) : State :=
  let put (s : State) (x : Strm) : State := if rec then s.putSr c n x else s
  match s.access (s.who c) (BitVec.ofNat 64 a) bytes bytes { r := true } with
  | .error .hold => s
  | .error .prot => put s (r.record k 3 0 0 a)
  | .error (.walk l x) => put s (r.record k 0 0 (l * 16 + x) a)
  | .error (.bad pa) => put (s.walkLog { code := 4, c := some c } (.bad pa)) (r.record k 1 0 0 a)
  | .error _ => put s (r.record k 0 0 3 a)
  | .ok l =>
    match s.loadAs 4 c (BitVec.ofNat 64 a) l bytes r.cls 0 with
    | .stop .wait _ => s
    | .stop _ p => put (p.getD s) (r.record k 1 0 0 a)
    | .ok s1 v => s1.putSr c n { r with look := r.look ++ [(a, v)] }

/-- Does the unit read ahead for a register of a context now (R300)? -/
def State.mayLook (s : State) (c n : Nat) : Bool :=
  let t := s.thread c
  let x := t.sr n
  (s.residents (coreId c)).contains c && x.mode == 1 && !x.done && !x.fpend && !x.dsc.isEmpty && t.st != .frozen

/-- Sets the lookahead's request of a core's stream unit. -/
def State.setLook (s : State) (c : Nat) (o : Option (Nat × Nat × Bool)) : State :=
  let k := s.core (coreId c)
  s.setCore (coreId c) { k with slook := o }

/-- The unit's request for its next read stands in the stream ring, and once the interface has sent it on the read is performed (R249,
R300). -/
def State.lookTurn (s : State) (c n : Nat) (k a bytes : Nat) (rec : Bool) : State :=
  match (s.core (coreId c)).slook with
  | none => s.setLook c (some (c, n, false))
  | some (c', n', sent) =>
    if !sent then s
    else if c' = c ∧ n' = n then (s.setLook c none).lookRead c n ((s.thread c).sr n) k a bytes rec
    else s.setLook c (some (c, n, false))

/-- STREAM_LOOKAHEAD (R300): the unit's next step for register r of a context. -/
def execStreamLookahead (pid r : Nat) (s : State) : Host.Outcome State Fault Refusal :=
  let x := (s.thread pid).sr r
  .next (if !s.mayLook pid r then s
    else match x.lookStep with
      | .none => s
      | .malformed k sub a => s.putSr pid r (x.record k 2 sub 0 a)
      | .own k a bytes => s.lookTurn pid r k a bytes true
      | .below a => s.lookTurn pid r 0 a 4 false)

/-- May a resident context be drained now (R302)? -/
def State.mayDrain (s : State) (c : Nat) : Bool :=
  let k := coreId c
  let rs := s.residents k
  rs.contains c && decide (2 ≤ rs.length) &&
  (match (s.core k).strmWant with
    | some w => !rs.contains w && (s.thread w).st == .run
    | none => false) &&
  rs.all (fun d => decide ((s.thread c).lastStrm ≤ (s.thread d).lastStrm)) &&
  (s.thread c).pend.all (fun p => p.kind != 6) && !s.strmOut c

/-- The eight images of a context. -/
def Thread.images (t : Thread) : List Byte := ((List.range 8).map fun i => (t.sr i).image).flatten

/-- A thread's stream registers without their lookahead and records (R302, R304). -/
def Thread.forgetStrm (t : Thread) : SMap Strm := t.strm.map fun (p : Nat × Strm) => (p.1, p.2.forget)

/-- The units of a drain (R302): the images at 0x800 of the thread's record, and the byte of 0xCD8 that holds the mark [41]. -/
def State.drainUnits (s : State) (c : Nat) : Except EngErr (List UnitW) :=
  match s.engTarget (s.saveWho c) (s.recBase c + 0x800) (s.thread c).images [] with
  | .error e => .error e
  | .ok us =>
    let at_ := s.recBase c + 0xCDD
    match s.access (s.saveWho c) at_ 1 1 { r := true } with
    | .error e => .error (e.eng at_)
    | .ok l => s.engTarget (s.saveWho c) at_ [BitVec.ofNat 8 (s.readAt l 1 ||| 2)] us

/-- STREAM_CONTEXT_DRAIN (R302). The registers that the record now holds stay known to the model, without their lookahead, for a
checkpoint that the thread takes meanwhile (R304). -/
def execStreamContextDrain (pid : Nat) (s : State) : Host.Outcome State Fault Refusal :=
  .next (if !s.mayDrain pid then s
    else match s.drainUnits pid with
      | .error _ => s
      | .ok us =>
        if us.any (fun u => s.reserved none u.loc (unitSize u.loc) || s.leaseHolds u.loc || !s.dramReady u.loc (unitSize u.loc) ||
            s.isOwned u.loc (unitSize u.loc)) then s
        else
          let w := s.engWriter (s.thread pid).lid (s.thread pid).tid 4 (s.thread pid).sys.vt
          let s1 := us.foldl (fun (a : State) u => a.writeUnit w u 0) s
          let t := s1.thread pid
          let k := s1.core (coreId pid)
          (s1.setThread pid { t with strm := t.forgetStrm, drained := true }).setCore (coreId pid)
            { k with strms := k.strms.filter (· != pid) })

end Sys2Proof.Machine
end

