-- ==== Sys2Proof/Machine/Entries.lean ====
section
/-! DEFINITION. The 32-byte format of a sequencer entry or a queued job (R412), written and read back, and threads reached by
their ids wherever they stand. -/

namespace Sys2Proof.Machine

/-- The row that a base word selects on a page, where one does. -/
def rowAt (page : Nat) (base : Half) : Option Row := findRow page (base.toNat / 4096) (base.toNat / 256 % 16)

/-- The 32 bytes of an entry (R412): a VMEM's widened immediate is sign-extended, every other one zero-extended. -/
def entryBytes (page : Nat) (base : Half) (f : Fld) (seqno : BitVec 12) (guard member : Bool) (vals : List Word) : List Byte :=
  let pxr := match rowAt page base with | some r => r.pxr f | none => 0
  let imm := if page = 1 ∧ base.toNat / 4096 = 9 then immS f (4 + 10 * f.k) else immZ f
  leBytes 8 (base.toNat + f.ext.toNat * 2 ^ 16 + pxr * 2 ^ 22 + f.h.toNat * 2 ^ 32 + seqno.toNat * 2 ^ 42 + b2n guard * 2 ^ 54 +
    b2n (decide (0 < vals.length)) * 2 ^ 55 + b2n (decide (1 < vals.length)) * 2 ^ 56 + b2n (page == 5) * 2 ^ 57 +
    b2n member * 2 ^ 58) ++
  leBytes 8 (vals.getD 0 0).toNat ++ leBytes 8 (vals.getD 1 0).toNat ++ leBytes 8 imm.toNat

/-- The entry of 32 bytes, where they break nothing of R412; the rounding mode at its dispatch is FPCSR.RM as saved, and the
address of its chain is not kept. The further window registers of a page-5 entry are `more`. -/
def entryOf (b : List Byte) (rm : Nat) (pc : Word) (more : List Word) : Option SeqEnt :=
  let w := fieldAt b 0 8
  let base : Half := BitVec.ofNat 16 w
  let page := if nbit w 57 then 5 else 1
  match rowAt page base with
  | none => none
  | some r =>
    let pre : List Half := [BitVec.ofNat 16 (0xF400 + w / 2 ^ 22 % 2 ^ 10), BitVec.ofNat 16 (0xF800 + page * 64 + w / 2 ^ 16 % 64),
      BitVec.ofNat 16 (0xFC00 + w / 2 ^ 32 % 2 ^ 10)]
    let f := r.fields pre base.toNat
    let v := fieldAt b 0x18 8
    let f1 := { f with k := 3, imm := if r.fmt.immBits = 0 then 0 else BitVec.ofNat 49 (v % 2 ^ (r.fmt.immBits + 30)) }
    if w / 2 ^ 59 ≠ 0 then none
    else
      some { page := page, id := r.id, f := f1, base := base, seqno := BitVec.ofNat 12 (w / 2 ^ 42), pc := pc, guard := nbit w 54,
             member := nbit w 58, rm := rm,
             vals := (if nbit w 55 then [wordAt b 8] else []) ++ (if nbit w 56 then [wordAt b 0x10] else []) ++ more }

/-- Changes the record of a thread of a launch, live or in a save. -/
def State.onThread (s : State) (lid tid : Nat) (g : Thread → Thread) : State :=
  match s.ctxOf lid tid with
  | some c =>
    let t := s.thread c
    if t.lid = lid ∧ t.tid = tid ∧ t.st ≠ .empty then s.setThread c (g t) else s
  | none =>
    { s with saved := s.saved.map fun (p : Nat × Saved) =>
        if p.2.lid = lid ∧ p.2.vcl = tid / 64 ∧ mhas p.2.thr (tid % 64) then
          (p.1, { p.2 with thr := mset p.2.thr (tid % 64) (g (mget {} p.2.thr (tid % 64))) })
        else p }

/-- The record of a thread of a launch. -/
def State.theThread (s : State) (lid tid : Nat) : Thread :=
  match s.ctxOf lid tid with
  | some c => s.thread c
  | none =>
    match s.saved.find? fun (p : Nat × Saved) => p.2.lid == lid && p.2.vcl == tid / 64 && mhas p.2.thr (tid % 64) with
    | some p => mget {} p.2.thr (tid % 64)
    | none => {}

end Sys2Proof.Machine
end

