-- ==== Sys2Proof/Machine/Tiles.lean ====
section
/-! DEFINITION. The arithmetic of the matrix engine on plain data: tile status words, the pivot log, the multiply-accumulate jobs,
recurrences, tile moves and conversions, images, and the solvers' steps (R155, R165, R167 to R169, R327, R336 to R351). -/

namespace Sys2Proof.Machine

/-! ## Status words and the log (R327, R346) -/

/-- Replaces bits [lo + n - 1 : lo] of a word. -/
def putBits (w : Word) (lo n v : Nat) : Word :=
  BitVec.ofNat 64 (w.toNat - bitsOf w (lo + n - 1) lo * 2 ^ lo + v % 2 ^ n * 2 ^ lo)

/-- The status word of a tile. -/
def Tctx.st (x : Tctx) (t : Nat) : Word := mget 0 x.status t
/-- Sets the status word of a tile. -/
def Tctx.setSt (x : Tctx) (t : Nat) (w : Word) : Tctx := { x with status := mset x.status t w }
/-- VALID of a tile. -/
def Tctx.valid (x : Tctx) (t : Nat) : Bool := (x.st t).getLsbD 63
/-- TYPE of a tile: 0 F32, 1 I32, 2 QX. -/
def Tctx.type (x : Tctx) (t : Nat) : Nat := bitsOf (x.st t) 57 56
/-- FRAC of a tile. -/
def Tctx.frac (x : Tctx) (t : Nat) : Nat := bitsOf (x.st t) 52 48

/-- Element (r, c) of a tile as it reads: an invalid tile reads as zeros. -/
def Tctx.el (x : Tctx) (t r c : Nat) : Nat := if x.valid t then mget 0 x.tiles (256 * t + 16 * r + c) else 0
/-- All elements of a tile, row by row. -/
def Tctx.els (x : Tctx) (t : Nat) : List Nat := (List.range 256).map fun i => x.el t (i / 16) (i % 16)

/-- The flags of R163 at their places in a status word. -/
def Fl.tile (f : Fl) : Nat :=
  b2n f.nx * 2 ^ 44 + b2n f.uf * 2 ^ 43 + b2n f.ovf * 2 ^ 42 + b2n f.dz * 2 ^ 41 + b2n f.nv * 2 ^ 40
/-- RANGE of a status word. -/
def rangeBit : Nat := 2 ^ 39

/-- Adds sticky flags to a tile's status. -/
def Tctx.flag (x : Tctx) (t fl : Nat) : Tctx := x.setSt t (x.st t ||| BitVec.ofNat 64 fl)

/-- A job writes a tile's data: it becomes VALID and DIRTY, with its TYPE and JOB. -/
def Tctx.write (x : Tctx) (t type job : Nat) (els : List Nat) : Tctx :=
  let w := putBits (putBits (x.st t ||| BitVec.ofNat 64 (3 * 2 ^ 62)) 56 2 type) 0 16 job
  { x with tiles := msetRun x.tiles (256 * t) els, status := mset x.status t w }

/-- An event of the pivot log: kind, place, value (R346). -/
def logWord (job : Nat) (e : Nat × Nat × Nat) : Word :=
  BitVec.ofNat 64 (e.2.2 % 2 ^ 32 + e.2.1 % 2 ^ 13 * 2 ^ 32 + e.1 % 8 * 2 ^ 45 + job % 2 ^ 16 * 2 ^ 48)

/-- Logs an event: slots 0 to 30 fill in order, slot 31 counts what is lost (R346). -/
def Tctx.logEv (x : Tctx) (job : Nat) (e : Nat × Nat × Nat) : Tctx :=
  if x.log.length < 31 then { x with log := x.log ++ [logWord job e] }
  else
    let lost := match x.log[31]? with | some w => bitsOf w 31 0 + 1 | none => 1
    { x with log := x.log.take 31 ++ [logWord job (7, 0, lost)], ovf := true }

/-- Logs events in order. -/
def Tctx.logAll (x : Tctx) (job : Nat) (es : List (Nat × Nat × Nat)) : Tctx := es.foldl (fun a e => a.logEv job e) x

/-- The count word of the log. -/
def Tctx.count (x : Tctx) : Word := BitVec.ofNat 64 (x.log.length % 64 + b2n x.ovf * 2 ^ 63)

/-- WHERE of an element of a tile. -/
def elWhere (t i : Nat) : Nat := t % 8 * 2 ^ 8 + i / 16 % 16 * 2 ^ 4 + i % 16

/-- An element that a job delivers: its bits, its flags, whether it saturated (R339's RANGE). -/
structure El where
  v : Nat
  fl : Fl := {}
  sat : Bool := false
deriving DecidableEq, Repr

/-- A job writes a tile from delivered elements: flags, and RANGE with one log entry for the first saturated element. -/
def Tctx.deliver (x : Tctx) (t type job : Nat) (es : List El) : Tctx :=
  let x1 := (x.write t type job (es.map El.v)).flag t (Fl.all (es.map El.fl)).tile
  match es.findIdx? El.sat with
  | some i => (x1.flag t rangeBit).logEv job (3, elWhere t i, (es.getD i { v := 0 }).v)
  | none => x1

/-! ## Elements -/

/-- An I32 sum or product, saturated (R168). -/
def satI32 (v : Int) : El := { v := deliverInt true true 32 v, sat := decide (sint (deliverInt true true 32 v) 32 ≠ v) }

/-- A QX value brought from fraction length g to h and saturated to 32 bits (R157). -/
def qxTo (g h : Nat) (v : Int) : El :=
  let n := if g ≤ h then v * (2 ^ (h - g) : Nat) else shiftRne v (g - h)
  let inexact := decide (h < g) && decide (v % (2 ^ (g - h) : Nat) ≠ 0)
  let d := deliverQx n
  { v := d.1, fl := { d.2 with nx := d.2.nx || inexact }, sat := d.2.ovf }

/-- The exact value of an element of a float input type, widened. -/
def inFv (ty v : Nat) : Fv := (fpOf ty).decode v

/-- An E8M0 scale (R155). -/
def e8m0 (e : Nat) : Fv := if e = 255 then .nan false else .fin false 1 ((e : Int) - 127)

/-- The exact product of factors, with whether it is invalid (R167). -/
def prodFv : List Fv → Fv × Bool
  | [] => (.fin false 1 0, false)
  | [x] => (x, x.isSig)
  | x :: xs => let r := prodFv xs; let p := x.mul r.1; (p.1, p.2 || r.2)

/-- One k-block of a float accumulation: c + round(sum of the products) (R167). -/
def blockF32 (c : Nat × Fl) (ps : List (Fv × Bool)) : Nat × Fl :=
  let s := fpF32.sum 0 (ps.map Prod.fst)
  let r := fpF32.add 0 c.1 s.1
  (r.1, ((c.2.or s.2).or r.2).or { nv := ps.any Prod.snd })

/-- Lists cut into pieces of 16, with so many pieces at most. -/
def chunks16 {α : Type} : Nat → List α → List (List α)
  | 0, _ => []
  | n + 1, l => if l.isEmpty then [] else l.take 16 :: chunks16 n (l.drop 16)

/-- A float accumulation over k (R167); `none` stands for a pruned position of R337. -/
def accF32 (c : Nat) (ps : List (Option (Fv × Bool))) : El :=
  let r := (chunks16 (ps.length / 16 + 1) ps).foldl (fun a b => blockF32 a (b.filterMap id)) (c, {})
  { v := r.1, fl := r.2 }

/-- An integer accumulation over k (R168). -/
def accI32 (c : Nat) (ps : List (Option Int)) : El :=
  let r := (chunks16 (ps.length / 16 + 1) ps).foldl (fun (a : Int × Bool) b =>
      let e := satI32 (a.1 + (b.filterMap id).foldl (· + ·) 0)
      (sint e.v 32, a.2 || e.sat)) (sint c 32, false)
  { v := wrapN r.1 32, sat := r.2 }

/-- Saturates to 64 signed bits. -/
def sat64 (v : Int) : Int × Bool :=
  let d := sint (deliverInt true true 64 v) 64
  (d, decide (d ≠ v))

/-- A QX accumulation over k (R168, R336): the tile's element with its fraction length, the inputs' lengths together. -/
def accQx (c : Int) (frac fab : Nat) (ps : List Int) : El :=
  let start := if frac ≤ fab then c * (2 ^ (fab - frac) : Nat) else shiftRne c (frac - fab)
  let s0 := sat64 start
  let r := (chunks16 (ps.length / 16 + 1) ps).foldl (fun (a : Int × Bool) b =>
      let e := sat64 (a.1 + b.foldl (· + ·) 0)
      (e.1, a.2 || e.2)) s0
  let out := qxTo fab frac r.1
  let lossy := decide (fab < frac) && decide (c % (2 ^ (frac - fab) : Nat) ≠ 0)
  { out with fl := { out.fl with nx := out.fl.nx || lossy || r.2, ovf := out.fl.ovf || r.2 }, sat := out.sat || r.2 }

/-! ## Products (R336 to R338) -/

/-- Column j of a list of rows. -/
def colOf (b : List (List Nat)) (j : Nat) : List Nat := b.map fun r => r.getD j 0

/-- Each (i, j) of a tile from row i of A and column j of B. -/
def overTile (a b : List (List Nat)) (g : Nat → Nat → List Nat → List Nat → El) : List El :=
  (List.range 256).map fun n => g (n / 16) (n % 16) (a.getD (n / 16) []) (colOf b (n % 16))

/-- The elements that MMA and MMAS give (R336, R337): `mask` says at which k of a row a product stands. -/
def mulAcc (ty frac fab : Nat) (c : Nat → Nat → Nat) (mask : Nat → Nat → Bool) (a b : List (List Nat)) : List El :=
  overTile a b fun i j ra cb =>
    let ps := (List.range ra.length).map fun k => (k, ra.getD k 0, cb.getD k 0)
    if isFp ty then
      accF32 (c i j) (ps.map fun p => if mask i p.1 then some ((inFv ty p.2.1).mul (inFv ty p.2.2)) else none)
    else if ty = 14 then accQx (sint (c i j) 32) frac fab (ps.map fun p => sint p.2.1 32 * sint p.2.2 32)
    else accI32 (c i j) (ps.map fun p =>
      if mask i p.1 then some (intVal (tySigned ty) (tyBits ty) p.2.1 * intVal (tySigned ty) (tyBits ty) p.2.2) else none)

/-- The elements that MMAX gives (R338): `sa` the scales of A's rows, `sb` the scale rows of B. -/
def mulScaled (ty : Nat) (c : Nat → Nat → Nat) (a b sa sb : List (List Nat)) : List El :=
  overTile a b fun i j ra cb =>
    accF32 (c i j) ((List.range ra.length).map fun k =>
      some (prodFv [inFv ty (ra.getD k 0), inFv ty (cb.getD k 0), e8m0 ((sa.getD i []).getD (k / 32) 0),
        e8m0 ((sb.getD (k / 32) []).getD j 0)]))

/-- The dense row of a 2:4 sparse row (R337), with the positions that hold products; none where the metadata is broken. -/
def sparseRow (vals : List Nat) : List Nat → Nat → Option (List Nat × List Bool)
  | [], _ => some ([], [])
  | m :: ms, g =>
    let x := m % 4
    let y := m / 4 % 4
    if 16 ≤ m ∨ y ≤ x then none
    else match sparseRow vals ms (g + 1) with
      | none => none
      | some r =>
        let d := (List.range 4).map fun p => if p = x then vals.getD (2 * g) 0 else if p = y then vals.getD (2 * g + 1) 0 else 0
        some (d ++ r.1, ((List.range 4).map fun p => p == x || p == y) ++ r.2)

/-! ## Recurrences (R339, R340) -/

/-- NOPS of a program word. -/
def progOps (w : Word) : Nat := bitsOf w 2 0
/-- Op byte n of a program word. -/
def progOp (w : Word) (n : Nat) : Nat := w.toNat / 2 ^ (8 + 8 * n) % 256

/-- Does a program word given in a register or a record break R340? The op bytes past NOPS are not looked at. -/
def progBad (w : Word) : Bool :=
  let n := progOps w
  n == 0 || decide (4 < n) || bitsOf w 7 3 != 0 || bitsOf w 63 40 != 0 ||
    (List.range n).any fun i => decide (9 < progOp w i / 16)

/-- The ops that a program runs. -/
def progList (w : Word) : List Nat := (List.range (progOps w)).map (progOp w)

/-- May a program run on a float type (R339)? -/
def progFloat (w : Word) : Bool := (progList w).all fun o => decide (o / 16 < 8)

/-- One op of a microprogram. -/
def recOp (isF : Bool) (op x y : Nat) : Nat × Fl :=
  match op with
  | 0 => if isF then fpF32.add 0 x y else ((x + y) % 2 ^ 32, {})
  | 1 => if isF then fpF32.sub 0 x y else ((x + (2 ^ 32 - y % 2 ^ 32)) % 2 ^ 32, {})
  | 2 => if isF then fpF32.mul 0 x y else (x * y % 2 ^ 32, {})
  | 3 => if isF then fpF32.minmax false x y else (if sint x 32 ≤ sint y 32 then x else y, {})
  | 4 => if isF then fpF32.minmax true x y else (if sint x 32 ≤ sint y 32 then y else x, {})
  | 5 => (x &&& y, {})
  | 6 => (x ||| y, {})
  | 7 => (x ^^^ y, {})
  | 8 => (min x y, {})
  | _ => (max x y, {})

/-- The ops of one k: s and the flags. -/
def recOps (isF : Bool) (x y : Nat) : List Nat → Nat → Nat → Fl → Nat × Fl
  | [], s, _, fl => (s, fl)
  | o :: os, s, t, fl =>
    let pick (n : Nat) : Nat := match n with | 0 => s | 1 => x | 2 => y | _ => t
    let r := recOp isF (o / 16) (pick (o / 4 % 4)) (pick (o % 4))
    if os.isEmpty then (r.1, fl.or r.2) else recOps isF x y os s r.1 (fl.or r.2)

/-- An input element widened to the 32 bits of a recurrence. -/
def widen32 (ty v : Nat) : Nat := if ty = 9 ∨ ty = 10 then (fpF32.deliver 0 true (inFv ty v)).1 else v

/-- The elements that MREC gives. -/
def recur (ty : Nat) (prog : Word) (c : Nat → Nat → Nat) (a b : List (List Nat)) : List El :=
  overTile a b fun i j ra cb =>
    let r := (List.range ra.length).foldl (fun (q : Nat × Fl) k =>
        let x := inFv ty (ra.getD k 0)
        let y := inFv ty (cb.getD k 0)
        let sig : Fl := { nv := (ty == 9 || ty == 10) && (x.isSig || y.isSig) }
        let o := recOps (isFp ty) (widen32 ty (ra.getD k 0)) (widen32 ty (cb.getD k 0)) (progList prog) q.1 0 {}
        (o.1, (q.2.or o.2).or sig)) (c i j, {})
    { v := r.1, fl := r.2 }

/-! ## Tile moves and conversions (R341, R342) -/

/-- Sums a list by the tree of R165 with RNE nodes. -/
def treeF32 : Nat → List Nat → Nat × Fl
  | 0, l => (l.headD 0, {})
  | n + 1, l =>
    if l.length ≤ 1 then (l.headD 0, {})
    else
      let ps := (List.range (l.length / 2)).map fun i => fpF32.add 0 (l.getD (2 * i) 0) (l.getD (2 * i + 1) 0)
      let r := treeF32 n (ps.map Prod.fst)
      (r.1, (Fl.all (ps.map Prod.snd)).or r.2)

/-- The sum of one row of a tile of a type. -/
def rowSum (type : Nat) (row : List Nat) : El :=
  if type = 0 then let r := treeF32 5 row; { v := r.1, fl := r.2 }
  else
    let v := (row.map fun x => sint x 32).foldl (· + ·) 0
    if type = 1 then satI32 v else let d := deliverQx v; { v := d.1, fl := d.2, sat := d.2.ovf }

/-- One element converted from TYPE `src` with FRAC g to TYPE `dst` with FRAC h (R342). -/
def cvtEl (src g dst h v : Nat) : El :=
  let n := sint v 32
  let f : Fv := .fin (decide (n < 0)) n.natAbs (if src = 2 then -(g : Int) else 0)
  match src, dst with
  | 0, 1 => let r := toInt 0 true 32 (fpF32.decode v); { v := r.1, fl := r.2, sat := r.2.nv && !(fpF32.decode v).isNan }
  | 0, 2 =>
    let r := toQx 0 h (fpF32.decode v)
    { v := r.1, fl := r.2, sat := r.2.ovf || (r.2.nv && !(fpF32.decode v).isNan) }
  | 1, 2 => qxTo 0 h n
  | 2, 2 => qxTo g h n
  | 1, 0 => let r := fpF32.deliver 0 true f; { v := r.1, fl := r.2 }
  | 2, 0 => let r := fpF32.deliver 0 true f; { v := r.1, fl := r.2 }
  | 2, 1 => let e := satI32 (shiftRne n g); { e with fl := { nx := decide (n % (2 ^ g : Nat) ≠ 0) } }
  | _, _ => { v := v }

/-! ## Images (R344, R345) -/

/-- The 8,704-byte image of a tile context. -/
def Tctx.image (x : Tctx) (status : Nat → Word) : List Byte :=
  ((List.range 2048).map fun i => leBytes 4 (x.el (i / 256) (i % 256 / 16) (i % 16))).flatten ++
  ((List.range 8).map fun t => leBytes 8 (status t).toNat).flatten ++
  leBytes 4 x.tau ++ leBytes 4 x.delta ++ leBytes 4 x.bound ++ leBytes 4 x.ident ++
  leBytes 8 (match x.prog with | some w => w.toNat | none => 2 ^ 63) ++ leBytes 8 x.count.toNat ++
  List.replicate 160 0 ++ ((List.range 32).map fun i => leBytes 8 (x.log.getD i 0).toNat).flatten

/-- The bytes of an image. -/
def imageSize : Nat := 8704

/-- Is DELTA valid (R343): positive, finite, nonzero? -/
def deltaOk (v : Nat) : Bool := decide (0 < v) && decide (v < 0x7F800000)
/-- Is TAU valid (R343): finite and at least +0? -/
def tauOk (v : Nat) : Bool := decide (v < 0x7F800000) || v == 0x80000000

/-- Does an image break R345? -/
def imageBad (b : List Byte) : Bool :=
  let prog := BitVec.ofNat 64 (fieldAt b 0x2050 8)
  let cnt := fieldAt b 0x2058 8
  ((List.range 8).any fun t =>
    let w := BitVec.ofNat 64 (fieldAt b (0x2000 + 8 * t) 8)
    bitsOf w 60 58 != 0 || bitsOf w 55 53 != 0 || bitsOf w 47 45 != 0 || bitsOf w 36 32 != 0 || bitsOf w 57 56 == 3 ||
      w.getLsbD 37 || w.getLsbD 61) ||
  !deltaOk (fieldAt b 0x2044 4) || (if prog.getLsbD 63 then decide (prog.toNat ≠ 2 ^ 63) else progBad prog) ||
  decide (32 < cnt % 64) || cnt / 64 % 2 ^ 57 != 0 || !zeroAt b 0x2060 160

/-- The tile context of an image. -/
def ctxOfImage (b : List Byte) : Tctx :=
  let prog := BitVec.ofNat 64 (fieldAt b 0x2050 8)
  let cnt := fieldAt b 0x2058 8
  { tiles := (List.range 2048).map fun i => (i, fieldAt b (4 * i) 4)
    status := (List.range 8).map fun t => (t, BitVec.ofNat 64 (fieldAt b (0x2000 + 8 * t) 8))
    tau := fieldAt b 0x2040 4, delta := fieldAt b 0x2044 4, bound := fieldAt b 0x2048 4, ident := fieldAt b 0x204C 4
    prog := if prog.getLsbD 63 then none else some prog
    log := (List.range (cnt % 64)).map fun i => BitVec.ofNat 64 (fieldAt b (0x2100 + 8 * i) 8), ovf := nbit cnt 63 }

/-! ## Solvers (R347 to R350) -/

/-- What a solver has so far: its matrix by rows, its flags, its log events. -/
structure Solve where
  rows : List (List Nat)
  flags : Nat
  events : List (Nat × Nat × Nat)
deriving DecidableEq, Repr

/-- rnd of R347: an overflow delivers the largest finite value. -/
def rndSat (r : Nat × Fl) : El :=
  if r.2.ovf then { v := fpF32.largest (nbit r.1 31), fl := r.2, sat := true } else { v := r.1, fl := r.2 }

/-- Element (i, k) of a matrix held by rows. -/
def rowEl (m : List (List Nat)) (i k : Nat) : Nat := (m.getD i []).getD k 0

/-- The flags of elements, with RANGE where one saturated. -/
def elFlags (es : List El) : Nat := (Fl.all (es.map El.fl)).tile ||| (if es.any El.sat then rangeBit else 0)

/-- The greatest magnitude of values, NaNs ignored (R161). -/
def normOf (vs : List Nat) : Nat := vs.foldl (fun a v => (fpF32.minmax true a (v % 2 ^ 31)).1) fpF32.nan

/-- Is x at most TAU times a norm, exactly? A NaN is not (R348). -/
def tinyThan (x tau norm : Nat) : Bool :=
  let t := (fpF32.decode (if tau = 0x80000000 then 0 else tau)).mul (fpF32.decode norm)
  let v := fpF32.decode x
  !t.1.isNan && !v.isNan && decide (cmpFv v t.1 ≤ 0)

/-- Each row of a matrix from its index and itself. -/
def mapRows (m : List (List Nat)) (g : Nat → List Nat → List El) : List (List El) := m.mapIdx g

/-- Takes the elements of a step: new rows, flags, and the log events of column j. -/
def Solve.take (s : Solve) (j fl : Nat) (pre : List (Nat × Nat × Nat)) (es : List (List El)) : Solve :=
  let sat := es.any fun r => r.any El.sat
  { rows := es.map fun r => r.map El.v, flags := s.flags ||| fl ||| elFlags es.flatten,
    events := s.events ++ pre ++ if sat then [(2, j, 0)] else [] }

/-- An element that a step leaves. -/
def keepEl (v : Nat) : El := { v := v }

/-- Column j of MLUP (R348). -/
def lupCol (tau delta j : Nat) (s : Solve) : Solve :=
  let col := (s.rows.drop j).map fun r => r.getD j 0
  let p0 := rowEl s.rows j j
  let zero := (fpF32.decode p0).isZero
  let tiny := zero || tinyThan (p0 % 2 ^ 31) tau (normOf col)
  let p := if tiny then delta + (if nbit p0 31 && !zero then 2 ^ 31 else 0) else p0
  let prow := (s.rows.getD j []).set j p
  let es := mapRows s.rows fun i row =>
    if i < j then row.map keepEl
    else if i = j then prow.map keepEl
    else
      let l := rndSat (fpF32.div 0 (row.getD j 0) p)
      row.mapIdx fun k x => if k < j then keepEl x else if k = j then l else rndSat (fpF32.fma 0 true x l.v (prow.getD k 0))
  s.take j 0 (if tiny then [(1, j, p0)] else []) es

/-- Column j of MCHOL (R349). -/
def cholCol (tau delta j : Nat) (s : Solve) : Solve :=
  let col := (s.rows.drop j).map fun r => r.getD j 0
  let p0 := rowEl s.rows j j
  let v := fpF32.decode p0
  let tiny := v.isNan || v.isZero || tinyThan p0 tau (normOf col)
  let p := if tiny then delta else p0
  let d := rndSat (fpF32.sqrt 0 p)
  let ls := s.rows.mapIdx fun i row => if i ≤ j then d else rndSat (fpF32.div 0 (row.getD j 0) d.v)
  let es := mapRows s.rows fun i row =>
    row.mapIdx fun k x =>
      if k = j ∧ j ≤ i then ls.getD i d
      else if j < k ∧ k ≤ i then rndSat (fpF32.fma 0 true x (ls.getD i d).v (ls.getD k d).v)
      else keepEl x
  s.take j 0 (if tiny then [(1, j, p0)] else []) es

/-- Step k of MTRSM on the right-hand side (R350), `f` the factor by rows. -/
def trsmStep (mode : Nat) (f : List (List Nat)) (k : Nat) (s : Solve) : Solve :=
  let up := mode == 0 || mode == 2
  let xk := (s.rows.getD k []).map fun x => if mode = 0 then keepEl x else rndSat (fpF32.div 0 x (rowEl f k k))
  let es := mapRows s.rows fun i row =>
    if i = k then xk
    else if (if up then k < i else i < k) then
      let c := if mode = 3 then rowEl f k i else rowEl f i k
      row.mapIdx fun n x => rndSat (fpF32.fma 0 true x c (xk.getD n (keepEl 0)).v)
    else row.map keepEl
  s.take k 0 [] es

end Sys2Proof.Machine
end

