-- ==== Sys2Proof/Machine/MatOps.lean ====
section
/-! DEFINITION. The jobs of the matrix engine (R329 to R351): their memory operands, what each reads, checks and computes. -/

namespace Sys2Proof.Machine

/-! ## Engines and groups -/

/-- A matrix engine of a cluster. -/
def Cluster.eng (k : Cluster) (half : Nat) : MEng := mget {} k.meng half
/-- Sets a matrix engine. -/
def State.setEng (s : State) (pcl half : Nat) (e : MEng) : State :=
  let k := s.clu pcl
  s.setClu pcl { k with meng := mset k.meng half e }
/-- A group of an engine. -/
def State.grp (s : State) (pcl half n : Nat) : Option Group := mfind ((s.clu pcl).eng half).groups n
/-- Sets a group. -/
def State.setGrp (s : State) (pcl half n : Nat) (g : Group) : State :=
  let e := (s.clu pcl).eng half
  s.setEng pcl half { e with groups := mset e.groups n g }
/-- Removes a group. -/
def State.dropGrp (s : State) (pcl half n : Nat) : State :=
  let e := (s.clu pcl).eng half
  s.setEng pcl half { e with groups := mdel e.groups n }

/-- The half that a core belongs to (R8). -/
def halfOf (core : Nat) : Nat := core / 8

/-! ## Shapes and operands (R334) -/

/-- NSC of a shape word. -/
def shNsc (w : Word) : Nat := bitsOf w 63 56
/-- OFRAC of a shape word. -/
def shFrac (w : Word) : Nat := bitsOf w 54 50
/-- ROT of a shape word. -/
def shRot (w : Word) : Nat := bitsOf w 49 48
/-- K of a shape word. -/
def shK (w : Word) : Nat := bitsOf w 44 32
/-- TPITCH of a shape word. -/
def shT (w : Word) : Nat := bitsOf w 31 16
/-- RPITCH of a shape word. -/
def shR (w : Word) : Nat := bitsOf w 15 0

/-- Does a shape word break R334? NSC belongs to MMAX, OFRAC to QX. -/
def shapeBad (w : Word) (scale qx : Bool) : Bool :=
  w.getLsbD 55 || bitsOf w 47 45 != 0 || shK w == 0 || decide (4096 < shK w) || shT w % 16 != 0 || shR w % 16 != 0 ||
    (!scale && shNsc w != 0) || (!qx && shFrac w != 0)

/-- Where an operand's base lies: cluster memory with core and offset, global memory, or elsewhere (R334). -/
inductive MPlace where
  | clus (core off : Nat)
  | glob
  | other
deriving DecidableEq, Repr

/-- The place of a base for a job of a core. -/
def State.mPlace (s : State) (pcl core : Nat) (base : Word) : MPlace :=
  let v := base.toNat
  if isAlias v then .clus core (v - aliasBase)
  else if isMesh v then
    if v < meshBase + 2 ^ 31 ∧ v / 2 ^ 19 % 4096 = (s.clu pcl).vcl then .clus (v / 2 ^ 15 % 16) (v % 2 ^ 15) else .other
  else if v < 2 ^ 56 then .glob else .other

/-- Does a place break R334 with a shape word? -/
def MPlace.badShape (p : MPlace) (w : Word) : Bool :=
  match p with
  | .clus _ o => o % 16 != 0
  | .glob => shRot w != 0 || shT w != 0
  | .other => false

/-- Why a job does not go on: a subcode of R330, or its engine's access. -/
inductive JobErr where
  | sub (n : Nat)
  | eng (e : EngErr)
deriving DecidableEq, Repr

/-- The core and offset of row r of an operand in cluster memory. -/
def rowAddr (c0 o0 : Nat) (w : Word) (r : Nat) : Nat × Nat :=
  ((c0 + r % 16 % 2 ^ shRot w) % 16, o0 + r / 16 * shT w + r % 16 / 2 ^ shRot w * shR w)

/-- The mesh address of a byte of a core's slice (R203). -/
def State.meshAddr (s : State) (pcl core off : Nat) : Word :=
  BitVec.ofNat 64 (meshBase + (s.clu pcl).vcl * 2 ^ 19 + core * 2 ^ 15 + off)

/-- The rights of a job's accesses. -/
def State.jobWho (s : State) (pcl : Nat) (j : Job) : Who :=
  { core := pcl * 16 + j.core, pcl := pcl, asid := (s.launch j.lid).asid, priv := j.priv, handler := false, steward := false }

/-- The agent of a job. -/
def State.jobAgent (s : State) (j : Job) : Agent := { code := 3, c := s.ctxOf j.lid j.tid }

/-- The temporal class of a job's global accesses (R333). -/
def Job.cls (j : Job) : Nat := j.f.h.toNat / 256

/-- A row of an operand: n bytes from its start, as a number. -/
def State.mRow (s : State) (pcl : Nat) (j : Job) (p : MPlace) (base w : Word) (r n : Nat) : State × Except JobErr Nat :=
  match p with
  | .clus c0 o0 =>
    let a := rowAddr c0 o0 w r
    if s.lmemBytes pcl < a.2 + n then (s, .error (.eng (.prot (s.meshAddr pcl a.1 (max a.2 (s.lmemBytes pcl))))))
    else (s, .ok (s.readAt (.slice (pcl * 16 + a.1) a.2) n))
  | .glob =>
    match s.engRead (s.jobAgent j) (s.jobWho pcl j) j.cls (base + BitVec.ofNat 64 (r * shR w)) n with
    | (s1, .ok bs) => (s1, .ok (leVal bs))
    | (s1, .error e) => (s1, .error (.eng e))
  | .other => (s, .error (.sub 18))

/-- Rows of an operand. -/
def State.mRows (pcl : Nat) (j : Job) (p : MPlace) (base w : Word) (n : Nat) : List Nat → State → State × Except JobErr (List Nat)
  | [], s => (s, .ok [])
  | r :: rs, s =>
    match s.mRow pcl j p base w r n with
    | (s1, .error e) => (s1, .error e)
    | (s1, .ok v) =>
      let q := State.mRows pcl j p base w n rs s1
      (q.1, q.2.map fun l => v :: l)

/-- Elements 0 to k - 1 of width w of a row. -/
def rowEls (w k v : Nat) : List Nat := (List.range k).map fun c => v / 2 ^ (w * c) % 2 ^ w

/-- Adds a write of bytes at row r of an operand to a list of units. -/
def State.mPut (s : State) (pcl : Nat) (j : Job) (p : MPlace) (base w : Word) (r : Nat) (bs : List Byte) (us : List UnitW) :
    Except JobErr (List UnitW) :=
  match p with
  | .clus c0 o0 =>
    let a := rowAddr c0 o0 w r
    if s.lmemBytes pcl < a.2 + bs.length then .error (.eng (.prot (s.meshAddr pcl a.1 (max a.2 (s.lmemBytes pcl)))))
    else
      .ok ((piecesOf (BitVec.ofNat 64 a.2) bs.length).foldl (fun (q : List UnitW × List Byte) (x : Word × Nat) =>
        (addUnit q.1 (.slice (pcl * 16 + a.1) x.1.toNat) (q.2.take x.2), q.2.drop x.2)) (us, bs)).1
  | .glob =>
    match s.engTarget (s.jobWho pcl j) (base + BitVec.ofNat 64 (r * shR w)) bs us with
    | .ok l => .ok l
    | .error e => .error (.eng e)
  | .other => .error (.sub 18)

/-- Writes of rows in order. -/
def State.mPuts (s : State) (pcl : Nat) (j : Job) (p : MPlace) (base w : Word) : List (Nat × List Byte) → List UnitW → Except JobErr (List UnitW)
  | [], us => .ok us
  | (r, bs) :: rs, us =>
    match s.mPut pcl j p base w r bs us with
    | .error e => .error e
    | .ok us1 => State.mPuts s pcl j p base w rs us1

/-! ## What a job names -/

/-- Major of a job. -/
def Job.maj (j : Job) : Nat := j.id / 16
/-- fn of a job. -/
def Job.fn (j : Job) : Nat := j.id % 16
/-- The type code of a job. -/
def Job.ty (j : Job) : Nat := j.f.ext.toNat / 4
/-- Is operand A a vector pair? -/
def Job.vecA (j : Job) : Bool := j.maj == 1 && j.f.ext.getLsbD 1
/-- Is operand B a vector pair? -/
def Job.vecB (j : Job) : Bool := (j.maj == 1 || j.maj == 2) && j.f.ext.getLsbD 0
/-- A window register that the job read at dispatch. -/
def Job.val (j : Job) (n : Nat) : Word := j.vals.getD n 0
/-- The pair of operand B. -/
def Job.pairB (j : Job) : Word × Word := if j.vecA then (j.val 0, j.val 1) else (j.val 2, j.val 3)
/-- The tile that a job names in field d or a (R329); none for MGRP. -/
def Job.tile (j : Job) : Nat := if j.maj = 0 then 0 else if j.maj ≤ 4 then j.f.d.toNat else j.f.a.toNat

/-- Does the job write the data of tile t (INFL of R327)? -/
def Job.writes (j : Job) (t : Nat) : Bool :=
  match j.maj with
  | 0 => j.fn == 3 || (j.fn == 6 && j.f.b.toNat == t + 8)
  | 5 => j.fn != 2 && j.f.a.toNat == t
  | 6 => false
  | _ => j.f.d.toNat == t

/-- Is the job one of the solvers, which stop at boundaries (R347)? -/
def Job.solver (j : Job) : Bool := j.maj == 6 && decide (j.fn ≤ 2)

/-- The tile type that an ext6 code names (R333): 0 F32, 1 I32, 2 QX. -/
def tileType (ty : Nat) : Nat := if ty = 8 then 0 else if ty = 2 then 1 else 2

/-- The tile type that an input type accumulates into (R336, R339). -/
def accType (ty : Nat) : Nat := if isFp ty then 0 else if ty = 14 then 2 else 1

/-! ## Products -/

/-- The 256 bits of a vector pair. -/
def pairBits (lo hi : V128) : Nat := lo.toNat + hi.toNat * 2 ^ 128
/-- Element (r, c) of a vector operand whose element order runs down 16 first. -/
def vecEl (w bits n : Nat) : Nat := bits / 2 ^ (w * n) % 2 ^ w

/-- A as a vector pair, by rows (R335). -/
def vecRowsA (w : Nat) (j : Job) : List (List Nat) :=
  (List.range 16).map fun i => (List.range (16 / w)).map fun k => vecEl w (pairBits j.va j.va1) (16 * k + i)
/-- B as a vector pair, by rows (R335). -/
def vecRowsB (w : Nat) (j : Job) : List (List Nat) :=
  (List.range (16 / w)).map fun k => (List.range 16).map fun c => vecEl w (pairBits j.vb j.vb1) (16 * k + c)

/-- What the multiply-accumulate jobs check before they read: MSHAPE, MXSHAPE, MSPACE, MTYPE in this order. -/
def State.mulCheck (s : State) (pcl : Nat) (j : Job) (x : Tctx) : Option Nat :=
  let ty := j.ty
  let scale := j.maj == 3
  let pa := s.mPlace pcl j.core (j.val 0)
  let pb := s.mPlace pcl j.core j.pairB.1
  let wa := j.val 1
  let wb := j.pairB.2
  let badA := !j.vecA && (shapeBad wa scale (ty == 14) || pa.badShape wa)
  let badB := !j.vecB && (shapeBad wb scale (ty == 14) || pb.badShape wb)
  let kv := 16 / tyBits ty
  let kBad := match j.vecA, j.vecB with
    | false, false => shK wa != shK wb
    | false, true => shK wa != kv
    | true, false => shK wb != kv
    | true, true => false
  let isClus (p : MPlace) : Bool := match p with | .clus _ _ => true | _ => false
  if badA || badB || kBad || (j.maj == 2 && shK wa % 4 != 0) then some 16
  else if scale && (shNsc wa != (shK wa + 31) / 32 || shNsc wb != (shK wa + 31) / 32) then some 17
  else if (!j.vecA && !isClus pa) || (!j.vecB && !isClus pb) then some 18
  else if x.valid j.f.d.toNat && x.type j.f.d.toNat != accType ty then some 19
  else if j.maj == 4 && (match x.prog with | none => true | some w => isFp ty && !progFloat w) then some 23
  else none

/-- Reads A of a job whose checks passed: n rows of so many bytes. -/
def State.readA (s : State) (pcl : Nat) (j : Job) (rows : List Nat) (n : Nat) : State × Except JobErr (List Nat) :=
  State.mRows pcl j (s.mPlace pcl j.core (j.val 0)) (j.val 0) (j.val 1) n rows s
/-- Reads B of a job whose checks passed. -/
def State.readB (s : State) (pcl : Nat) (j : Job) (rows : List Nat) (n : Nat) : State × Except JobErr (List Nat) :=
  State.mRows pcl j (s.mPlace pcl j.core j.pairB.1) j.pairB.1 j.pairB.2 n rows s

/-- K of a job: that of its memory operand, else of its vectors. -/
def Job.k (j : Job) : Nat := if !j.vecA then shK (j.val 1) else if !j.vecB then shK j.pairB.2 else 16 / tyBits j.ty

/-- What a job gives: the context it leaves and the units it writes. -/
abbrev JobOut : Type := Except JobErr (Tctx × List UnitW)

/-- The elements of MMA, MMAS, MMAX and MREC from the rows read. -/
def mulEls (j : Job) (x : Tctx) (ra rm rb : List Nat) : Except JobErr (List El) :=
  let ty := j.ty
  let w := tyBits ty
  let k := j.k
  let d := j.f.d.toNat
  let fab := shFrac (j.val 1) + shFrac j.pairB.2
  let c (i q : Nat) : Nat := x.el d i q
  let rowsB := if j.vecB then vecRowsB w j else rb.map (rowEls w 16)
  match j.maj with
  | 1 =>
    let a := if j.vecA then vecRowsA w j else ra.map (rowEls w k)
    .ok (mulAcc ty (x.frac d) fab c (fun _ _ => true) a rowsB)
  | 2 =>
    let dense := (ra.zip rm).map fun p => sparseRow (rowEls w (k / 2) p.1) (rowEls 8 (k / 4) p.2) 0
    if dense.any Option.isNone then .error (.sub 24)
    else
      let ds := dense.map fun o => o.getD ([], [])
      .ok (mulAcc ty 0 0 c (fun i n => ((ds.getD i ([], [])).2).getD n false) (ds.map Prod.fst) rowsB)
  | 3 =>
    let o := (k * w + 7) / 8
    let ns := (k + 31) / 32
    .ok (mulScaled ty c (ra.map (rowEls w k)) ((rb.take k).map (rowEls w 16)) (ra.map fun v => rowEls 8 ns (v / 2 ^ (8 * o)))
      ((rb.drop k).map (rowEls 8 16)))
  | _ =>
    let s (i q : Nat) : Nat := if x.valid d then x.el d i q else x.ident
    .ok (recur ty (x.prog.getD 0) s (ra.map (rowEls w k)) rowsB)

/-- A multiply-accumulate job (R336 to R339). -/
def State.jobMul (s : State) (pcl : Nat) (j : Job) (x : Tctx) : State × JobOut :=
  match s.mulCheck pcl j x with
  | some n => (s, .error (.sub n))
  | none =>
    let w := tyBits j.ty
    let k := j.k
    let ns := if j.maj = 3 then (k + 31) / 32 else 0
    let na := if j.maj = 2 then (k / 2 * w + 7) / 8 else (k * w + 7) / 8 + ns
    let a := if j.vecA then (s, .ok []) else s.readA pcl j (List.range 16) na
    match a.2 with
    | .error e => (a.1, .error e)
    | .ok ra =>
      let m := if j.maj = 2 then a.1.readA pcl j ((List.range 16).map (16 + ·)) (k / 4) else (a.1, .ok [])
      match m.2 with
      | .error e => (m.1, .error e)
      | .ok rm =>
        let b := if j.vecB then (m.1, .ok []) else m.1.readB pcl j (List.range k) (16 * w / 8)
        match b.2 with
        | .error e => (b.1, .error e)
        | .ok rb =>
          let q := if ns = 0 then (b.1, .ok []) else b.1.readB pcl j ((List.range ns).map (k + ·)) 16
          match q.2 with
          | .error e => (q.1, .error e)
          | .ok rs =>
            match mulEls j x ra rm (rb ++ rs) with
            | .error e => (q.1, .error e)
            | .ok es => (q.1, .ok (x.deliver j.f.d.toNat (accType j.ty) j.num es, []))

/-! ## Tile jobs (R341, R342) -/

/-- The shape and place checks of a pair that holds a tile; `qx` says that its elements are QX, whose fraction length OFRAC names. -/
def State.tilePair (s : State) (pcl : Nat) (j : Job) (qx : Bool) : Option Nat :=
  let p := s.mPlace pcl j.core (j.val 0)
  let w := j.val 1
  if shapeBad w false qx || shK w != 16 || p.badShape w then some 16 else if p = .other then some 18 else none

/-- Clears the flag bits 44 to 38 of a tile's status. -/
def Tctx.clearFlags (x : Tctx) (t : Nat) : Tctx := x.setSt t (putBits (x.st t) 38 7 0)
/-- Sets or clears DIRTY. -/
def Tctx.dirty (x : Tctx) (t v : Nat) : Tctx := x.setSt t (putBits (x.st t) 62 1 v)
/-- Sets FRAC. -/
def Tctx.setFrac (x : Tctx) (t v : Nat) : Tctx := x.setSt t (putBits (x.st t) 48 5 v)

/-- The tile jobs that read and write no memory. -/
def tileJob (j : Job) (x : Tctx) : Tctx :=
  let a := j.f.a.toNat
  let b := j.f.b.toNat
  let keep := x.els b
  match j.fn with
  | 0 => (x.write a (tileType j.ty) j.num (List.replicate 256 0)).clearFlags a
  | 3 => (x.write a (x.type b) j.num ((List.range 256).map fun n => x.el b (n % 16) (n / 16))).setFrac a (x.frac b)
  | 4 => x.deliver a (tileType j.ty) j.num (keep.map (cvtEl (x.type b) (x.frac b) (tileType j.ty) (x.frac a)))
  | 5 =>
    let es := (List.range 256).map fun n =>
      if n % 16 = 0 then rowSum (x.type b) ((keep.drop n).take 16) else { v := 0 }
    (x.setFrac a (x.frac b)).deliver a (x.type b) j.num es
  | _ =>
    let fl := bitsOf (x.st b) 44 38
    let y := (x.write a (x.type b) j.num keep).setFrac a (x.frac b)
    y.setSt a (putBits (y.st a) 38 7 fl)

/-- A tile job (R341). -/
def State.jobTile (s : State) (pcl : Nat) (j : Job) (x : Tctx) : State × JobOut :=
  let a := j.f.a.toNat
  let p := s.mPlace pcl j.core (j.val 0)
  if j.fn = 1 then
    match s.tilePair pcl j (tileType j.ty == 2) with
    | some n => (s, .error (.sub n))
    | none =>
      match State.mRows pcl j p (j.val 0) (j.val 1) 64 (List.range 16) s with
      | (s1, .error e) => (s1, .error e)
      | (s1, .ok rows) =>
        let els := (rows.map (rowEls 32 16)).flatten
        (s1, .ok (((x.write a (tileType j.ty) j.num els).clearFlags a).dirty a 0, []))
  else if j.fn = 2 then
    match s.tilePair pcl j (x.type a == 2) with
    | some n => (s, .error (.sub n))
    | none =>
      let rows := (List.range 16).map fun r => (r, ((List.range 16).map fun c => leBytes 4 (x.el a r c)).flatten)
      match s.mPuts pcl j p (j.val 0) (j.val 1) rows [] with
      | .error e => (s, .error e)
      | .ok us => (s, .ok (x.dirty a 0, us))
  else (s, .ok (tileJob j x, []))

/-! ## Parameters and images (R340, R343 to R345) -/

/-- The record that MUCODE names or gives (R340): program word and IDENT. -/
def State.ucode (s : State) (j : Job) : Option (Word × Nat) :=
  let a := j.val 0
  let b := j.val 1
  if a.getLsbD 63 then
    if bitsOf a 62 4 ≠ 0 then none
    else ((s.objects[(s.launch j.lid).obj]?).bind fun o => o.ucode[bitsOf a 3 0]?).map fun r => (r.1, r.2.toNat)
  else if progBad a || bitsOf b 63 32 != 0 then none
  else some (a, b.toNat)

/-- MSETS (R343); the rescale of a tile records NX and RANGE, and no other flag. -/
def msets (j : Job) (x : Tctx) : Except JobErr Tctx :=
  let v := (j.val 0).toNat
  let s := j.f.b.toNat
  match s with
  | 0 => if v < 2 ^ 32 ∧ tauOk v then .ok { x with tau := v } else .error (.sub 16)
  | 1 => if v < 2 ^ 32 ∧ deltaOk v then .ok { x with delta := v } else .error (.sub 16)
  | 2 => if v < 2 ^ 31 then .ok { x with bound := v } else .error (.sub 16)
  | _ =>
    let t := s - 8
    if 32 ≤ v then .error (.sub 16)
    else if x.valid t && x.type t == 2 then
      let es := (x.els t).map fun e => qxTo (x.frac t) v (sint e 32)
      .ok ((x.setFrac t v).deliver t 2 j.num (es.map fun e => { e with fl := { nx := e.fl.nx } }))
    else .ok (x.setFrac t v)

/-- The status word that MSAVE and a drain write for a tile (R345). -/
def Tctx.saved (x : Tctx) (t : Nat) : Word := putBits (putBits (x.st t) 61 1 0) 37 1 0

/-- A job of MGRP. -/
def State.jobGrp (s : State) (pcl : Nat) (j : Job) (x : Tctx) : State × JobOut :=
  let p := s.mPlace pcl j.core (j.val 0)
  let bad : Option Nat := if (j.val 0).toNat % 64 ≠ 0 then some 16 else if p = .other then some 18 else none
  match j.fn with
  | 2 =>
    match bad with
    | some n => (s, .error (.sub n))
    | none =>
      let y := (List.range 8).foldl (fun (a : Tctx) t => a.dirty t 0) x
      match s.mPut pcl j p (j.val 0) 0 0 (y.image y.saved) [] with
      | .error e => (s, .error e)
      | .ok us => (s, .ok (y, us))
  | 3 =>
    match bad with
    | some n => (s, .error (.sub n))
    | none =>
      match s.mRow pcl j p (j.val 0) 0 0 imageSize with
      | (s1, .error e) => (s1, .error e)
      | (s1, .ok v) =>
        let b := leBytes imageSize v
        if imageBad b then (s1, .error (.sub 26))
        else (s1, .ok ((List.range 8).foldl (fun (a : Tctx) t => a.dirty t 0) (ctxOfImage b), []))
  | 5 =>
    match s.ucode j with
    | none => (s, .error (.sub 23))
    | some r => (s, .ok ({ x with prog := some r.1, ident := r.2 }, []))
  | _ => (s, (msets j x).map fun y => (y, []))

/-- MFXCHK (R351). -/
def fxchk (j : Job) (x : Tctx) : JobOut :=
  let t := j.f.a.toNat
  if !x.valid t then .ok (x, [])
  else if x.type t ≠ 2 then .error (.sub 19)
  else match (x.els t).findIdx? fun e => decide (x.bound < (sint e 32).natAbs) with
    | some i => .ok ((x.flag t (2 ^ 38)).logEv j.num (4, elWhere t i, (x.els t).getD i 0), [])
    | none => .ok (x, [])

/-- What a job that is no solver reads, checks and computes. -/
def State.jobRun (s : State) (pcl : Nat) (j : Job) (x : Tctx) : State × JobOut :=
  match j.maj with
  | 0 => s.jobGrp pcl j x
  | 5 => s.jobTile pcl j x
  | 6 => (s, fxchk j x)
  | _ => s.jobMul pcl j x

/-! ## Solvers (R347 to R350) -/

/-- n of a solver. -/
def Job.n (j : Job) : Nat := shK (j.val 1)
/-- The pair that a solver writes: its only pair, or MTRSM's right-hand side. -/
def Job.target (j : Job) : Word × Word := if j.fn = 2 then (j.val 2, j.val 3) else (j.val 0, j.val 1)

/-- What a solver checks before its first write: MSHAPE, then MSPACE. -/
def State.solveCheck (s : State) (pcl : Nat) (j : Job) : Option Nat :=
  let bad (b w : Word) : Bool := shapeBad w false false || (s.mPlace pcl j.core b).badShape w
  let isClus (b : Word) : Bool := match s.mPlace pcl j.core b with | .clus _ _ => true | _ => false
  let n := j.n
  if bad (j.val 0) (j.val 1) || (j.fn == 2 && bad (j.val 2) (j.val 3)) || n % 16 != 0 || decide (n < 16) || decide (1024 < n) ||
      (j.fn == 2 && (j.val 4).toNat / 4 != 0) then some 16
  else if !isClus (j.val 0) || (j.fn == 2 && !isClus (j.val 2)) then some 18 else none

/-- The columns of a solver's matrix. -/
def Job.cols (j : Job) : Nat := shK j.target.2

/-- Reads rows of a matrix of F32 elements, each with its number of elements. -/
def State.readMatRows (s : State) (pcl : Nat) (j : Job) (b w : Word) : List (Nat × Nat) → Except JobErr (List (List Nat))
  | [] => .ok []
  | (r, k) :: rs =>
    match (s.mRow pcl j (s.mPlace pcl j.core b) b w r (4 * k)).2 with
    | .error e => .error e
    | .ok v => (State.readMatRows s pcl j b w rs).map fun l => rowEls 32 k v :: l

/-- The rows of the matrix that a solver writes, each with the number of its first elements that the job reads and writes: MCHOL leaves
the part above the diagonal unread (R349). -/
def Job.solveRows (j : Job) : List (Nat × Nat) := (List.range j.n).map fun r => (r, if j.fn = 1 then r + 1 else j.cols)

/-- The matrix that a solver works on, as it stands (R347). -/
def State.readTarget (s : State) (pcl : Nat) (j : Job) : Except JobErr (List (List Nat)) :=
  s.readMatRows pcl j j.target.1 j.target.2 j.solveRows

/-- The factor that MTRSM uses; the other solvers have none (R350). -/
def State.readFactor (s : State) (pcl : Nat) (j : Job) : Except JobErr (List (List Nat)) :=
  if j.fn = 2 then s.readMatRows pcl j (j.val 0) (j.val 1) ((List.range j.n).map fun r => (r, j.n)) else .ok []

/-- The columns or values of k that one boundary's work takes, in their order. -/
def Job.block (j : Job) (step : Nat) : List Nat :=
  let up := (List.range 16).map (16 * step + ·)
  if j.fn = 2 ∧ ((j.val 4).toNat % 4 = 1 ∨ (j.val 4).toNat % 4 = 3) then up.map (j.n - 1 - ·) else up

/-- The work up to the next boundary. -/
def solveBlock (j : Job) (x : Tctx) (factor : List (List Nat)) (step : Nat) (q : Solve) : Solve :=
  (j.block step).foldl (fun (a : Solve) k =>
    match j.fn with
    | 0 => lupCol x.tau x.delta k a
    | 1 => cholCol x.tau x.delta k a
    | _ => trsmStep ((j.val 4).toNat % 4) factor k a) q

/-- The log events of a solver in the order of the log: ascending columns, though MODE 1 and 3 go down through k (R346). -/
def Job.logOrder (j : Job) (es : List (Nat × Nat × Nat)) : List (Nat × Nat × Nat) :=
  if j.fn = 2 ∧ ((j.val 4).toNat % 4 = 1 ∨ (j.val 4).toNat % 4 = 3) then es.reverse else es

/-- The units that a solver writes at its end: every element of its matrix that it works on. -/
def State.solvedUnits (s : State) (pcl : Nat) (j : Job) (rows : List (List Nat)) : Except JobErr (List UnitW) :=
  s.mPuts pcl j (s.mPlace pcl j.core j.target.1) j.target.1 j.target.2 (rows.mapIdx fun i r => (i, (r.map (leBytes 4)).flatten)) []

/-- The units that writes of rows fall into, as far as their addresses translate. -/
def State.rowUnits (s : State) (pcl : Nat) (j : Job) (base w : Word) (rows : List (Nat × Nat)) : List UnitW :=
  let p := s.mPlace pcl j.core base
  let keep (us : List UnitW) (r : Except JobErr (List UnitW)) : List UnitW := match r with | .ok l => l | .error _ => us
  rows.foldl (fun us r => match p with
    | .glob => (piecesOf (base + BitVec.ofNat 64 (r.1 * shR w)) r.2).foldl (fun (a : List UnitW) (x : Word × Nat) =>
        keep a (s.mPut pcl j .glob x.1 0 0 (List.replicate x.2 0) a)) us
    | _ => keep us (s.mPut pcl j p base w r.1 (List.replicate r.2 0) us)) []

/-- The units that a job will write, of which it takes ownership at acceptance (R329). -/
def State.destUnits (s : State) (pcl : Nat) (j : Job) : List UnitW :=
  if j.maj = 5 ∧ j.fn = 2 ∧ (s.tilePair pcl j true).isNone then
    s.rowUnits pcl j (j.val 0) (j.val 1) ((List.range 16).map fun r => (r, 64))
  else if j.maj = 0 ∧ j.fn = 2 ∧ (j.val 0).toNat % 64 = 0 then s.rowUnits pcl j (j.val 0) 0 [(0, imageSize)]
  else if j.solver ∧ (s.solveCheck pcl j).isNone then
    s.rowUnits pcl j j.target.1 j.target.2 (j.solveRows.map fun r => (r.1, 4 * r.2))
  else []

end Sys2Proof.Machine
end

