-- ==== Sys2Proof/Machine/Matrix.lean ====
section
/-! DEFINITION. Matrix groups and engines: convening and leaving, the dispatch and acceptance of jobs, their completion, residency,
and the instructions that read a group (R325 to R332, R346). -/

namespace Sys2Proof.Machine

/-! ## Where a thread's group stands -/

/-- The half and number of a group reference. -/
def grpRef (g : Nat) : Nat × Nat := (g / 2 ^ 16, g % 2 ^ 16)

/-- The group of a context. -/
def State.myGroup (s : State) (c : Nat) : Option (Nat × Nat × Group) :=
  match (s.thread c).grp with
  | some r => (s.grp (pclOf c) (grpRef r).1 (grpRef r).2).map fun g => ((grpRef r).1, (grpRef r).2, g)
  | none => none

/-- The lowest number that no group of an engine has. -/
def freeNum (m : SMap Group) : Nat := ((List.range (m.length + 1)).find? fun n => !mhas m n).getD 0

/-- The resident places taken in an engine (R331). -/
def MEng.places (e : MEng) : List Nat := e.groups.filterMap fun (p : Nat × Group) => p.2.place
/-- A free resident place. -/
def MEng.freePlace (e : MEng) : Option Nat :=
  if !e.places.contains 0 then some 0 else if !e.places.contains 1 then some 1 else none

/-- The engine's place in the order of job starts: above every other. -/
def MEng.stamp (e : MEng) : Nat := (e.groups.foldl (fun a (p : Nat × Group) => max a p.2.lastStart) 0) + 1

/-! ## Convening and leaving (R325, R326) -/

/-- The members of a group, by ascending core number. -/
def sortByCore : List Nat → List Nat
  | [] => []
  | t :: ts => insert1 t (sortByCore ts)
where
  insert1 (t : Nat) : List Nat → List Nat
    | [] => [t]
    | u :: us => if t % 64 ≤ u % 64 then t :: u :: us else u :: insert1 t us

/-- The microprogram that a new group has: record 0 of the object's UCODE section. -/
def State.firstProg (s : State) (lid : Nat) : Option (Word × BitVec 32) :=
  (s.objects[(s.launch lid).obj]?).bind fun o => o.ucode.head?

/-- A group forms (R325): every member belongs to it and receives CONVENED. -/
def State.formGroup (s : State) (pcl half key n lid : Nat) (who : List Nat) : State :=
  let e := (s.clu pcl).eng half
  let num := freeNum e.groups
  let ms := sortByCore who
  let pr := s.firstProg lid
  let g : Group := { key := key, lid := lid, members := ms, place := e.freePlace, fresh := e.freePlace.isSome,
                     ctx := { prog := pr.map Prod.fst, ident := match pr with | some r => r.2.toNat | none => 0 } }
  let mask := ms.foldl (fun a t => a + 2 ^ (t / 4 % 8)) 0
  let s1 := s.setEng pcl half { conv := e.conv.filter (fun x => x.key != key), groups := mset e.groups num g }
  let s2 := ms.foldl (fun (a : State) t => a.onThread lid t fun x => { x with grp := some (half * 2 ^ 16 + num) }) s1
  ms.zipIdx.foldl (fun (a : State) (x : Nat × Nat) =>
    a.launchMsg (unitMsg lid x.1 8 key (pcl * 2 + half) (key + x.2 * 2 ^ 16 + (n - 1) * 2 ^ 19 + mask * 2 ^ 24) 0)) s2

/-- MCONV's status and effect (R325). -/
def State.mconv (s : State) (c : Nat) (w : Word) : State × Nat :=
  let t := s.thread c
  let pcl := pclOf c
  let half := halfOf (coreNo c)
  let e := (s.clu pcl).eng half
  let key := bitsOf w 15 0
  let n := bitsOf w 18 16 + 1
  let same := e.conv.find? fun x => x.key == key
  if bitsOf w 63 19 ≠ 0 then (s, 2)
  else if t.grp.isSome || e.conv.any (fun x => x.who.contains t.tid) then (s, 1)
  else match same with
    | some x =>
      if x.n ≠ n then (s, 3)
      else if x.who.any (fun u => u / 4 == t.tid / 4) then (s, 4)
      else if x.who.length + 1 = n then (s.formGroup pcl half key n t.lid (x.who ++ [t.tid]), 0)
      else
        let conv := e.conv.map fun y => if y.key = key then { y with who := y.who ++ [t.tid] } else y
        (s.setEng pcl half { e with conv := conv }, 0)
    | none =>
      if 8 ≤ e.conv.length then (s, 5)
      else if n = 1 then (s.formGroup pcl half key n t.lid [t.tid], 0)
      else (s.setEng pcl half { e with conv := e.conv ++ [{ key := key, n := n, who := [t.tid] }] }, 0)

/-- MCONV (R325). -/
def execMconv (f : Fld) (s : State) : Host.Outcome State Fault Refusal :=
  issue { irrev := true, names := [f.a, f.b] } f s fun s =>
    let r := s.mconv s.cur (s.W f.a)
    .ok (r.1.setW f.b (BitVec.ofNat 64 r.2)).advance

/-- MLEAVE's status and effect, once the thread's jobs are over (R326). -/
def State.mleave (s : State) (c : Nat) : State × Nat :=
  let t := s.thread c
  let pcl := pclOf c
  let half := halfOf (coreNo c)
  let e := (s.clu pcl).eng half
  match s.myGroup c with
  | some (h, n, g) =>
    let ms := g.members.filter (· != t.tid)
    let s1 := s.setThread c { t with grp := none }
    if !ms.isEmpty then (s1.setGrp pcl h n { g with members := ms }, 0)
    else if g.jobs.isEmpty then (s1.dropGrp pcl h n, 1)
    else (s1.setGrp pcl h n { g with members := [], ending := true }, 1)
  | none =>
    if e.conv.any fun x => x.who.contains t.tid then
      let conv := (e.conv.map fun x => { x with who := x.who.filter (· != t.tid) }).filter fun x => !x.who.isEmpty
      (s.setEng pcl half { e with conv := conv }, 3)
    else (s, 2)

/-- MLEAVE (R326). -/
def execMleave (f : Fld) (s : State) : Host.Outcome State Fault Refusal :=
  issue { irrev := true, names := [f.a] } f s fun s =>
    if s.t.vec.seq.any (·.page == 5) then s.waitVec
    else if 0 < s.t.jobs then .stop .wait none
    else
      let r := s.mleave s.cur
      .ok (r.1.setW f.a (BitVec.ofNat 64 r.2)).advance

/-! ## Reading a group (R332, R346) -/

/-- The job word (R332). -/
def Group.word (g : Group) : Word :=
  BitVec.ofNat 64 (g.done + g.next * 2 ^ 16 + g.jobs.length % 32 * 2 ^ 32 + b2n g.place.isSome * 2 ^ 40 + b2n g.frozen * 2 ^ 41 +
    g.key * 2 ^ 48)

/-- The status word of a tile as MSTAT reads it, with INFL (R327). -/
def Group.tileWord (g : Group) (t : Nat) : Word :=
  if g.jobs.any fun j => j.writes t then g.ctx.st t ||| BitVec.ofNat 64 (2 ^ 61) else g.ctx.st t

/-- MSTAT (R332): field b holds s. It is an acquire where it finds a job of the group completed. -/
def execMstat (f : Fld) (s : State) : Host.Outcome State Fault Refusal :=
  issue { irrev := true, names := [f.a] } f s fun s =>
    match s.myGroup s.cur with
    | some (_, _, g) =>
      let s1 := s.setW f.a (if f.b = 0 then g.word else g.tileWord (f.b.toNat - 8))
      .ok (if g.ran then s1.acquire s.cur else s1).advance
    | none => .ok (s.setW f.a 0).advance

/-- A context with an empty log (R346). -/
def Tctx.clearLog (x : Tctx) : Tctx := { x with log := [], ovf := false }

/-- MPLOG (R346). -/
def execMplog (f : Fld) (s : State) : Host.Outcome State Fault Refusal :=
  issue { irrev := true, names := [f.a, f.b] } f s fun s =>
    let i := s.W f.b
    match s.myGroup s.cur with
    | none => .ok (s.setW f.a 0).advance
    | some (h, n, g) =>
      if i.getLsbD 63 then
        let s1 := s.setGrp (pclOf s.cur) h n
          { g with ctx := g.ctx.clearLog, run := g.run.map fun r => { r with after := r.after.clearLog } }
        .ok (s1.setW f.a g.ctx.count).advance
      else
        let v := if i.toNat < 32 then g.ctx.log.getD i.toNat 0 else if i.toNat = 32 then g.ctx.count else 0
        .ok (s.setW f.a v).advance

/-! ## Dispatch and acceptance (R328, R329) -/

/-- The dispatch of a job instruction that reads the window registers `names` (R328): its issue is a release (R219). -/
def dispatchJob (names : List (BitVec 6)) (f : Fld) (s : State) : Host.Outcome State Fault Refusal :=
  issue { names := names } f s fun s =>
    if 16 ≤ s.entriesUsed then s.waitVec
    else s.afterStores fun s =>
      let s1 := s.enqueue 5 0 f true false (names.map s.W)
      .ok (s1.setT { s1.t with jobs := s1.t.jobs + 1 }).advance

/-- The registers of a window pair. -/
def pairAt (n : BitVec 6) : List (BitVec 6) := [n, n + 1]

/-- MSAVE (R345). -/
def execMsave (f : Fld) (s : State) : Host.Outcome State Fault Refusal := dispatchJob [f.a] f s
/-- MREST (R345). -/
def execMrest (f : Fld) (s : State) : Host.Outcome State Fault Refusal := dispatchJob [f.a] f s
/-- MUCODE (R340). -/
def execMucode (f : Fld) (s : State) : Host.Outcome State Fault Refusal := dispatchJob [f.a, f.b] f s
/-- MSETS (R343). -/
def execMsets (f : Fld) (s : State) : Host.Outcome State Fault Refusal := dispatchJob [f.a] f s
/-- MMA (R336): each operand is a window pair or, by its source bit, a vector pair. -/
def execMma (f : Fld) (s : State) : Host.Outcome State Fault Refusal :=
  dispatchJob ((if f.ext.getLsbD 1 then [] else pairAt f.a) ++ if f.ext.getLsbD 0 then [] else pairAt f.b) f s
/-- MMAS (R337). -/
def execMmas (f : Fld) (s : State) : Host.Outcome State Fault Refusal :=
  dispatchJob (pairAt f.a ++ if f.ext.getLsbD 0 then [] else pairAt f.b) f s
/-- MMAX (R338). -/
def execMmax (f : Fld) (s : State) : Host.Outcome State Fault Refusal := dispatchJob (pairAt f.a ++ pairAt f.b) f s
/-- MREC (R339). -/
def execMrec (f : Fld) (s : State) : Host.Outcome State Fault Refusal := dispatchJob (pairAt f.a ++ pairAt f.b) f s
/-- MZERO (R341). -/
def execMzero (f : Fld) (s : State) : Host.Outcome State Fault Refusal := dispatchJob [] f s
/-- MLDT (R341). -/
def execMldt (f : Fld) (s : State) : Host.Outcome State Fault Refusal := dispatchJob (pairAt f.b) f s
/-- MSTT (R341). -/
def execMstt (f : Fld) (s : State) : Host.Outcome State Fault Refusal := dispatchJob (pairAt f.b) f s
/-- MTRANS (R341). -/
def execMtrans (f : Fld) (s : State) : Host.Outcome State Fault Refusal := dispatchJob [] f s
/-- MCVT (R341, R342). -/
def execMcvt (f : Fld) (s : State) : Host.Outcome State Fault Refusal := dispatchJob [] f s
/-- MRSUM (R341). -/
def execMrsum (f : Fld) (s : State) : Host.Outcome State Fault Refusal := dispatchJob [] f s
/-- MCOPY (R341). -/
def execMcopy (f : Fld) (s : State) : Host.Outcome State Fault Refusal := dispatchJob [] f s
/-- MLUP (R348). -/
def execMlup (f : Fld) (s : State) : Host.Outcome State Fault Refusal := dispatchJob (pairAt f.b) f s
/-- MCHOL (R349). -/
def execMchol (f : Fld) (s : State) : Host.Outcome State Fault Refusal := dispatchJob (pairAt f.b) f s
/-- MTRSM (R350). -/
def execMtrsm (f : Fld) (s : State) : Host.Outcome State Fault Refusal :=
  dispatchJob [f.b, f.b + 1, f.b + 2, f.b + 3, f.b + 4] f s
/-- MFXCHK (R351). -/
def execMfxchk (f : Fld) (s : State) : Host.Outcome State Fault Refusal := dispatchJob [] f s

/-- A late fault of a job reaches its issuer; it waits behind one that is pending (R330). -/
def Thread.jobFault (t : Thread) (sub : Nat) (seqno : BitVec 12) (addr : Word) : Thread :=
  { t with vec := { t.vec with late := t.vec.late ++ [{ sub := sub, seqno := seqno, addr := addr, store := false }] } }

/-- The job that an entry makes for a group, with the vector operands read at issue. -/
def State.mkJob (s : State) (c : Nat) (e : SeqEnt) (num : Nat) : Job :=
  let t := s.thread c
  let a := e.f.a.toNat
  let b := e.f.b.toNat
  { lid := t.lid, tid := t.tid, core := coreNo c, id := 16 * e.maj + e.fn, f := e.f, base := e.base, vals := e.vals, va := t.vr a,
    va1 := t.vr (a + 1), vb := t.vr b, vb1 := t.vr (b + 1), seqno := e.seqno, num := num, vt := t.sys.vt, priv := t.privileged }

/-- Ownership of a job's units: the engine's contexts are numbered by group and job. -/
def jobOwner (n num : Nat) : Nat := n * 2 ^ 16 + num

/-- The entry of a job instruction issues: the engine accepts the job (R328, R329), or refuses it where the thread belongs to no
group (R330). The entry is not ready while the thread is speculative or 16 jobs are queued. -/
def State.acceptJob (s : State) (c : Nat) (e : SeqEnt) : State :=
  let t := s.thread c
  let done (x : Thread) : Thread := { x with vec := x.vec.afterEntry }
  if s.speculative c || !s.vecReady c e then s
  else match s.myGroup c with
    | none =>
      let t1 := done (t.jobFault 22 e.seqno (BitVec.ofNat 64 0))
      (s.setThread c { t1 with jobs := t1.jobs - 1 }).ringUpd c e.seqno fun r => { r with status := 3, sub := 22 }
    | some (h, n, g) =>
      if 16 ≤ g.jobs.length then s
      else
        let j := s.mkJob c e g.next
        let s1 := s.setGrp (pclOf c) h n { g with next := (g.next + 1) % 2 ^ 16, jobs := g.jobs ++ [j] }
        let s2 := s1.own (pclOf c) (1 + h) (jobOwner n j.num) (s.destUnits (pclOf c) j)
        (s2.setThread c (done (s2.thread c))).ringUpd c e.seqno fun r => { r with status := 2 }

/-! ## Running jobs (R329 to R331) -/

/-- The number of the area that a group is drained into: that of its lowest-core member; a drained group's image stays where it was
written (R410). -/
def Group.areaNo (g : Group) (half : Nat) : Nat :=
  let m := g.members.headD 0
  if g.drained then g.areaAt else 32 * half + 4 * (m / 4 % 8) + m % 4

/-- The first byte of a group's area in the save area (R410). -/
def State.groupArea (s : State) (pcl half : Nat) (g : Group) : Word :=
  (s.launch g.lid).save + BitVec.ofNat 64 (0x1000 + 0x200000 * (s.clu pcl).vcl + 0xC0000 + 0x2400 * g.areaNo half)

/-- The engine's own rights in a launch's save area. -/
def State.groupWho (s : State) (pcl : Nat) (g : Group) : Who :=
  { core := pcl * 16, pcl := pcl, asid := (s.launch g.lid).asid, priv := true, handler := false, steward := false }

/-- What a drain writes: the image and the queued jobs (R331, R344). -/
def Group.area (g : Group) : List Byte :=
  let x := match g.run with
    | some r =>
      match g.jobs.head? with
      | some j => { g.ctx with status := mset g.ctx.status j.tile (putBits (putBits (g.ctx.st j.tile) 37 1 1) 16 16 r.step) }
      | none => g.ctx
    | none => g.ctx
  x.image (fun t => putBits (x.st t) 61 1 0) ++
    (g.jobs.map fun j => entryBytes 5 j.base j.f j.seqno true false (j.vals.take 2)).flatten

/-- Drains a resident context into its area (R331); it stays where the area cannot be written now. -/
def State.drainGroup (s : State) (pcl half n : Nat) (g : Group) : State :=
  match s.engTarget (s.groupWho pcl g) (s.groupArea pcl half g) g.area [] with
  | .error _ => s
  | .ok us =>
    if us.any (fun u => !s.unitReady u) then s
    else
      let w : Writer := { c := none, vt := 0, code := 3 }
      let s1 := us.foldl (fun (a : State) u => a.writeUnit w u 0) s
      let solv := match g.run, g.jobs.head? with
        | some r, some j => { g.ctx with status := mset g.ctx.status j.tile (putBits (putBits (g.ctx.st j.tile) 37 1 1) 16 16 r.step) }
        | _, _ => g.ctx
      s1.setGrp pcl half n { g with place := none, drained := true, areaAt := g.areaNo half, ctx := solv }

/-- Has a group no job in progress but a solver at a boundary (R331)? -/
def Group.mayStop (g : Group) : Bool :=
  match g.run, g.jobs.head? with
  | some r, some j => j.solver && decide (16 * r.step < j.n)
  | r, _ => r.isNone

/-- May an engine drain this resident context (R331): it may stop, and it has not just become resident with a job to run? -/
def Group.mayDrain (g : Group) : Bool := g.place.isSome && (!g.fresh || g.jobs.isEmpty) && g.mayStop

/-- Has a group a job that its engine may take? -/
def Group.wants (g : Group) : Bool := !g.jobs.isEmpty && !g.frozen && !g.wait

/-- MATRIX_CONTEXT_DRAIN (R331): where a group that is not resident wants a place and both are taken. -/
def execMatrixContextDrain (pcl half slot : Nat) (s : State) : Host.Outcome State Fault Refusal :=
  let e := (s.clu pcl).eng half
  .next (match s.grp pcl half slot with
    | none => s
    | some g =>
      let wanted := e.groups.any fun (p : Nat × Group) => p.2.place.isNone && p.2.wants
      let oldest := e.groups.all fun (p : Nat × Group) => !p.2.mayDrain || decide (g.lastStart ≤ p.2.lastStart)
      if g.mayDrain && wanted && e.freePlace.isNone && oldest then s.drainGroup pcl half slot g else s)

/-- A group takes a free resident place, reading its image back where it was drained. -/
def State.loadGroup (s : State) (pcl half n : Nat) (g : Group) (place : Nat) : State :=
  if !g.drained then s.setGrp pcl half n { g with place := some place, fresh := true }
  else match s.engRead { code := 3 } (s.groupWho pcl g) 0 (s.groupArea pcl half g) imageSize with
    | (s1, .ok b) => s1.setGrp pcl half n { g with place := some place, fresh := true, drained := false, ctx := ctxOfImage b }
    | (s1, .error _) => s1

/-- The head job of a group is over with a status (R329): DONE, its message, its ownership, its issuer's count. -/
def State.jobEnd (s : State) (pcl half n : Nat) (g : Group) (j : Job) (x : Tctx) (status : Nat) : State :=
  let g1 := { g with ctx := x, run := none, done := j.num, jobs := g.jobs.drop 1, fresh := false, wait := false, frozen := false,
                     ran := true }
  let s1 := (s.disownAll pcl (1 + half) (jobOwner n j.num)).setGrp pcl half n g1
  let s2 := if j.f.h.getLsbD 7 then
      s1.launchMsg (unitMsg j.lid j.tid 4 (j.num % 256) (pcl * 2 + half) (j.num + status * 2 ^ 16 + j.tile * 2 ^ 24) j.vt) else s1
  let s3 := s2.onThread j.lid j.tid fun t => { t with jobs := t.jobs - 1 }
  if g1.ending && g1.jobs.isEmpty then s3.dropGrp pcl half n else s3

/-- The head job of a group is discarded (R330): nothing of it stays but its number, and its issuer has a CPFAULT. -/
def State.jobDiscard (s : State) (pcl half n : Nat) (g : Group) (j : Job) (sub : Nat) (addr : Word) : State :=
  let v := if sub = 18 ∨ sub = 20 ∨ sub = 21 then addr else BitVec.ofNat 64 j.num
  (s.jobEnd pcl half n g j g.ctx sub).onThread j.lid j.tid fun t => t.jobFault sub j.seqno v

/-- The base that MSPACE reports: the first operand outside the space its instruction allows (R330, R334). -/
def State.spaceAddr (s : State) (pcl : Nat) (j : Job) : Word :=
  let isClus (b : Word) : Bool := match s.mPlace pcl j.core b with | .clus _ _ => true | _ => false
  if !j.vecA && !isClus (j.val 0) then j.val 0 else if j.maj = 6 then j.val 2 else j.pairB.1

/-- An access of a job that fails (R330, R402): it waits for a steward, freezes the context, or discards the job. -/
def State.jobFail (s : State) (pcl half n : Nat) (g : Group) (j : Job) (e : JobErr) : State :=
  let m := matrixMaster pcl half (g.place.getD 0)
  let g1 := { g with run := none }
  match e with
  | .sub 18 => s.jobDiscard pcl half n g1 j 18 (s.spaceAddr pcl j)
  | .sub k => s.jobDiscard pcl half n g1 j k 0
  | .eng .wait => s
  | .eng (.fault l r va) =>
    let s1 := s.setGrp pcl half n { g1 with wait := true }
    s1.makeRec (mkRec s1 m 2 (causeWord cPFAULT 5 l r) va)
  | .eng (.prot va) =>
    let s1 := s.setGrp pcl half n { g1 with frozen := true }
    s1.makeRec (mkRec s1 m 1 (causeWord cPROT 5 0 0) va)
  | .eng (.dram va) => s.jobDiscard pcl half n g1 j 21 va

/-- A job takes ownership of the units that it will write and does not own yet (R213): those that did not translate at its
acceptance. -/
def State.ownRest (s : State) (pcl half n : Nat) (j : Job) (us : List UnitW) : State :=
  s.own pcl (1 + half) (jobOwner n j.num) (us.filter fun u =>
    !s.owned.any fun o => o.loc == u.loc && o.pcl == pcl && o.eng == 1 + half && o.id == jobOwner n j.num)

/-- A solver starts (R347): it checks, reads its operands once (R329), and owns what it will write. -/
def State.solveStart (s : State) (pcl half n : Nat) (g : Group) (j : Job) : State :=
  match s.solveCheck pcl j with
  | some k => s.jobFail pcl half n g j (.sub k)
  | none =>
    match s.readTarget pcl j, s.readFactor pcl j with
    | .error e, _ => s.jobFail pcl half n g j e
    | _, .error e => s.jobFail pcl half n g j e
    | .ok m, .ok f => (s.ownRest pcl half n j (s.destUnits pcl j)).setGrp pcl half n { g with run := some { rows := m, factor := f } }

/-- The context that a solver leaves: flags and PROG of its status tile, and its log events (R346, R347). -/
def Run.solved (r : Run) (x : Tctx) (j : Job) : Tctx :=
  let st := putBits (putBits (x.st j.tile ||| BitVec.ofNat 64 r.flags) 37 1 0) 16 16 r.step
  (x.setSt j.tile st).logAll j.num (j.logOrder r.events)

/-- A solver's work up to its next boundary; at the last one its units are ready to be written, each once (R214, R347). -/
def State.solveTurn (s : State) (pcl half n : Nat) (g : Group) (j : Job) (r : Run) : State :=
  let q := solveBlock j g.ctx r.factor r.step { rows := r.rows, flags := r.flags, events := r.events }
  let r1 := { r with step := r.step + 1, rows := q.rows, flags := q.flags, events := q.events }
  if 16 * r1.step < j.n then s.setGrp pcl half n { g with run := some r1 }
  else match s.solvedUnits pcl j q.rows with
    | .error e => s.jobFail pcl half n g j e
    | .ok us => s.setGrp pcl half n { g with run := some { r1 with units := us } }

/-- A job that is no solver starts (R329): it reads, checks and computes; one that writes no memory completes. -/
def State.jobStart (s : State) (pcl half n : Nat) (g : Group) (j : Job) : State :=
  match s.jobRun pcl j g.ctx with
  | (s1, .error e) => s1.jobFail pcl half n g j e
  | (s1, .ok (x, us)) =>
    if us.isEmpty then s1.jobEnd pcl half n g j x 0
    else (s1.ownRest pcl half n j us).setGrp pcl half n { g with run := some { units := us, after := x } }

/-- The engine's turn on the head job of a resident group: it begins, goes on to its next boundary, or ends once its units are
written (R329, R347). No job begins while the engine is held for a pre-emption (R331). -/
def State.jobTurn (s : State) (pcl half n : Nat) (g : Group) (j : Job) : State :=
  match g.run with
  | none =>
    let g1 := { g with lastStart := ((s.clu pcl).eng half).stamp }
    if s.enginesHeld pcl then s else if j.solver then s.solveStart pcl half n g1 j else s.jobStart pcl half n g1 j
  | some r =>
    if !j.solver then (if r.units.isEmpty then s.jobEnd pcl half n g j r.after 0 else s)
    else if 16 * r.step < j.n then (if s.enginesHeld pcl then s else s.solveTurn pcl half n g j r)
    else if r.units.isEmpty then s.jobEnd pcl half n g j (r.solved g.ctx j) 0 else s

/-- Is it this group's turn at its engine: resident, with a job, no job of another group in progress, and none that started its
latest job earlier (R331)? -/
def MEng.turnOf (e : MEng) (n : Nat) (g : Group) : Bool :=
  g.place.isSome && g.wants &&
    e.groups.all fun (p : Nat × Group) => p.1 == n || p.2.place.isNone ||
      (p.2.run.isNone && (g.run.isSome || !p.2.wants || decide (g.lastStart ≤ p.2.lastStart)))

/-- MATRIX_JOB_COMPLETE (R329): the engine's turn on a group. A job that has not begun begins, and completes where it writes no
memory; a solver goes on to its next boundary; a job whose units are written completes. -/
def execMatrixJobComplete (pcl half slot : Nat) (s : State) : Host.Outcome State Fault Refusal :=
  let e := (s.clu pcl).eng half
  .next (match s.grp pcl half slot with
    | none => s
    | some g =>
      match g.jobs.head?, e.freePlace with
      | some j, free =>
        if g.place.isNone then
          match free with
          | some p => if g.wants then s.loadGroup pcl half slot g p else s
          | none => s
        else if !e.turnOf slot g then s
        else s.jobTurn pcl half slot g j
      | none, _ => s)

/-- A matrix engine writes a unit of the job under way (R214). -/
def State.jobWrite (s : State) (pcl half slot n : Nat) : State :=
  match s.grp pcl half slot with
  | some g =>
    match g.run, g.jobs.head? with
    | some r, some j =>
      match r.units[n]? with
      | some u =>
        if g.frozen || g.wait then s
        else if s.cutFrom pcl u.loc then ({ s with fresh := s.fresh + 1 }).jobFail pcl half slot g j (.eng (.prot (Config.openAddr s.fresh)))
        else if !s.unitDue u then s
        else
          let s1 := (s.writeUnit (s.engWriter j.lid j.tid 3 j.vt) u j.cls).disown pcl (1 + half) (jobOwner slot j.num) u.loc
          s1.setGrp pcl half slot { g with run := some { r with units := r.units.eraseIdx n } }
      | none => s
    | _, _ => s
  | none => s

/-- ENGINE_UNIT_WRITE (R214): `eng` 0 is the copy engine with its command slot, 1 and 2 the matrix engines with their group. -/
def execEngineUnitWrite (pcl eng slot n : Nat) (s : State) : Host.Outcome State Fault Refusal :=
  .next (if eng = 0 then s.copyTurn pcl slot n else s.jobWrite pcl (eng - 1) slot n)

/-- The step that the head of a context's vector stream takes. -/
def State.vecTurn (s : State) (c : Nat) : State :=
  match (s.thread c).vec.head with
  | none => s
  | some e => if e.page = 5 then s.acceptJob c e else s.vecTake c e

/-- VECTOR_ISSUE (R176): the head of a context's vector stream takes its next step, at most one on each core in a cycle. A halted
stream restarts first where it may, and waits otherwise (R184). -/
def execVectorIssue (pid : Nat) (s : State) : Host.Outcome State Fault Refusal :=
  let s := s.restartVec pid
  let t := s.thread pid
  let k := s.core (coreId pid)
  .next (if k.vissued || t.st == .empty || t.st == .done || t.st == .saved || t.st == .frozen || t.stopReq || t.vec.halted then s
    else
      let s1 := s.vecTurn pid
      if (s1.thread pid).vec = t.vec then s1
      else
        let k1 := s1.core (coreId pid)
        s1.setCore (coreId pid) { k1 with vissued := true, vptr := (pid + 1) % 4 })

end Sys2Proof.Machine
end

