-- ==== Sys2Proof/Machine/Dom.lean ====
section
/-! DEFINITION. Domains (R25 to R31, R366 to R373): their records at every member unit, formation and dissolution, arrivals,
phase circuits, and the DOM instructions but LAUNCH. A unit is a vcluster, or for level 0 a core as 16 times its vcluster plus its
number. -/

namespace Sys2Proof.Machine

/-! ## Records of units, live or saved -/

/-- Changes the record of a core of a vcluster. -/
def State.onVcore (s : State) (lid v k : Nat) (g : Core → Core) : State :=
  match mfind (s.launch lid).pcls v with
  | some p => s.setCore (p * 16 + k) (g (s.core (p * 16 + k)))
  | none =>
    { s with saved := s.saved.map fun (p : Nat × Saved) =>
        if p.2.lid = lid ∧ p.2.vcl = v ∧ p.2.single = none then
          (p.1, { p.2 with cores := mset p.2.cores k (g (mget {} p.2.cores k)) })
        else p }

/-- The record of a core of a vcluster. -/
def State.vcore (s : State) (lid v k : Nat) : Core :=
  match mfind (s.launch lid).pcls v with
  | some p => s.core (p * 16 + k)
  | none =>
    match s.saved.find? (fun (p : Nat × Saved) => p.2.lid == lid && p.2.vcl == v && p.2.single.isNone) with
    | some p => mget {} p.2.cores k
    | none => {}

/-- A unit's record of a level (R26). -/
def State.domOf (s : State) (lid level u : Nat) : Dom :=
  if level = 0 then (s.vcore lid (u / 16) (u % 16)).dom else mget {} (s.vclu lid u).dom level

/-- Changes a unit's record of a level. -/
def State.onDom (s : State) (lid level u : Nat) (g : Dom → Dom) : State :=
  if level = 0 then s.onVcore lid (u / 16) (u % 16) fun k => { k with dom := g k.dom }
  else s.onVclu lid u fun k => { k with dom := mset k.dom level (g (mget {} k.dom level)) }

/-- The bitmap of a level-2 or level-3 domain. -/
def Cluster.dmap (k : Cluster) (level : Nat) : SMap Word := if level = 2 then k.dmap2 else k.dmap3
/-- Sets the bitmap of a level. -/
def Cluster.setDmap (k : Cluster) (level : Nat) (m : SMap Word) : Cluster :=
  if level = 2 then { k with dmap2 := m } else { k with dmap3 := m }

/-- The vclusters of a launch that a bitmap names, ascending (R29). -/
def State.mapMembers (s : State) (lid : Nat) (m : SMap Word) : List Nat :=
  (List.range (s.launch lid).ncl).filter (mapBit m)

/-- The units of the domain that a unit has at a formed level (R25). -/
def State.domUnits (s : State) (lid level u : Nat) : List Nat :=
  match level with
  | 0 | 1 => [u]
  | 4 => List.range (s.launch lid).ncl
  | _ => s.mapMembers lid ((s.vclu lid u).dmap level)

/-- The tids of a unit's contexts. -/
def State.unitTids (s : State) (lid level u : Nat) : List Nat :=
  let x := (s.launch lid).ectx
  if level = 0 then (List.range x).map (u * 4 + ·)
  else ((List.range 16).map fun k => (List.range x).map (u * 64 + k * 4 + ·)).flatten

/-- Does a tid lie in one of the units? -/
def inUnits (level : Nat) (us : List Nat) (tid : Nat) : Bool := us.contains (if level = 0 then tid / 4 else tid / 64)

/-! ## DINFO (R26) -/

/-- A DINFO word: PHASE, FORMED, DTAG, LEADER, NMINUS1. -/
def dinfoWord (phase dtag leader n : Nat) : Word :=
  BitVec.ofNat 64 (phase % 2 ^ 32 * 2 ^ 32 + 2 ^ 31 + dtag % 128 * 2 ^ 24 + leader % 2 ^ 12 * 2 ^ 12 + (n - 1) % 2 ^ 12)
/-- A domain register of a unit (R26): DINFO0 of a core, a DINFO of an interface, a word of DMAP2 or DMAP3. -/
inductive DomReg where
  | dinfo0 (core : Nat)
  | dinfo (level : Nat)
  | dmap2 (j : Nat)
  | dmap3 (j : Nat)
deriving DecidableEq, Repr

/-- What a steward core or the privileged runtime reads of a cluster's domain registers through the privileged window (R26). R423 lists
no address for them, so no access of the model reaches them (log entry 48). -/
def State.readDomReg (s : State) (p : Nat) (r : DomReg) : Word :=
  match r with
  | .dinfo0 k => (s.core (p * 16 + k % 16)).dom.dinfo
  | .dinfo l => (mget {} (s.clu p).dom l).dinfo
  | .dmap2 j => mget 0 (s.clu p).dmap2 (j % 64)
  | .dmap3 j => mget 0 (s.clu p).dmap3 (j % 64)

/-- What a privileged write of such a register leaves (R26; log entry 48). -/
def State.writeDomReg (s : State) (p : Nat) (r : DomReg) (v : Word) : State :=
  let k := s.clu p
  match r with
  | .dinfo0 i => let x := s.core (p * 16 + i % 16); s.setCore (p * 16 + i % 16) { x with dom := { x.dom with dinfo := v } }
  | .dinfo l => s.setClu p { k with dom := mset k.dom l { mget ({} : Dom) k.dom l with dinfo := v } }
  | .dmap2 j => s.setClu p { k with dmap2 := mset k.dmap2 (j % 64) v }
  | .dmap3 j => s.setClu p { k with dmap3 := mset k.dmap3 (j % 64) v }

/-- PHASE of a record. -/
def Dom.phase (d : Dom) : Nat := bitsOf d.dinfo 63 32
/-- DTAG of a record. -/
def Dom.dtag (d : Dom) : Nat := bitsOf d.dinfo 30 24
/-- FORMED of a record. -/
def Dom.isFormed (d : Dom) : Bool := d.dinfo.getLsbD 31

/-! ## Formation and dissolution (R28, R372) -/

/-- A bitmap of 512 bytes as its registers. -/
def mapOf (b : List Byte) : SMap Word :=
  (List.range 64).foldl (fun m j => let w := BitVec.ofNat 64 (fieldAt b (8 * j) 8); if w = 0 then m else mset m j w) []

/-- Is every member of a bitmap a member of another? -/
def mapWithin (a b : SMap Word) : Bool := (List.range 64).all fun j => mget 0 a j &&& ~~~(mget 0 b j) == 0

/-- The status of a formation: BADARG, MEMBER, OUTSIDE and SUBSET in that order (R372). -/
def State.formStatus (s : State) (lid level : Nat) (m : SMap Word) : Nat :=
  let n := (s.launch lid).ncl
  let vs := s.mapMembers lid m
  let subset (v : Nat) : Bool :=
    let k := s.vclu lid v
    if level = 2 then !k.formed 3 || mapWithin m k.dmap3 else !k.formed 2 || mapWithin k.dmap2 m
  if (level ≠ 2 ∧ level ≠ 3) ∨ m.all (fun (p : Nat × Word) => p.2 == 0) then 4
  else if vs.any fun v => (s.vclu lid v).formed level then 1
  else if (List.range 4096).any fun v => decide (n ≤ v) && mapBit m v then 2
  else if !vs.all subset then 3
  else 0

/-- Forms a domain: PHASE 0, DTAG one more than any member has counted, LEADER, NMINUS1 and the maps at every member (R28,
R372). -/
def State.formDom (s : State) (lid level : Nat) (m : SMap Word) : State :=
  let vs := s.mapMembers lid m
  let tag := vs.foldl (fun a v => max a (s.domOf lid level v).dtag) 0 + 1
  let d : Dom := { dinfo := dinfoWord 0 tag (vs.headD 0) vs.length }
  vs.foldl (fun (a : State) v => a.onVclu lid v fun k => { k.setDmap level m with dom := mset k.dom level d }) s

/-- A thread of a dissolved domain: its arrival there is discarded, and its SDOM is the domain that R27 now selects. -/
def Thread.leaveDom (t : Thread) (k : Cluster) (level : Nat) : Thread :=
  { t with spec := { t.spec with arr := mdel t.spec.arr level,
                                 sdom := if t.spec.sdom = level then k.resolve level else t.spec.sdom } }

/-- Dissolves a domain at its member vclusters: FORMED and the maps are cleared (R372). -/
def State.dissolveAt (s : State) (lid level : Nat) (vs : List Nat) : State :=
  let s1 := vs.foldl (fun (a : State) v => a.onVclu lid v fun k =>
    let d : Dom := mget {} k.dom level
    { k.setDmap level [] with dom := mset k.dom level { dinfo := d.dinfo &&& ~~~(0x80000000 : Word) } }) s
  vs.foldl (fun (a : State) v =>
    (a.unitTids lid 1 v).foldl (fun (b : State) t => b.onThread lid t fun x => x.leaveDom (s1.vclu lid v) level) a) s1

/-- Dissolves the domain that a vcluster has at a level, and with a level-3 domain every level-2 domain within it (R28). -/
def State.dissolve (s : State) (lid level v : Nat) : State :=
  let vs := s.domUnits lid level v
  let s1 := if level = 3 then s.dissolveAt lid 2 (vs.filter fun u => (s.vclu lid u).formed 2) else s
  s1.dissolveAt lid level vs

/-- The domains of levels 0, 1 and 4, which placement forms (R26, R373). -/
def State.formFixed (s : State) (lid : Nat) : State :=
  let n := (s.launch lid).ncl
  (List.range n).foldl (fun (a : State) v =>
    let own : Dom := { dinfo := dinfoWord 0 1 v 1 }
    let b := a.onVclu lid v fun k => { k with dom := mset (mset k.dom 1 own) 4 { dinfo := dinfoWord 0 1 0 n } }
    (List.range 16).foldl (fun (c : State) i => c.onVcore lid v i fun k => { k with dom := own }) b) s

/-! ## The phase circuit (R368 to R370) -/

/-- What is outstanding in a domain, each with the VT it carries (R368): counted messages, copy commands, matrix jobs with their
JOBDONE messages, remote stores and atomics. `ms` says which tids are members. -/
def State.outstanding (s : State) (lid : Nat) (ms : Nat → Bool) : List Word :=
  let own (l tid : Nat) : Bool := l == lid && ms tid
  let net := s.net ++ (s.thr.map fun (p : Nat × Thread) => p.2.mail.held).flatten ++
    (s.saved.map fun (p : Nat × Saved) => p.2.msgs ++ (p.2.thr.map fun (q : Nat × Thread) => q.2.mail.held).flatten).flatten
  let msgs := net.filter fun m => m.lid == lid && ms m.dst && ((m.counted && ms m.src) || m.kind == 4)
  let clus := s.clus.map (·.2) ++ s.saved.map fun (p : Nat × Saved) => p.2.clu
  let cmds := (clus.map fun (k : Cluster) => k.cmds.filter fun x => own x.lid x.tid).flatten
  let jobs := (clus.map fun (k : Cluster) => (k.meng.map fun (e : Nat × MEng) =>
    (e.2.groups.map fun (g : Nat × Group) => g.2.jobs.filter fun j => own j.lid j.tid).flatten).flatten).flatten
  let ops := ((s.cores.map fun (p : Nat × Core) => p.2.ring ++ p.2.sring).flatten).filter fun o => own (s.thread o.c).lid (s.thread o.c).tid
  let amos := s.thr.filterMap fun (p : Nat × Thread) =>
    match p.2.pend with
    | some q => if (q.kind = 3 ∨ q.kind = 4) ∧ own p.2.lid p.2.tid = true then some p.2.sys.vt else none
    | none => none
  msgs.map (·.vt) ++ cmds.map (·.vt) ++ jobs.map (·.vt) ++ ops.map (·.vt) ++ amos

/-- The least of words, where there is one. -/
def leastWord : List Word → Option Word
  | [] => none
  | w :: ws => match leastWord ws with
    | none => some w
    | some v => if w.toNat ≤ v.toNat then some w else some v

/-- Is a thread DONE, or SAVED as DONE? -/
def Thread.isDone (t : Thread) : Bool := t.st == .done || (t.st == .saved && t.svst == .done)

/-- Has a member arrived in the current phase (R366)? -/
def Thread.arrived (t : Thread) (level : Nat) : Bool := t.isDone || mget 0 t.spec.arr level != 0

/-- Does a circuit have to wait at a unit: its cluster is being saved (R369)? -/
def State.unitSaving (s : State) (lid level u : Nat) : Bool := (s.vclu lid (if level = 0 then u / 16 else u)).saving

/-- A phase ends: PHASE increases at every register, the arrivals are cleared, and PHASE is posted to every member that is not
DONE (R370). -/
def State.phaseEnd (s : State) (lid level : Nat) (us ts : List Nat) : State :=
  let s1 := us.foldl (fun (a : State) u => a.onDom lid level u fun d => { d with dinfo := d.dinfo + 0x100000000 }) s
  let s2 := ts.foldl (fun (a : State) t => a.onThread lid t fun x =>
    { x with spec := { x.spec with arr := mdel x.spec.arr level } }) s1
  ts.foldl (fun (a : State) t =>
    if (a.theThread lid t).isDone then a
    else
      let d := a.domOf lid level (if level = 0 then t / 4 else t / 64)
      a.launchMsg (unitMsg lid t 6 d.dtag level (d.phase + level * 2 ^ 32 + d.gvt.toNat % 2 ^ 56 * 2 ^ 40) ones64)) s2

/-- A circuit returns to its leader and is decided (R369). It visits every interface at one instant (log entry 14); in a level-0
or level-1 domain it is evaluated only where GTIME is a multiple of 64. -/
def State.circuit (s : State) (lid level leader : Nat) : State :=
  let us := s.domUnits lid level leader
  let ts := (us.map (s.unitTids lid level)).flatten.filter fun t => (s.theThread lid t).st != .empty
  let formed := (s.domOf lid level leader).isFormed
  if !(s.launch lid).active || !formed || us.isEmpty || us.any (s.unitSaving lid level) ||
      (decide (level < 2) && s.gtime % 64 != 0) then s
  else
    let items := s.outstanding lid (inUnits level us)
    let missing := (ts.filter fun t => !(s.theThread lid t).arrived level).length
    let white := us.all fun u => !(s.domOf lid level u).black
    let vts := ts.filterMap fun t =>
      let x := s.theThread lid t
      if x.isDone = true ∨ x.sys.vt = ones64 then none else some x.sys.vt
    let keys := ((us.map fun u => (s.vclu lid (if level = 0 then u / 16 else u)).tasks).flatten.filter fun k =>
      k.level == level && (level != 0 || us.contains k.unit)).map fun k => BitVec.ofNat 64 k.key
    let least := leastWord (vts ++ items ++ keys)
    let after (d : Dom) : Dom :=
      { d with black := false, white := white, sumZero := items.isEmpty, circuits := (d.circuits + 1) % 2 ^ 16,
               missing := missing, gvt := if white then least.getD d.gvt else d.gvt }
    let s1 := us.foldl (fun (a : State) u => a.onDom lid level u after) s
    let quiet := white && items.isEmpty
    let s2 := if level = 4 ∧ quiet = true ∧ ts.all (fun t => (s.theThread lid t).st == .done) = true then
        s1.setLaunch lid { s1.launch lid with clean := true } else s1
    if quiet && missing == 0 then s2.phaseEnd lid level us ts else s2

/-- CIRCUIT_COMPLETE (R369). -/
def execCircuitComplete (l level leader : Nat) (s : State) : Host.Outcome State Fault Refusal := .next (s.circuit l level leader)

/-! ## Arrivals (R366, R367) -/

/-- What a thread's context holds after the instruction in execution, as a checkpoint (R367, R379); the lookahead and the fault records
of its streams are not part of it (R304). -/
def State.checkpoint (s : State) : Ckpt :=
  let t := s.t
  { pc := s.ir.next, win := t.win, pw := t.pw, v := t.vec.v, strm := t.forgetStrm, spen := t.spec.spen }

/-- Takes a checkpoint of the state after the instruction in execution. -/
def State.takeCkpt (s : State) : State := s.setT { s.t with spec := { s.t.spec with ckpt := some s.checkpoint } }

/-- The arrival of the thread in a (resolved) level's current phase: 0 none, 1 conditional, 2 unconditional. -/
def State.arrival (s : State) (level : Nat) : Nat := mget 0 s.t.spec.arr level

/-- Completes the release, with the drain of an earlier speculation, and records an arrival (R366, R380). -/
def State.arrive (s : State) (level kind : Nat) (k : State → Res) : Res :=
  if s.arrival level = 2 then .stop .wait none
  else s.afterRelease true fun s =>
    let s1 := s.dropMarks s.cur
    k (s1.setT { s1.t with spec := { s1.t.spec with arr := mset s1.t.spec.arr level kind } })

/-- VT after a barrier: min(VT + 65,536, 2^64 − 2), from GVT_D where VT is all ones (R367). -/
def barrierVt (vt gvt : Word) : Word :=
  BitVec.ofNat 64 (min ((if vt = ones64 then gvt else vt).toNat + 65536) (2 ^ 64 - 2))

/-- A barrier (R366, R367): `wait` is DSYNCW's wait before the next instruction. -/
def dsync (wait : Bool) (f : Fld) (s : State) : Host.Outcome State Fault Refusal :=
  issue { irrev := true } f s fun s =>
    let l := s.resolve s.cur f.b.toNat
    if s.arrival l = 2 then .stop .wait none
    else if s.entriesUsed ≠ 0 then s.waitVec
    else s.arrive l 2 fun s =>
      let t := s.t
      let s1 := (s.setT { t with sys := { t.sys with vt := barrierVt t.sys.vt (s.dom s.cur l).gvt },
                                 spec := { t.spec with sdom := l, syncWait := wait } }).takeCkpt
      .ok s1.advance

/-- DSYNC (R367). -/
def execDsync (f : Fld) (s : State) : Host.Outcome State Fault Refusal := dsync false f s
/-- DSYNCW (R367). -/
def execDsyncw (f : Fld) (s : State) : Host.Outcome State Fault Refusal := dsync true f s

/-- DCOMM (R366, R367): a conditional arrival; after one in the same phase it has no effect, after an unconditional one it
waits (log entry 28). -/
def execDcomm (f : Fld) (s : State) : Host.Outcome State Fault Refusal :=
  issue { irrev := true } f s fun s =>
    let l := s.resolve s.cur f.b.toNat
    if s.arrival l = 1 then .ok s.advance else s.arrive l 1 fun s => .ok s.advance

/-- DPHASE (R371). -/
def execDphase (f : Fld) (s : State) : Host.Outcome State Fault Refusal :=
  issue { names := [f.a] } f s fun s =>
    let l := s.resolve s.cur f.b.toNat
    let a := s.arrival l
    .ok (s.setW f.a (BitVec.ofNat 64 ((s.dom s.cur l).phase + b2n (a == 2) * 2 ^ 32 + b2n (a == 1) * 2 ^ 33))).advance

/-- The word of DPROBE (R371). -/
def Dom.probe (d : Dom) : Word :=
  BitVec.ofNat 64 (d.missing % 2 ^ 32 + d.circuits % 2 ^ 16 * 2 ^ 32 + b2n d.sumZero * 2 ^ 62 + b2n d.white * 2 ^ 63)

/-- DPROBE (R371). -/
def execDprobe (f : Fld) (s : State) : Host.Outcome State Fault Refusal :=
  issue { names := [f.a] } f s fun s =>
    .ok (s.setW f.a (s.dom s.cur (s.resolve s.cur f.b.toNat)).probe).advance

/-! ## DLEVEL (R372) -/

/-- The interface of vcluster 0 answers: it stands on the device. -/
def State.vcl0 (s : State) (lid : Nat) : Bool := mhas (s.launch lid).pcls 0

/-- A request to form or dissolve waits for that interface and is applied there (R28, R372). -/
def State.formReq (s : State) (a : BitVec 6) (status : Nat) (done : State) : Res :=
  if !s.vcl0 s.t.lid then .stop .wait none
  else .ok ((if status = 0 then done else s).setW a (BitVec.ofNat 64 status)).advance

/-- DLEVEL (R372). -/
def execDlevel (f : Fld) (s : State) : Host.Outcome State Fault Refusal :=
  issue { names := [f.a, f.b] } f s fun s =>
    let o := s.W f.b
    let level := bitsOf o 2 0
    let word := bitsOf o 13 8
    let c := s.cur
    let k := s.clu (pclOf c)
    match bitsOf o 5 4 with
    | 0 => .ok (s.setW f.a (if 4 < level then 0 else (s.dom c (s.resolve c level)).dinfo)).advance
    | 1 => .ok (s.setW f.a (if level = 2 ∨ level = 3 then mget 0 (k.dmap level) word else 0)).advance
    | 2 =>
      if s.speculative c then .stop .wait none
      else (s.loadObj (s.W f.a) 512 64).res fun s1 b =>
        s1.formReq f.a (s1.formStatus s1.t.lid level (mapOf b)) (s1.formDom s1.t.lid level (mapOf b))
    | _ =>
      if s.speculative c then .stop .wait none
      else
        let bad := (level ≠ 2 ∧ level ≠ 3) ∨ k.formed level = false
        s.formReq f.a (if bad then 4 else 0) (s.dissolve s.t.lid level k.vcl)

end Sys2Proof.Machine
end

