-- ==== Sys2Proof/Machine/Dram.lean ====
section
/-! DEFINITION. DRAM's own units (R244 to R262): the commit of the region matrices, page migration, die map-out, patrol scrub, the
error logs' clear, PHY training. -/

namespace Sys2Proof.Machine

/-! ## Region matrices (R246 to R248) -/

/-- A pair of a 34-bit vector and the combination that makes it, in one number. -/
def gfPair (v comb : Nat) : Nat := v * 2 ^ 34 + comb
/-- Reduces a pair by a list of pairs over GF(2). -/
def gfReduce (basis : List Nat) (a : Nat) : Nat := basis.foldl (fun a b => min a (a ^^^ b)) a
/-- Adds a pair to a basis, unless its vector already lies in the span. -/
def gfInsert (basis : List Nat) (a : Nat) : List Nat :=
  let r := gfReduce basis a
  if r / 2 ^ 34 = 0 then basis else basis ++ [r]

/-- The location bits of one bit of P[38:5] under a region's matrix. -/
def Region.column (r : Region) (j : Nat) : Nat :=
  (List.range 34).foldl (fun a i => a + b2n (nbit (r.row i) j) * 2 ^ i) 0
/-- The pairs of the address bits that vary in a region. -/
def Region.columns (r : Region) : List Nat := (List.range (r.log2sz - 5)).map fun j => gfPair (r.column j) (2 ^ j)
/-- A basis of the locations that a region spans, each with the address bits that give it. -/
def Region.basis (r : Region) : List Nat := r.columns.foldl gfInsert []

/-- The enabled regions. -/
def enabledRegions (m : SMap Region) : List Region := ((List.range 8).map (Amap.region m)).filter (·.en)

/-- Do two regions share an address? -/
def Region.meets (r q : Region) : Bool :=
  decide (r.base < q.base + 2 ^ q.log2sz) && decide (q.base < r.base + 2 ^ r.log2sz)

/-- COVER of R248 holds: sizes and alignment are legal, no two regions overlap, and together they cover the HBM range. -/
def amapCovers (m : SMap Region) : Bool :=
  let rs := enabledRegions m
  rs.all (fun r => decide (12 ≤ r.log2sz) && decide (r.log2sz ≤ 39) && r.base % 2 ^ r.log2sz == 0) &&
    decide (rs.Pairwise fun r q => r.meets q = false) &&
    (rs.map fun r => 2 ^ r.log2sz).foldl (· + ·) 0 == 2 ^ 39

/-- Two addresses of one region map to one location: its columns depend on each other. -/
def Region.singular (r : Region) : Bool := r.basis.length != r.log2sz - 5

/-- A location that both regions reach: the difference of their first locations lies in the span of both. -/
def Region.collides (r q : Region) : Bool :=
  gfReduce (q.columns.foldl gfInsert r.basis) (gfPair (r.locate r.base ^^^ q.locate q.base) 0) / 2 ^ 34 == 0

/-- SINGULAR of R248: two HBM addresses map to one location. -/
def amapSingular (m : SMap Region) : Bool :=
  let rs := enabledRegions m
  rs.any Region.singular || !decide (rs.Pairwise fun r q => r.collides q = false)

/-- Is a launch placed or a migration in progress (R248)? -/
def State.amapBlocked (s : State) : Bool :=
  s.launches.any (fun (x : Nat × Launch) => x.2.active) ||
    s.dram.pmig.any fun (x : Nat × Pmig) => x.2.mov.isSome || (x.2.en && !x.2.queue.isEmpty)

/-- STATUS of a commit (R248). -/
def State.amapCheck (s : State) : Nat :=
  if s.amapBlocked then 3
  else if !amapCovers s.dram.amap.staged then 2
  else if amapSingular s.dram.amap.staged then 1
  else 0

/-- A write of AMAP_CTL with COMMIT = 1 (R248); ignored while BUSY. -/
def State.amapCommit (s : State) : State :=
  { s with dram := { s.dram with amap := { s.dram.amap with busy := true } } }

/-- AMAP_COMMIT (R248). -/
def execAmapCommit (s : State) : Host.Outcome State Fault Refusal := .next s.amapCommit

/-- Invalidates every L1 and L2 copy whose physical address satisfies p; what an L2 line holds is in memory already. -/
def State.dropCopies (s : State) (p : Nat → Bool) : State :=
  { s with l2 := s.l2.filter fun (x : L2Line) => !p (x.line * 1024),
           clus := s.clus.map fun (x : Nat × Cluster) =>
             (x.1, { x.2 with l1 := x.2.l1.filter fun (y : L1Line) => !p (y.line * 256) }) }

/-- The commit ends (R248): STATUS, and on OK the staged map becomes active. -/
def State.amapDone (s : State) : State :=
  if !s.dram.amap.busy then s
  else
    let st := s.amapCheck
    let a := { s.dram.amap with busy := false, status := st }
    if st ≠ 0 then { s with dram := { s.dram with amap := a } }
    else
      let s1 := s.dropCopies fun pa => decide (pa < 2 ^ 39)
      { s1 with dram := { s1.dram with amap := { a with active := a.staged } } }

/-- AMAP_COMMIT_DONE (R248). -/
def execAmapCommitDone (s : State) : Host.Outcome State Fault Refusal := .next s.amapDone

/-- The HBM address of a location under a region, where it has one. -/
def Region.addressOf (r : Region) (l : Nat) : Option Nat :=
  let x := gfReduce r.basis (gfPair (l ^^^ r.locate r.base) 0)
  if x / 2 ^ 34 = 0 then some (r.base + 32 * (x % 2 ^ 34)) else none

/-- The HBM address of a location. -/
def State.addressOf (s : State) (l : Nat) : Nat :=
  (((enabledRegions s.dram.amap.active).filterMap fun r => r.addressOf l).head?).getD 0

/-! ## Migration (R251, R252) -/

/-- Sets migration engine e. -/
def State.setPmig (s : State) (e : Nat) (p : Pmig) : State := { s with dram := { s.dram with pmig := mset s.dram.pmig e p } }
/-- Writes an 8-byte entry at a physical address, through raw keys; on a mapped-out die the write is discarded and logged (R255). -/
def State.rawWrite8 (s : State) (pa v : Nat) : State :=
  let a := s.rawKey pa / 32
  if s.atomRes a = 3 then s.logAtom { code := 5 } a 3 pa
  else { s with mem := memWrite s.mem ((List.range 8).map fun i => s.rawKey (pa + i)) (leBytes 8 v) }

/-- Frames on the free stack of a tier. -/
def Pmig.free (p : Pmig) (tier : Nat) : Nat := if tier = 0 then p.nfreeh else p.nfreel
/-- Base of the free stack of a tier. -/
def Pmig.stack (p : Pmig) (tier : Nat) : Nat := if tier = 0 then p.freeh else p.freel
/-- Sets the count of a tier's free stack. -/
def Pmig.setFree (p : Pmig) (tier n : Nat) : Pmig := if tier = 0 then { p with nfreeh := n } else { p with nfreel := n }

/-- A placement entry with another tier and frame, MOVING 0 (R250, R252). -/
def movedEntry (e tier frame : Nat) : Nat :=
  2 ^ 63 + tier * 2 ^ 62 + e / 2 ^ 42 % 2 ^ 19 * 2 ^ 42 + frame / 2 ^ 16 % 2 ^ 26 * 2 ^ 16 + e % 2 ^ 16

/-- The placement entry of a page whose migration is under way: MOVING is 1 (R250). -/
def movingEntry (e : Nat) : Nat := if nbit e 61 then e else e + 2 ^ 61
/-- An entry with MOVING 0. -/
def stillEntry (e : Nat) : Nat := if nbit e 61 then e - 2 ^ 61 else e

/-- Reads atoms upward until one is uncorrectable; the answer says whether one was. -/
def State.scanAtoms (ag : Agent) : Nat → Nat → State → State × Bool
  | 0, _, s => (s, false)
  | n + 1, pa, s =>
    let r := s.readAtom ag pa
    if r.2 then r else State.scanAtoms ag n (pa + 32) r.1

/-- The key of a byte of a frame of a tier, on the channels of Encke e. -/
def State.frameKey (s : State) (e tier f : Nat) : Nat := if tier = 0 then s.hbmKey (f % 2 ^ 39) else 2 ^ 43 + e * 2 ^ 42 + f % 2 ^ 42

/-- The frame that an entry of a placement table or of a free stack names. -/
def frameOf (v : Nat) : Nat := v / 2 ^ 16 % 2 ^ 26 * 2 ^ 16

/-- Are the channels of a sector of a frame ONLINE (R260)? -/
def State.frameOnline (s : State) (tier f : Nat) : Bool := tier == 1 || s.sectorOnline f

/-- Sector i of a page is copied to a frame of a tier (R252); the answer says whether it met an uncorrectable error. -/
def State.copySector (s : State) (k t f i : Nat) : State × Bool :=
  let pa := managedBase + 65536 * k + 256 * i
  let r := State.scanAtoms { code := 5 } 8 pa s
  if r.2 then r
  else
    let key (j : Nat) : Nat := s.frameKey (k % 2) t (f + 256 * i + j)
    let s1 := (List.range 8).foldl (fun (a : State) j => a.storeAtom { code := 5 } (key (32 * j) / 32) (pa + 32 * j) true false) r.1
    let bs := (List.range 256).filterMap fun j =>
      if s.atomRes (key j / 32) = 3 then none else some (key j, memGet s.mem (s.physKey (pa + j)))
    ({ s1 with mem := memWrite s1.mem (bs.map Prod.fst) (bs.map Prod.snd) }, false)

/-- Copies sectors until one fails. -/
def State.copySectors (k t f : Nat) : List Nat → State → State × Bool
  | [], s => (s, false)
  | i :: is, s =>
    let r := s.copySector k t f i
    if r.2 then r else State.copySectors k t f is r.1

/-- A migration ends with an uncorrectable error (R252): the entry is as it was, and the new frame goes back on its stack. -/
def State.migrFail (s : State) (e k t f : Nat) : State :=
  let p := s.pmig e
  let s1 := s.setPmig e { (p.setFree t (p.free t + 1)) with queue := p.queue.drop 1, mov := none }
  (s1.rawWrite8 (p.ppt + 8 * k) (stillEntry (s.ppte k))).rawWrite8 (p.stack t + 8 * p.free t) f

/-- A migration ends (R252): the page stands at its new frame, and the old one goes on the free stack of its tier. -/
def State.migrDone (s : State) (e k t f : Nat) : State :=
  let p := s.pmig e
  let ent := s.ppte k
  let old := b2n (nbit ent 62)
  let s1 := s.setPmig e { (p.setFree old (p.free old + 1)) with queue := p.queue.drop 1, mov := none }
  (s1.rawWrite8 (p.ppt + 8 * k) (movedEntry ent t f)).rawWrite8 (p.stack old + 8 * p.free old) (frameOf ent)

/-- The engine takes the request at its head (R252): done where the page stands in its tier, waiting where the free stack is empty; else it
pops a frame and marks the page. What it reads of the entry is counted (R256), and it waits for the channels (R260). -/
def State.migrStart (s : State) (e k t : Nat) : State :=
  let p := s.pmig e
  let ent := s.ppte k
  let top := p.stack t + 8 * (p.free t - 1)
  if !s.rawOnline (p.ppt + 8 * k) then s
  else
    let s1 := (s.readAtomAt { code := 5 } (s.rawKey (p.ppt + 8 * k) / 32) (p.ppt + 8 * k)).1
    if p.npages ≤ k ∨ nbit ent 63 = false ∨ b2n (nbit ent 62) = t then s1.setPmig e { p with queue := p.queue.drop 1 }
    else if p.free t = 0 ∨ s.rawOnline top = false then s
    else
      let s2 := (s1.readAtomAt { code := 5 } (s1.rawKey top / 32) top).1
      (s2.setPmig e { (p.setFree t (p.free t - 1)) with mov := some { frame := frameOf (s.rawRead8 top) } }).rawWrite8 (p.ppt + 8 * k)
        (movingEntry ent)

/-- One step of a migration under way (R252): the next sector is copied, or, with all copied, the sectors written since once more, and the
move ends. While they are copied again no access to the page comes between. -/
def State.migrStep (s : State) (e k t : Nat) (m : Mov) : State :=
  let old := b2n (nbit (s.ppte k) 62)
  let serves (i : Nat) : Bool := s.frameOnline old (frameOf (s.ppte k) + 256 * i) && s.frameOnline t (m.frame + 256 * i)
  if m.next < 256 then
    if !serves m.next then s
    else
      let r := s.copySector k t m.frame m.next
      if r.2 then r.1.migrFail e k t m.frame
      else r.1.setPmig e { (r.1.pmig e) with mov := some { m with next := m.next + 1, dirty := m.dirty.filter fun i => i != m.next } }
  else if !m.dirty.all serves || !s.rawOnline ((s.pmig e).ppt + 8 * k) then s
  else
    let r := State.copySectors k t m.frame m.dirty s
    if r.2 then r.1.migrFail e k t m.frame else r.1.migrDone e k t m.frame

/-- Engine e goes on with the request at its head (R252). -/
def State.migrate (s : State) (e : Nat) : State :=
  let p := s.pmig e
  match p.queue.head?, p.mov with
  | none, _ => s
  | some (k, t), none => if p.en then s.migrStart e k t else s
  | some (k, t), some m => if p.en then s.migrStep e k t m else s

/-- MIGRATION (R252). -/
def execMigration (e : Nat) (s : State) : Host.Outcome State Fault Refusal := .next (s.migrate e)

/-! ## Map-out and the host's event bits (R255, R424) -/

/-- Sets bits of HL_EVENT at a port, and sends MSI-X vector 0 (R424). -/
def State.hlEvent (s : State) (e bit : Nat) : State :=
  let p := s.port e
  { s with outer := { s.outer with ports := mset s.outer.ports e { p with event := p.event ||| 2 ^ bit, msi := p.msi + 1 } } }

/-- Does an atom of a sector satisfy p? -/
def State.sectorHas (s : State) (pa : Nat) (p : Nat → Bool) : Bool := (List.range 8).any fun i => p (s.atomOf (pa + 32 * i))

/-- The sectors of an L2 line that have an atom with p, as a mask. -/
def State.lineMask (s : State) (line : Nat) (p : Nat → Bool) : Nat :=
  (List.range 4).foldl (fun a i => a + b2n (s.sectorHas (line * 1024 + 256 * i) p) * 2 ^ i) 0

/-- Takes sectors out of an L2 line. -/
def L2Line.without (x : L2Line) (mask : Nat) : L2Line := { x with valid := x.valid &&& (15 ^^^ mask), dirty := x.dirty &&& (15 ^^^ mask) }

/-- Invalidates every L1 and L2 copy of a sector that has an atom with p. -/
def State.dropSectors (s : State) (p : Nat → Bool) : State :=
  { s with l2 := (s.l2.map fun (x : L2Line) => x.without (s.lineMask x.line p)).filter fun (x : L2Line) => x.valid != 0,
           clus := s.clus.map fun (x : Nat × Cluster) =>
             (x.1, { x.2 with l1 := x.2.l1.filter fun (y : L1Line) => !s.sectorHas (y.line * 256) p }) }

/-- Does an atom lie on a die of a stack? -/
def onDie (stack die a : Nat) : Bool := decide (a < 2 ^ 34) && locStack a == stack && locDie a == die

/-- Sets a stack's repair state. -/
def State.setRmap (s : State) (k : Nat) (r : Rmap) : State := { s with dram := { s.dram with rmap := mset s.dram.rmap k r } }

/-- RMAP_MAPOUT with GO (R255). The message to the host is HL_EVENT.HOTREMOVE of both ports. -/
def State.mapout (s : State) (stack die : Nat) : State :=
  let r := s.rmap stack
  if r.mode < 2 ∨ nbit r.out die = true ∨ 2 ≤ r.outCount then s.setRmap stack { r with refused := true }
  else
    let s1 := s.dropSectors (onDie stack die)
    let tab := r.table.filter fun (x : Nat × Bool) => locDie x.1 != die
    let s2 := s1.setRmap stack { r with refused := false, out := r.out + 2 ^ die, table := tab }
    let w := Config.entryField stack die 1
    let s3 := s2.logErr stack none 6 (Config.entryField stack die 0 % 2 ^ 52)
      (w % 2 ^ 34 + w / 2 ^ 34 % 2 ^ 18 * 2 ^ 40 + w / 2 ^ 52 % 8 * 2 ^ 58) (stack * 512 + 256)
    (s3.hlEvent 0 0).hlEvent 1 0

/-- RMAP_MAPOUT (R255). -/
def execRmapMapout (stack die : Nat) (s : State) : Host.Outcome State Fault Refusal := .next (s.mapout (stack % 8) (die % 16))

/-! ## Patrol scrub and the logs (R256, R258) -/

/-- The location of sector n of a channel of a stack, 2^22 sectors in ascending location. -/
def scrubLoc (stack ch n : Nat) : Nat :=
  n / 2 ^ 4 % 2 ^ 18 * 2 ^ 16 + ch % 64 * 2 ^ 10 + stack % 8 * 2 ^ 7 + n / 2 ^ 2 % 4 * 2 ^ 5 + n % 4 * 2 ^ 3

/-- Scrubs one atom, which stands at an address: an error is logged, a correctable one corrected. -/
def State.scrubAtom (s : State) (a addr : Nat) : State :=
  let r := (s.readAtomAt { code := 7 } a addr).1
  { r with dram := { r.dram with weak := r.dram.weak.filter fun x => x != a } }

/-- Sets a channel's PHY registers. -/
def State.setPhy (s : State) (stack ch : Nat) (p : Phy) : State :=
  { s with dram := { s.dram with phy := mset s.dram.phy (stack * 64 + ch) p } }

/-- The patrol goes on by one sector of a channel: of a stack, or of an Encke, whose channels are numbered as those of stacks 8 and 9
(R257). Which sector of an LPDDR-6 channel comes next, and the address it has, no rule gives (log entry 27). -/
def State.scrubSector (s : State) (stack ch n : Nat) : State :=
  (List.range 8).foldl (fun (a : State) i =>
    if stack < 8 then let l := scrubLoc stack ch n + i; a.scrubAtom l (a.addressOf l)
    else
      let x := Config.scrubSector (stack * 64 + ch) n
      a.scrubAtom ((2 ^ 43 + (stack - 8) * 2 ^ 42 + x % 2 ^ 32 * 256) / 32 + i) ((x / 2 ^ 32 * 256 + 32 * i) % 2 ^ 52)) s

/-- The patrol goes on by m sectors. -/
def State.scrubSectors (stack ch : Nat) : Nat → Nat → State → State
  | 0, _, s => s
  | m + 1, n, s => State.scrubSectors stack ch m (n + 1) (s.scrubSector stack ch n)

/-- Does a device of this form have a channel: 64 of each stack, 48 of each Encke on 4816-M (R1, R2)? -/
def State.hasChannel (s : State) (stack ch : Nat) : Bool :=
  if stack < 8 then decide (ch < 64) else decide (stack < 10) && decide (ch < 48) && s.form == .m

/-- The patrol of a channel (R256): one sector falls due every 2^20 cycles; while the channel is not ONLINE what is due waits (R260). -/
def State.scrub (s : State) (stack ch : Nat) : State :=
  let p := s.phy stack ch
  let n := p.owed + if s.gtime % 2 ^ 20 = 0 then 1 else 0
  if !s.hasChannel stack ch then s
  else if stack < 8 ∧ p.online = false then s.setPhy stack ch { p with owed := n }
  else (State.scrubSectors stack ch n p.scrub s).setPhy stack ch { p with scrub := (p.scrub + n) % 2 ^ 22, owed := 0 }

/-- PATROL_SCRUB (R256). -/
def execPatrolScrub (stack ch : Nat) (s : State) : Host.Outcome State Fault Refusal := .next (s.scrub stack ch)

/-- Sets an error log. -/
def State.setElog (s : State) (b : Nat) (l : Elog) : State := { s with dram := { s.dram with elog := mset s.dram.elog b l } }

/-- ELOG_CLR (R258). -/
def execElogClr (blk : Nat) (s : State) : Host.Outcome State Fault Refusal :=
  .next (s.setElog blk { s.elog blk with ents := [], ovf := false })

/-! ## PHY training (R260 to R262) -/

/-- Bits of HPHY_PAT_CTL that software writes. -/
def patMask : Nat := 0x3FFFF0F30
/-- DIR. -/
def patDir (v : Nat) : Nat := v / 2 ^ 4 % 4
/-- PAT. -/
def patPat (v : Nat) : Nat := v / 2 ^ 8 % 16
/-- BURSTS; 0 means 65,536. -/
def patBursts (v : Nat) : Nat := let b := v / 2 ^ 16 % 2 ^ 16; if b = 0 then 65536 else b
/-- The pseudo-channel tested. -/
def patPc (v : Nat) : Nat := v / 2 ^ 32 % 4

/-- The locations of the row that a LOOP run overwrites (R261): row 0, bank 0, group 0, die 0. -/
def loopRow (stack ch pc : Nat) : List Nat := (List.range 32).map fun i => ch * 2 ^ 10 + stack * 2 ^ 7 + pc * 2 ^ 5 + i

/-- Does the L2 hold a dirty sector with this atom? -/
def State.atomDirty (s : State) (a : Nat) : Bool := s.l2.any fun (x : L2Line) => (x.dirty &&& s.lineMask x.line (· == a)) != 0

/-- One atom of the row gets undefined contents and undefined ECC; one that lies in the repair SRAM or that the L2 has still to
write back keeps its data. -/
def State.loopAtom (s : State) (a : Nat) : State :=
  let r := s.rmap (locStack a)
  if mhas r.table a ∨ nbit r.out (locDie a) = true ∨ s.atomDirty a = true then s
  else
    let ks := (List.range 32).map fun i => a * 32 + i
    let bs := (List.range 32).map fun i => Config.loopByte s.fresh i
    let d := s.dram
    let ecc := Config.loopEcc s.fresh % 3
    { s with mem := memWrite s.mem ks bs, fresh := s.fresh + 1,
             dram := { d with poison := (if ecc = 2 then [a] else []) ++ d.poison.filter fun x => x != a,
                              weak := (if ecc = 1 then [a] else []) ++ d.weak.filter fun x => x != a } }

/-- A LOOP run's effect on DRAM (R261); clean L2 sectors of the row are dropped, so that a later read sees the row. -/
def State.loopRun (s : State) (stack ch pc : Nat) : State :=
  let row := loopRow stack ch pc
  let ls := s.l2.map fun (x : L2Line) => x.without (s.lineMask x.line row.contains &&& (15 ^^^ x.dirty))
  let s1 := { s with l2 := ls.filter fun (x : L2Line) => x.valid != 0 }
  row.foldl (fun (a : State) l => a.loopAtom l) s1

/-- A write of HPHY_PAT_CTL (R260, R261). -/
def State.patGo (s : State) (stack ch v : Nat) : State :=
  let p0 := s.phy stack ch
  let p := { p0 with pat := v &&& patMask }
  if nbit v 0 = false ∨ p.online = true ∨ p.running = true then s.setPhy stack ch p
  else if 4 ≤ patPat v ∨ patDir v = 3 then
    s.setPhy stack ch { p with done := true, perr := BitVec.ofNat 64 (2 ^ 63) }
  else
    let s1 := s.setPhy stack ch { p with done := false, perr := 0, running := true, bursts := patBursts v }
    if patDir v = 2 then s1.loopRun stack ch (patPc v) else s1

/-- HPHY_PAT_GO (R261). -/
def execHphyPatGo (stack ch v : Nat) (s : State) : Host.Outcome State Fault Refusal := .next (s.patGo (stack % 8) (ch % 64) v)

/-- The lanes that a run may report (R260): the logical lanes, and each spare lane that carries none. -/
def laneMask (lrep : Nat) : Nat :=
  2 ^ 32 - 1 + (if nbit lrep 7 then 0 else 2 ^ 32) + (if nbit lrep 15 then 0 else 2 ^ 33)

/-- A pattern run finishes (R261); `lanes` and `nbad` are what the physical lanes showed. -/
def State.patDone (s : State) (stack ch lanes nbad : Nat) : State :=
  let p := s.phy stack ch
  if !p.running then s
  else
    let l := lanes &&& laneMask p.lrep
    let n := if l = 0 then 0 else max 1 (min nbad (min p.bursts 65535))
    s.setPhy stack ch { p with running := false, done := true, perr := BitVec.ofNat 64 (n * 2 ^ 34 + l) }

/-- HPHY_PAT_DONE (R261). -/
def execHphyPatDone (stack ch lanes nbad : Nat) (s : State) : Host.Outcome State Fault Refusal :=
  .next (s.patDone (stack % 8) (ch % 64) lanes nbad)

/-- Is a value of HPHY_LREP valid (R262)? -/
def lrepOk (v : Nat) : Bool :=
  decide (v % 64 < 32) && decide (v / 2 ^ 8 % 64 < 32) && !(nbit v 7 && nbit v 15 && v % 64 == v / 2 ^ 8 % 64)

/-- HPHY_LREP_WRITE (R260, R262). -/
def execHphyLrepWrite (stack ch v : Nat) (s : State) : Host.Outcome State Fault Refusal :=
  let p := s.phy (stack % 8) (ch % 64)
  .next (if p.online ∨ lrepOk v = false then s else s.setPhy (stack % 8) (ch % 64) { p with lrep := v &&& 0xBFBF })

/-- HPHY_CHCTL_WRITE (R260). -/
def execHphyChctlWrite (stack ch v : Nat) (s : State) : Host.Outcome State Fault Refusal :=
  .next (s.setPhy (stack % 8) (ch % 64) { s.phy (stack % 8) (ch % 64) with online := nbit v 0 })

end Sys2Proof.Machine
end

