-- ==== Sys2Proof/Machine/Spec.lean ====
section
/-! DEFINITION. Virtual time, speculation and timestamped tasks (R375 to R386): aborts, the task stores, and the SPEC
instructions. -/

namespace Sys2Proof.Machine

/-! ## Aborts (R379) -/

/-- The vector stream after an abort: every entry, the loads under way and every late fault of it are discarded; DSEQ stays, and so do
the stores under way and the faults of matrix jobs, which are irrevocable. -/
def Vec.discarded (v : Vec) : Vec :=
  { v with seq := [], halted := false, raised := false, discard := false, late := v.late.filter fun x => decide (16 ≤ x.sub),
           loop := none, bodyLeft := 0, ha := none, hb := none, rdy := [], busy := [], tails := [], mem := v.mem.filter (·.store) }

/-- What a checkpoint restores (R379): PC, the window, PW, v0–v23, the stream images and SPEN. -/
def Thread.rollback (t : Thread) (k : Ckpt) : Thread :=
  { t with pc := k.pc, win := k.win, rdy := [], pw := k.pw, vec := { t.vec with v := k.v }, strm := k.strm, drained := false,
           spec := { t.spec with spen := k.spen } }

/-- An abort takes effect: stores, tags, marks and entries, those of matrix jobs too, are discarded, and the checkpoint is restored
(R379). -/
def State.abortNow (s : State) (c : Nat) : State :=
  let s1 := s.dropMarks c
  let t := s1.thread c
  let n := (t.vec.seq.filter (·.page == 5)).length
  let t1 := { t with vec := t.vec.discarded, pend := none, jobs := t.jobs - n, spec := { t.spec with sb := [], abort := false } }
  s1.setThread c (match t1.spec.ckpt with | some k => t1.rollback k | none => t1)

/-- SPEC_ABORT (R379): a conflict that was found takes effect. -/
def execSpecAbort (pid : Nat) (s : State) : Host.Outcome State Fault Refusal :=
  .next (if (s.thread pid).spec.abort then s.abortNow pid else s)

/-! ## Task stores (R381) -/

/-- The unit of the task leader of the domain that a context has at a formed level. -/
def State.leaderUnit (s : State) (c level : Nat) : Nat :=
  let v := (s.clu (pclOf c)).vcl
  match level with
  | 0 => v * 16 + coreNo c
  | 1 => v
  | _ => bitsOf (s.dom c level).dinfo 23 12

/-- The vcluster of a unit. -/
def unitVc (level u : Nat) : Nat := if level = 0 then u / 16 else u

/-- Does a task belong to a domain? -/
def Task.isOf (k : Task) (level u : Nat) : Bool := k.level == level && k.unit == u
/-- Its timestamp. -/
def Task.ts (k : Task) : Nat := k.key / 65536

/-- The tie that a task with a timestamp gets in a domain (R381). -/
def Cluster.nextTie (k : Cluster) (level u ts : Nat) : Nat :=
  match (k.tasks ++ k.held).find? fun x => x.isOf level u && x.ts == ts with
  | some x => x.last + 1
  | none => 0

/-- Notes the last tie of a timestamp at its tasks. -/
def noteTie (level u ts tie : Nat) (l : List Task) : List Task :=
  l.map fun x => if x.isOf level u && x.ts == ts then { x with last := tie } else x

/-- The status of a TENQ (R382). -/
def enqStatus (bad full : Bool) (key gvt tie : Nat) : Nat :=
  if bad then 4 else if full then 1 else if key ≤ gvt then 2 else if 65535 < tie then 3 else 0

/-- A TENQ reaches its leader's interface, which delivers a message and so turns black in each domain in which it counts (R368,
R382). -/
def State.enqTask (s : State) (lid level u : Nat) (k : Task) : State :=
  let v := unitVc level u
  let s1 := (if level = 0 then [0, 1, 2, 3, 4] else [1, 2, 3, 4]).foldl (fun (a : State) l =>
    if s.memberOf lid l s.t.tid (if level = 0 then u * 4 else u * 64) then
      a.onDom lid l (if l = 0 then u else v) fun d => { d with black := true }
    else a) s
  s1.onVclu lid v fun q =>
    { q with tasks := noteTie level u k.ts k.last q.tasks ++ [k], held := noteTie level u k.ts k.last q.held }

/-- TENQ (R382). -/
def execTenq (f : Fld) (s : State) : Host.Outcome State Fault Refusal :=
  issue { irrev := true, names := [f.a, f.b, f.b + 1] } f s fun s =>
    let x := s.W f.a
    let ts := bitsOf x 47 0
    let code := bitsOf x 50 48
    let bad := bitsOf x 63 51 != 0 || decide (4 < code) || ts == 2 ^ 48 - 1
    if bad then .ok (s.setW f.a 4).advance
    else
      let l := s.resolve s.cur code
      let u := s.leaderUnit s.cur l
      let lid := s.t.lid
      if !mhas (s.launch lid).pcls (unitVc l u) then .stop .wait none
      else
        let q := s.vclu lid (unitVc l u)
        let tie := q.nextTie l u ts
        let key := ts * 65536 + tie
        let st := enqStatus bad (decide (512 ≤ q.tasks.length)) key (s.domOf lid l u).gvt.toNat tie
        let k : Task := { level := l, unit := u, key := key, pay0 := s.W f.b, pay1 := s.Wn f.b 1, last := tie }
        .ok ((if st = 0 then s.enqTask lid l u k else s).setW f.a (BitVec.ofNat 64 st)).advance

/-- TDONE by a thread that holds a task (R384): VT becomes all ones and the task is released. -/
def State.doneTask (s : State) : State :=
  let t := s.t
  match t.spec.task with
  | none => s
  | some (l, u, key) =>
    let s1 := (s.dropMarks s.cur).onVclu t.lid (unitVc l u) fun q =>
      { q with held := q.held.filter fun x => !(x.isOf l u && x.key == key) }
    s1.setT { s1.t with sys := { s1.t.sys with vt := ones64 }, spec := { s1.t.spec with task := none } }

/-- The pending task of a domain with the least key. -/
def leastTask (level u : Nat) : List Task → Option Task
  | [] => none
  | x :: xs =>
    match leastTask level u xs with
    | none => if x.isOf level u then some x else none
    | some y => if x.isOf level u && decide (x.key < y.key) then some x else some y

/-- The thread takes a task: VT, SDOM, the payload, the predicate and a checkpoint (R383). -/
def State.takeTask (s : State) (a : BitVec 6) (x l u : Nat) (k : Task) : State :=
  let s1 := s.onVclu s.t.lid (unitVc l u) fun q => { q with tasks := q.tasks.filter (· != k), held := q.held ++ [k] }
  let t := s1.t
  let s2 := s1.setT { t with sys := { t.sys with vt := BitVec.ofNat 64 k.key },
                             spec := { t.spec with sdom := l, task := some (l, u, k.key) } }
  (((s2.setWn a 0 k.pay0).setWn a 1 k.pay1).setP x true).takeCkpt

/-- TNEXT (R383); where the store holds no pending task, VT is all ones after it (log entry 46). -/
def execTnext (f : Fld) (s : State) : Host.Outcome State Fault Refusal :=
  issue { irrev := true, names := [f.a, f.a + 1] } f s fun s =>
    if !s.t.spec.sb.isEmpty then .stop .wait none
    else
      let s1 := (s.dropMarks s.cur).doneTask
      if s1.entriesUsed ≠ 0 then
        (match s1.waitVec with
          | .stop e none => .stop e (some s1)
          | r => r)
      else
        let l := s1.resolve s1.cur f.b.toNat
        let u := s1.leaderUnit s1.cur l
        if !mhas (s1.launch s1.t.lid).pcls (unitVc l u) then .stop .wait (some s1)
        else match leastTask l u (s1.vclu s1.t.lid (unitVc l u)).tasks with
          | none =>
            let t := s1.t
            .ok ((s1.setT { t with sys := { t.sys with vt := ones64 } }).setP (destP f.x) false).advance
          | some k => .ok (s1.takeTask f.a (destP f.x) l u k).advance

/-- TDONE (R384). -/
def execTdone (f : Fld) (s : State) : Host.Outcome State Fault Refusal :=
  issue { irrev := true } f s fun s =>
    if s.t.spec.task.isSome && !s.t.spec.sb.isEmpty then .stop .wait none else .ok s.doneTask.advance

/-- TABORT (R385): a speculative thread goes back to its checkpoint and waits there until it is not speculative. -/
def execTabort (f : Fld) (s : State) : Host.Outcome State Fault Refusal :=
  issue {} f s fun s =>
    if s.speculative s.cur then
      let s1 := s.abortNow s.cur
      .ok (s1.setT { s1.t with spec := { s1.t.spec with abortWait := true } })
    else .ok s.advance

/-- The status word of VTRD (R386). -/
def State.specWord (s : State) : Word :=
  let t := s.t
  BitVec.ofNat 64 (b2n t.spec.spen + b2n (s.speculative s.cur) * 2 + b2n (t.sys.vt == ones64) * 4 + b2n t.spec.task.isSome * 8 +
    t.spec.sb.length % 128 * 2 ^ 8 + t.spec.sdom % 8 * 2 ^ 16)

/-- VTRD (R386). -/
def execVtrd (f : Fld) (s : State) : Host.Outcome State Fault Refusal :=
  issue { names := [f.a] } f s fun s => .ok (s.setW f.a (if f.b = 0 then s.t.sys.vt else s.specWord)).advance

/-- GVTRD (R386). -/
def execGvtrd (f : Fld) (s : State) : Host.Outcome State Fault Refusal :=
  issue { names := [f.a] } f s fun s => .ok (s.setW f.a (s.dom s.cur (s.resolve s.cur f.b.toNat)).gvt).advance

/-- SPOFF (R386). -/
def execSpoff (f : Fld) (s : State) : Host.Outcome State Fault Refusal :=
  issue {} f s fun s => .ok (s.setT { s.t with spec := { s.t.spec with spen := false } }).advance

/-- SPON (R386). -/
def execSpon (f : Fld) (s : State) : Host.Outcome State Fault Refusal :=
  issue {} f s fun s => .ok (s.setT { s.t with spec := { s.t.spec with spen := true } }).advance

end Sys2Proof.Machine
end

