-- ==== Sys2Proof/Machine/Sched.lean ====
section
/-! DEFINITION. The launch scheduler (R53 to R67): queues and records, the QSCH registers with behaviour of their own,
budgets and stalls. -/

namespace Sys2Proof.Machine

/-! ## Queues and records (R54, R57) -/

/-- The scheduler's writes. -/
def State.schedWrite (s : State) (pa : Nat) (bs : List Byte) : State := s.homeWrite { c := none, vt := 0, code := 0 } (.phys pa) bs 0

/-- The address of a queue's descriptor. -/
def State.descAt (s : State) (q : Nat) : Nat := s.sched.qtbase + 32 * q
/-- A field of a queue's descriptor. -/
def State.descField (s : State) (q o n : Nat) : Nat := s.readAt (.phys (s.descAt q + o)) n

/-- A queue as the scheduler sees it: RING, LOG2N, DFLAGS, ASPACE, HEAD, TAIL. -/
structure Queue where
  ring : Nat
  log2n : Nat
  flags : Nat
  asid : Nat
  head : Nat
  tail : Nat
deriving DecidableEq, Repr

/-- Reads a descriptor; TAIL is the value that the scheduler has read with the latest doorbell, or keeps itself for a DEVAPP queue
(R55, log entry 35). -/
def State.queue (s : State) (q : Nat) : Queue :=
  let flags := s.descField q 9 1
  { ring := s.descField q 0 8, log2n := s.descField q 8 1, flags := flags, asid := s.descField q 0xA 2,
    head := s.descField q 0xC 4, tail := mget (if nbit flags 0 then 0 else s.descField q 0xC 4) s.sched.tails q }

/-- The scheduler reads the TAIL of a queue that software feeds (R55). -/
def State.readTail (s : State) (q : Nat) : State :=
  if nbit (s.descField q 9 1) 0 then s
  else { s with sched := { s.sched with tails := mset s.sched.tails q (s.descField q 0x10 4) } }

/-- Records that a queue holds, modulo 2^32 (R54). -/
def Queue.count (x : Queue) : Nat := (x.tail + (2 ^ 32 - x.head % 2 ^ 32)) % 2 ^ 32
/-- Places of the ring. R54 gives LOG2N as 1 to 16 and names no refusal of another value: the ring has 2^LOG2N places whatever the byte
holds (log entry 35). -/
def Queue.cap (x : Queue) : Nat := 2 ^ x.log2n
/-- The address of record i. -/
def Queue.recAt (x : Queue) (i : Nat) : Nat := x.ring + 128 * (i % x.cap)

/-- Does a queue exist and hold a record (R54)? -/
def State.hasHead (s : State) (q : Nat) : Bool :=
  let x := s.queue q
  x.ring != 0 && x.count != 0

/-- May the record at the head be dispatched or refused? Not while RINGERR is 1 (R55). -/
def State.mayTake (s : State) (q : Nat) : Bool := s.hasHead q && !s.sched.ringerr.contains q

/-- Sets or clears a bit of DFLAGS. -/
def State.setDflag (s : State) (q b : Nat) (v : Bool) : State :=
  let f := s.descField q 9 1
  s.schedWrite (s.descAt q + 9) [BitVec.ofNat 8 (f - b2n (nbit f b) * 2 ^ b + b2n v * 2 ^ b)]

/-- A launch record (R57). -/
structure LRec where
  obj : Word
  entry : Nat
  flags : Nat
  status : Nat
  ncl : Nat
  waitsem : Word
  waitval : Word
  sigsem : Word
  save : Word
  args : List Word
deriving DecidableEq, Repr

/-- Reads a record. -/
def State.lrec (s : State) (pa : Nat) : LRec :=
  let g (o n : Nat) : Nat := s.readAt (.phys (pa + o)) n
  let w (o : Nat) : Word := BitVec.ofNat 64 (g o 8)
  { obj := w 0, entry := g 8 2, flags := g 0xA 1, status := g 0xB 1, ncl := g 0xC 4, waitsem := w 0x10, waitval := w 0x18,
    sigsem := w 0x20, save := w 0x28, args := (List.range 8).map fun i => w (0x30 + 8 * i) }

/-- The head record of a queue. -/
def State.headRec (s : State) (q : Nat) : LRec := let x := s.queue q; s.lrec (x.recAt x.head)
/-- WAIT of a record. -/
def LRec.wait (r : LRec) : Bool := nbit r.flags 0
/-- SIGNAL of a record. -/
def LRec.signal (r : LRec) : Bool := nbit r.flags 1

/-- What a semaphore's address names, through its queue's ASPACE (R58): `none` where it does not translate to backed memory with
the permission. -/
def State.semAt (s : State) (asid : Nat) (va : Word) (w : Bool) : Option Nat :=
  let v := va.toNat
  if v % 8 ≠ 0 ∨ 2 ^ 56 ≤ v ∨ isAlias v = true ∨ isMesh v = true then none
  else match s.walk none asid v with
    | .error _ => none
    | .ok p =>
      let pa := p.pa + (v - p.va)
      if !p.r || (w && !p.w) then none
      else match s.backing pa with
        | .nothing | .steward => none
        | _ => some pa

/-- Must an access to a semaphore wait: its walk, or the word itself, lies on a channel that is not ONLINE (R260)? -/
def State.semWaits (s : State) (asid : Nat) (va : Word) : Bool :=
  let v := va.toNat
  if v % 8 ≠ 0 ∨ 2 ^ 56 ≤ v ∨ isAlias v = true ∨ isMesh v = true then false
  else match s.walk none asid v with
    | .error .hold => true
    | .error _ => false
    | .ok p => !s.dramReady (.phys (p.pa + (v - p.va))) 8

/-- Can the descriptor of a queue, and the record at its head, be read and written now (R260)? -/
def State.queueReady (s : State) (q : Nat) : Bool :=
  s.dramReady (.phys (s.descAt q)) 32 &&
    (!s.hasHead q || s.dramReady (.phys ((s.queue q).recAt (s.queue q).head)) 128)

/-- Is the descriptor of a queue, or the record at its head, uncorrectable (R255, R256)? The spec does not say what the scheduler does then:
the head is not taken (log entry 27). -/
def State.headBad (s : State) (q : Nat) : Bool :=
  s.readsBad (.phys (s.descAt q)) 32 || (s.hasHead q && s.readsBad (.phys ((s.queue q).recAt (s.queue q).head)) 128)

/-- Can the scheduler take the head of a queue: it can be read, and need not be waited for? -/
def State.headReads (s : State) (q : Nat) : Bool := s.queueReady q && !s.headBad q

/-- Must the scheduler wait before it can check the head of a queue: for the queue's own memory, the table of address spaces or a
semaphore (R260)? -/
def State.headWaits (s : State) (q : Nat) : Bool :=
  !s.queueReady q ||
    (s.hasHead q &&
      (let asid := (s.queue q).asid
       let r := s.headRec q
       !s.dramReady (.phys (s.astab + 32 * asid)) 16 || (r.wait && s.semWaits asid r.waitsem) || (r.signal && s.semWaits asid r.sigsem)))

/-- The scheduler reads a queue's descriptor and the record at its head: what DRAM reports of it is counted and logged (R256). -/
def State.schedRead (s : State) (q : Nat) : State :=
  let s1 := (s.homeRead { code := 0 } (.phys (s.descAt q)) 32 0).1
  if s.hasHead q then (s1.homeRead { code := 0 } (.phys ((s.queue q).recAt (s.queue q).head)) 128 0).1 else s1

/-- Adds 1 to a semaphore (R67). -/
def State.semAdd (s : State) (pa : Nat) : State :=
  let s1 := s.schedWrite pa (leBytes 8 (s.readAt (.phys pa) 8 + 1))
  { s1 with sched := { s1.sched with sigAt := some s.gtime } }

/-! ## Slots and heads (R59, R65, R66) -/

/-- The slots. -/
def slotNos : List Nat := List.range 64
/-- Does a slot map a queue, no lower slot mapping the same one (R61)? -/
def State.slotMaps (s : State) (n : Nat) : Bool :=
  (s.slot n).map && (List.range n).all fun m => !((s.slot m).map && (s.slot m).qnum == (s.slot n).qnum)
/-- A slot's serving queue. -/
def QSlot.serving (q : QSlot) : Nat := if q.bv then q.borrow else q.qnum
/-- A slot's effective deadline (R63). -/
def QSlot.effDeadline (q : QSlot) : Nat := if q.period = 0 then 2 ^ 64 - 1 else q.deadline

/-- Has the scheduler found the semaphore of a queue's head at its value, where it waits (R65)? -/
def State.semMet (s : State) (q : Nat) : Bool :=
  !(s.headRec q).wait || mget 0 s.sched.sems q == (s.queue q).head + 1

/-- Does a queue's head keep SERIAL at a slot? -/
def State.serialOk (s : State) (n q : Nat) : Bool := !nbit (s.queue q).flags 3 || (s.slot n).nplaced == 0

/-- Is the head of a queue ready at a slot (R65)? -/
def State.headReady (s : State) (n q : Nat) : Bool := s.headReads q && s.hasHead q && s.semMet q && s.serialOk n q && !s.sched.held

/-- Does the head of a slot's owner wait on its semaphore alone (R66)? -/
def State.headBlocked (s : State) (n : Nat) : Bool :=
  let q := (s.slot n).qnum
  s.slotMaps n && s.headReads q && s.hasHead q && !s.semMet q && s.serialOk n q && !s.sched.held

/-- QS_STAT.STATE follows the owner's head; its wait is counted from the cycle in which it is first seen at the head (R60, R66). -/
def State.noteHead (s : State) (n : Nat) : State :=
  let x := s.slot n
  let q := x.qnum
  let h := (s.queue q).head
  let st := if x.state = 3 then 3 else if !(s.slotMaps n && s.hasHead q) then 0 else if s.semMet q then 1 else 2
  let w := if s.slotMaps n && s.hasHead q then
      (match x.waitFrom with | some (i, t) => if i = h then some (i, t) else some (h, s.gtime) | none => some (h, s.gtime))
    else none
  s.setSlot n { x with state := st, waitFrom := w }

/-- A record is refused (R58): HEAD passes it, STATUS 3, no charge, SIGSEM where it may be signalled, LAUNCHERR. -/
def State.refuse (s : State) (n q reason : Nat) : State :=
  let x := s.queue q
  let pa := x.recAt x.head
  let r := s.lrec pa
  let s1 := ((s.schedWrite (pa + 0xB) [3]).schedWrite (pa + 0x70) (leBytes 16 0)).schedWrite (s.descAt q + 0xC)
    (leBytes 4 (x.head + 1))
  let s2 := if r.signal then (match s1.semAt x.asid r.sigsem true with | some p => s1.semAdd p | none => s1) else s1
  (s2.post 3 n q (reason + x.head % 2 ^ 24 * 256)).noteHead n

/-- Step 3 of R64 examines heads every 65,536 cycles and after a completion signal: one of this cycle's step 1, or of the decisions
of the cycle before (R65). -/
def State.examNow (s : State) : Bool :=
  s.gtime % 65536 == 0 || (match s.sched.sigAt with | some t => decide (s.gtime ≤ t + 1) | none => false)

/-! ## The security engine's interface to the scheduler (R428) -/

/-- A TDI moves to ERROR: every key slot installed through it is cleared. -/
def State.tdiError (s : State) (e : Nat) : State :=
  let p := s.port e
  let clear (k : Cluster) : Cluster := { k with keys := k.keys.filter fun (x : Nat × KeySlot) => x.2.tdi != some e }
  { s with clus := s.clus.map fun (x : Nat × Cluster) => (x.1, clear x.2),
           saved := s.saved.map fun (x : Nat × Saved) => (x.1, { x.2 with clu := clear x.2.clu }),
           outer := { s.outer with ports := mset s.outer.ports e { p with tdi := .error } } }

/-- Every TDI that is locked or running and whose binding a change breaks moves to ERROR. -/
def State.tdiCheck (s : State) (broken : Port → Bool) : State :=
  [0, 1].foldl (fun (a : State) e =>
    let p := a.port e
    if (p.tdi = .locked ∨ p.tdi = .run) ∧ broken p = true then a.tdiError e else a) s

/-! ## Registers with behaviour of their own -/

/-- Does a scheduler dispatch (R53)? -/
def Sched.dispatches (q : Sched) : Bool := (q.en0 && !q.standby0) || (q.en1 && !q.standby1)

/-- A write of QSCH_CTL of Encke e (R53): EN = 1 is ignored while the other reads EN = 1, and clears STANDBY. -/
def State.qschCtl (s : State) (e : Nat) (v : Nat) : State :=
  let q := s.sched
  let on := nbit v 0
  if e = 0 then
    if on && q.en1 then s
    else { s with sched := { q with en0 := on, standby0 := if on then false else q.standby0 } }
  else if on && q.en0 then s
  else { s with sched := { q with en1 := on, standby1 := if on then false else q.standby1 } }

/-- QSCH_CTL_WRITE (R53). -/
def execQschCtlWrite (e v : Nat) (s : State) : Host.Outcome State Fault Refusal := .next (s.qschCtl e v)

/-- A write of QS_CTL (R61, R428): ignored while launches of the slot are placed; a write that maps, remaps or unmaps clears the
slot's accounting and ends a marking. One that repeats MAP and QNUM does none of the three, and changes nothing (log entry 35). -/
def State.qsCtl (s : State) (n v : Nat) : State :=
  let x := s.slot n
  let map := nbit v 63
  let qn := v % 4096
  if x.nplaced ≠ 0 ∨ (x.map = map ∧ x.qnum = qn) then s
  else
    let s1 := if x.state = 3 then s.setDflag x.qnum 2 false else s
    let y : QSlot := { x with map := map, qnum := qn, tspent := 0, espent := 0, tovr := false, eovr := false, bv := false,
                              borrow := 0, state := 0, waitFrom := none }
    ((s1.setSlot n y).tdiCheck fun p => p.bnd.any fun b => b.1 == n).noteHead n

/-- QS_CTL_WRITE (R61). -/
def execQsCtlWrite (_e slot v : Nat) (s : State) : Host.Outcome State Fault Refusal := .next (s.qsCtl (slot % 64) v)

/-- A write of QSCH_EVHEAD (R62): waiting events enter the ring. -/
def State.evHead (s : State) (v : Nat) : State :=
  let s1 := { s with sched := { s.sched with evhead := v % 256 } }
  s1.drainEvents s1.sched.evbuf.length

/-- QSCH_EVHEAD_WRITE (R62). -/
def execQschEvheadWrite (_e v : Nat) (s : State) : Host.Outcome State Fault Refusal := .next (s.evHead v)

/-! ## Periods, budgets, marking -/

/-- The least deadline above GTIME that is whole periods on (R63). -/
def nextDeadline (d period t : Nat) : Nat := if t < d then d else (d + ((t - d) / period + 1) * period) % 2 ^ 64

/-- A budget is exceeded for the first time in a period (R63): kind 0 time, 1 energy. The event names the slot's owner, also while the
slot serves a borrower (log entry 35). -/
def State.overrun (s : State) (n kind : Nat) : State :=
  let x := s.slot n
  if x.period = 0 then s
  else if kind = 0 then
    (if x.tbud ≠ 0 ∧ x.tbud < x.tspent ∧ x.tovr = false then (s.setSlot n { x with tovr := true }).post 1 n x.qnum 0 else s)
  else if x.ebud ≠ 0 ∧ x.ebud < x.espent ∧ x.eovr = false then (s.setSlot n { x with eovr := true }).post 1 n x.qnum 1
  else s

/-- OVERRUN (R63). -/
def execOverrun (slot kind : Nat) (s : State) : Host.Outcome State Fault Refusal := .next (s.overrun slot kind)

/-- Does a chosen head that waited still wait: at the head of the queue that its slot serves? -/
def State.stallLives (s : State) (x : Stalled) : Bool := (s.slot x.slot).serving == x.queue && (s.queue x.queue).head == x.head

/-- Has a head waited for a whole number of stall periods more (R65)? -/
def State.stallDue (s : State) (x : Stalled) : Bool := decide (x.since + s.sched.stallp ≤ s.gtime)

/-- Posts DISPSTALL for the heads that are due, each of which then waits for the next period (R65). -/
def State.postStalls : List Stalled → State → State
  | [], s => s
  | x :: xs, s => State.postStalls xs (if s.stallDue x then s.post 10 x.slot x.queue x.why else s)

/-- The stalls of a cycle: heads that no longer wait are forgotten, and those that are due post their event (R65). -/
def State.dispstall (s : State) : State :=
  if !s.sched.dispatches || s.sched.held then s
  else
    let xs := s.sched.stalls.filter s.stallLives
    let ys := xs.map fun x => if s.stallDue x then { x with since := x.since + s.sched.stallp } else x
    State.postStalls xs { s with sched := { s.sched with stalls := ys } }

/-- DISPSTALL (R65): a chosen head has waited QSCH_STALLP cycles, or as many again. -/
def execDispstall (s : State) : Host.Outcome State Fault Refusal := .next s.dispstall

end Sys2Proof.Machine
end

