-- ==== Sys2Proof/Machine/Token.lean ====
section
/-! DEFINITION. Token queues (R282 to R293): descriptors, the queue unit's state and its rules, the TQ instructions, and
counted decrements. -/

namespace Sys2Proof.Machine

/-! ## The queue unit's state (R285) -/

/-- LIVE: producers not dropped. -/
def Tq.liveNow (q : Tq) : Nat := (q.prod.filter fun p => !p.dropped).length
/-- NSLOT. -/
def Tq.nslot (q : Tq) : Nat := q.slots.length
/-- The slot that holds a sequence. -/
def Tq.slotOf (q : Tq) (n : Nat) : Option TqSlot := q.slots.find? fun x => x.seq == n
/-- Changes the slot that holds a sequence. -/
def Tq.mapSlot (q : Tq) (n : Nat) (f : TqSlot → TqSlot) : Tq :=
  { q with slots := q.slots.map fun x => if x.seq = n then f x else x }
/-- A closed slot (R285). -/
def TqSlot.closed (x : TqSlot) : Bool := x.exps == 0 && x.arr == 0 && !x.token

/-- A FREE slot becomes TOKEN when its arrivals and its bytes are complete (R285). -/
def TqSlot.complete (x : TqSlot) : TqSlot :=
  if !x.token && x.arr == x.exps && decide (0 < x.arr + x.exps) && (x.pend == 0 || x.err) then { x with token := true } else x

/-- Completion checks. -/
def Tq.check (q : Tq) : Tq := { q with slots := q.slots.map TqSlot.complete }

/-- What a home knows of itself: launch, core, vcluster (R287). -/
structure Home where
  lid : Nat
  core : Nat
  vcl : Nat
deriving DecidableEq, Repr

/-- A PERMIT or TOKEN payload (R287). -/
def tqPayload (seq off : Nat) (h : Home) (status : Nat) : Nat :=
  seq % 2 ^ 32 + off % 2 ^ 15 * 2 ^ 32 + h.core % 16 * 2 ^ 48 + h.vcl % 2 ^ 12 * 2 ^ 52 + status % 16 * 2 ^ 64

/-- The message for a sequence. -/
def Tq.msg (q : Tq) (h : Home) (kind tid seq status : Nat) : NetMsg :=
  unitMsg h.lid tid kind q.tag (h.vcl * 16 + h.core) (tqPayload seq (q.data + seq % (max 1 q.nslot) * q.ssize) h status) ones64

/-- Posts a producer's permits in ascending order. -/
def Tq.permits (q : Tq) (h : Home) : Nat → TqParty → TqParty × List NetMsg
  | 0, p => (p, [])
  | n + 1, p =>
    if p.req ≤ p.posted ∨ p.dropped then (p, [])
    else match q.slotOf p.posted with
      | some x =>
        if x.token then (p, [])
        else
          let r := Tq.permits q h n { p with posted := p.posted + 1 }
          (r.1, q.msg h 3 p.tid p.posted 0 :: r.2)
      | none => (p, [])

/-- Posts a consumer's tokens in ascending order; a closed sequence is answered, and its request cursor returns to it (R287). -/
def Tq.tokens (q : Tq) (h : Home) : Nat → TqParty → TqParty × List NetMsg
  | 0, p => (p, [])
  | n + 1, p =>
    if p.req ≤ p.posted then (p, [])
    else match q.slotOf p.posted with
      | some x =>
        if x.token then
          let r := Tq.tokens q h n { p with posted := p.posted + 1 }
          (r.1, q.msg h 2 p.tid p.posted (if x.err then 1 else 0) :: r.2)
        else if x.closed then ({ p with req := p.posted }, [q.msg h 2 p.tid p.posted 2])
        else (p, [])
      | none => (p, [])

/-- Completion checks, then the postings (R291). -/
def Tq.settle (q : Tq) (h : Home) : Tq × List NetMsg :=
  let q1 := q.check
  let ps := q1.prod.map (q1.permits h 64)
  let cs := q1.cons.map (q1.tokens h 64)
  ({ q1 with prod := ps.map (·.1), cons := cs.map (·.1) }, (ps.map (·.2)).flatten ++ (cs.map (·.2)).flatten)

/-- A slot that every consumer has retired reopens (R285). -/
def Tq.reopen (q : Tq) : Tq :=
  let live := q.liveNow
  { q with slots := q.slots.map fun x =>
      if x.token && decide (q.cons.length ≤ x.retired.length) then
        { seq := x.seq + q.nslot, arr := 0, exps := live, pend := 0, err := false, token := false, retired := [] }
      else x }

/-- An active queue from its descriptor (R285). -/
def openTq (off : Nat) (d : List Byte) : Tq :=
  let nslot := fieldAt d 8 1
  let np := fieldAt d 9 1
  let nc := fieldAt d 0xA 1
  let init := fieldAt d 0xC 1
  let tids (o n : Nat) : List Nat := (List.range n).map fun i => fieldAt d (o + 4 * i) 4
  let party (at0 : Nat) (t : Nat) : TqParty := { tid := t, req := at0, acq := at0, posted := at0, dropped := false }
  { off := off, data := fieldAt d 0 2, ssize := fieldAt d 4 4, tag := fieldAt d 0xD 1, level := fieldAt d 0xB 1, live := np, init := init,
    slots := (List.range nslot).map fun i =>
      { seq := i, arr := 0, exps := np, pend := 0, err := false, token := decide (i < init), retired := [] },
    prod := (tids 0x40 np).map (party init), cons := (tids 0x80 nc).map (party 0) }

/-- Does a descriptor keep the rules of R282 and R283, at an offset of a home of a launch? `member` says which tids its domain
holds. -/
def descOk (d : List Byte) (off lmem : Nat) (member : Nat → Bool) : Bool :=
  let data := fieldAt d 0 2
  let ssize := fieldAt d 4 4
  let nslot := fieldAt d 8 1
  let np := fieldAt d 9 1
  let nc := fieldAt d 0xA 1
  let area := nslot * ssize
  let names (o n : Nat) : List Nat := (List.range n).map fun i => fieldAt d (o + 4 * i) 4
  let all := names 0x40 np ++ names 0x80 nc
  data % 16 == 0 && decide (16 ≤ ssize) && decide (ssize ≤ 32768) && ssize % 16 == 0 && decide (1 ≤ nslot) && decide (nslot ≤ 64) &&
    decide (1 ≤ np) && decide (np ≤ 16) && decide (1 ≤ nc) && decide (nc ≤ 16) && decide (fieldAt d 0xB 1 ≤ 4) &&
    decide (fieldAt d 0xC 1 ≤ nslot) && zeroAt d 2 2 && zeroAt d 0xE 50 && zeroAt d 0xC0 64 &&
    zeroAt d (0x40 + 4 * np) (64 - 4 * np) && zeroAt d (0x80 + 4 * nc) (64 - 4 * nc) &&
    all.all (fun t => decide (t < 2 ^ 18) && member t) &&
    (names 0x40 np).length == (names 0x40 np).eraseDups.length && (names 0x80 nc).length == (names 0x80 nc).eraseDups.length &&
    decide (off + 256 ≤ lmem) && decide (data + area ≤ lmem) && (decide (data + area ≤ off) || decide (off + 256 ≤ data))

/-- The threads of a launch that belong to a home's domain at a level (R27, R283). -/
def State.homeMember (s : State) (lid vcl core level t : Nat) : Bool :=
  let l := s.launch lid
  decide (t / 64 < l.ncl) && decide (t % 4 < l.ectx) &&
    s.memberOf lid ((s.vclu lid vcl).resolve level) (vcl * 64 + core * 4) t

/-- The queue of a core at an offset. -/
def Core.tqAt (k : Core) (off : Nat) : Option Tq := k.tq.find? fun q => q.off == off
/-- Sets a queue of a core. -/
def Core.setTq (k : Core) (q : Tq) : Core := { k with tq := k.tq.map fun x => if x.off = q.off then q else x }

/-- The home that a core is. -/
def State.homeOf (s : State) (core : Nat) : Home :=
  let k := s.clu (core / 16)
  { lid := k.launch.getD 0, core := core % 16, vcl := k.vcl }

/-- Puts a changed queue back, settled, and posts what follows. -/
def State.putTq (s : State) (core : Nat) (q : Tq) : State :=
  let r := q.settle (s.homeOf core)
  let s1 := s.setCore core ((s.core core).setTq r.1)
  { s1 with net := s1.net ++ r.2 }

/-- QINIT's activation at a home core: the status, and the queue (R283). -/
def State.activate (s : State) (core off : Nat) : State × Nat :=
  let k := s.core core
  let d := s.bytesAt (.slice core off) 256
  let h := s.homeOf core
  let lmem := s.lmemBytes (core / 16)
  if 64 ≤ k.tq.length then (s, 1)
  else if !descOk d off lmem (s.homeMember h.lid h.vcl h.core (fieldAt d 0xB 1)) then (s, 2)
  else if (k.tqAt off).isSome then (s, 3)
  else (s.setCore core { k with tq := k.tq ++ [openTq off d] }, 0)

/-! ## The instructions (R286) -/

/-- The queue unit that a handle names (R282, R286): the home core and the offset; `none` where it names no local memory. -/
def State.handle (s : State) (va : Word) : Except Stop (Option (Nat × Nat)) :=
  let v := va.toNat
  if 2 ^ 56 ≤ v ∨ v % 64 ≠ 0 ∨ isAlias v = true ∨ isMesh v = true then
    match s.access (s.who s.cur) va 64 64 { r := true, w := true } with
    | .error e => .error (e.stop 5 va)
    | .ok (.slice c o) => .ok (some (c, o))
    | .ok _ => .ok none
  else .ok none

/-- Answers a failed operation that does not block (R287). -/
def State.answer (s : State) (kind : Nat) (home : Option (Nat × Nat)) (q : Option Tq) (status : Nat) : State :=
  let t := s.t
  let h : Home := match home with | some (c, _) => s.homeOf c | none => { lid := t.lid, core := 0, vcl := 0 }
  let tag := match q with | some q => q.tag | none => 0
  let off := match q with | some q => q.data | none => 0
  s.launchMsg (unitMsg t.lid t.tid kind tag (h.vcl * 16 + h.core) (tqPayload 0 off h status) ones64)

/-- What a named thread's operation does to a queue: the status of its failure, or the changed queue. -/
abbrev TqOp := Tq → Nat → Except Nat Tq

/-- Changes a producer. -/
def Tq.setProd (q : Tq) (i : Nat) (p : TqParty) : Tq := { q with prod := q.prod.set i p }
/-- Changes a consumer. -/
def Tq.setCons (q : Tq) (i : Nat) (p : TqParty) : Tq := { q with cons := q.cons.set i p }

/-- A producer by its tid: NOTNAMED or DROPPED where it may not act (R286). -/
def Tq.producer (q : Tq) (tid : Nat) : Except Nat (Nat × TqParty) :=
  match q.prod.findIdx? (fun p => p.tid == tid) with
  | none => .error 4
  | some i =>
    match q.prod[i]? with
    | some p => if p.dropped then .error 7 else .ok (i, p)
    | none => .error 4

/-- A consumer by its tid. -/
def Tq.consumer (q : Tq) (tid : Nat) : Except Nat (Nat × TqParty) :=
  match q.cons.findIdx? (fun p => p.tid == tid) with
  | none => .error 4
  | some i => match q.cons[i]? with | some p => .ok (i, p) | none => .error 4

/-- QPROD. -/
def tqProd : TqOp := fun q tid =>
  match q.producer tid with
  | .error e => .error e
  | .ok (i, p) => if q.nslot < p.req + 1 - p.acq then .error 5 else .ok (q.setProd i { p with req := p.req + 1 })

/-- QARRIVE. -/
def tqArrive : TqOp := fun q tid =>
  match q.producer tid with
  | .error e => .error e
  | .ok (i, p) =>
    if p.acq < p.req ∧ p.acq < p.posted then
      .ok ((q.mapSlot p.acq fun x => { x with arr := x.arr + 1 }).setProd i { p with acq := p.acq + 1 })
    else .error 6

/-- QCONS. -/
def tqCons : TqOp := fun q tid =>
  match q.consumer tid with
  | .error e => .error e
  | .ok (i, p) => .ok (q.setCons i { p with req := p.req + 1 })

/-- QRETIRE. -/
def tqRetire : TqOp := fun q tid =>
  match q.consumer tid with
  | .error e => .error e
  | .ok (i, p) =>
    if p.acq < p.req ∧ p.acq < p.posted then
      .ok ((q.mapSlot p.acq fun x => { x with retired := x.retired ++ [i] }).setCons i { p with acq := p.acq + 1 }).reopen
    else .error 6

/-- QDROP (R290): an arrival on every permit held, one arrival less expected on every other sequence from the arrival cursor on
that a slot holds. -/
def tqDrop : TqOp := fun q tid =>
  match q.producer tid with
  | .error e => .error e
  | .ok (i, p) =>
    let f (x : TqSlot) : TqSlot :=
      if x.seq < p.acq ∨ x.token then x
      else if x.seq < p.posted then { x with arr := x.arr + 1 }
      else { x with exps := x.exps - 1 }
    .ok ({ q with slots := q.slots.map f, live := q.live - 1 }.setProd i { p with dropped := true, req := p.posted, acq := p.posted })

/-- An operation that does not block (R286): `kind` is the answer's kind, `rel` says that it is a release. -/
def tqOp (kind : Nat) (rel : Bool) (op : TqOp) (f : Fld) (s : State) : Host.Outcome State Fault Refusal :=
  issue { irrev := true, names := [f.a] } f s fun s => s.afterRelease rel fun s =>
    orStop (s.handle (s.W f.a)) fun h =>
      match h with
      | none => .ok (s.answer kind none none 3).advance
      | some (c, o) =>
        match (s.core c).tqAt o with
        | none => .ok (s.answer kind h none 3).advance
        | some q =>
          match op q s.t.tid with
          | .error e => .ok (s.answer kind h (some q) e).advance
          | .ok q1 => .ok (s.putTq c q1).advance

/-- QPROD (R286). -/
def execQprod (f : Fld) (s : State) : Host.Outcome State Fault Refusal := tqOp 3 false tqProd f s
/-- QARRIVE (R286). -/
def execQarrive (f : Fld) (s : State) : Host.Outcome State Fault Refusal := tqOp 3 true tqArrive f s
/-- QCONS (R286). -/
def execQcons (f : Fld) (s : State) : Host.Outcome State Fault Refusal := tqOp 2 false tqCons f s
/-- QRETIRE (R286). -/
def execQretire (f : Fld) (s : State) : Host.Outcome State Fault Refusal := tqOp 2 true tqRetire f s
/-- QDROP (R286, R290). -/
def execQdrop (f : Fld) (s : State) : Host.Outcome State Fault Refusal := tqOp 3 true tqDrop f s

/-- The answers to the requests that wait at a queue when it is deactivated: BADQ for each (R283, R287). -/
def Tq.turnedAway (q : Tq) (h : Home) : List NetMsg :=
  let msg (kind tid : Nat) : NetMsg := unitMsg h.lid tid kind 0 (h.vcl * 16 + h.core) (tqPayload 0 0 h 3) ones64
  (q.prod.map fun p => List.replicate (if p.dropped then 0 else p.req - p.posted) (msg 3 p.tid)).flatten ++
    (q.cons.map fun p => List.replicate (p.req - p.posted) (msg 2 p.tid)).flatten

/-- QINIT's deactivation at a home core: the status (R283). -/
def State.deactivate (s : State) (core off : Nat) : State × Nat :=
  let k := s.core core
  match k.tqAt off with
  | none => (s, 3)
  | some q =>
    let s1 := s.setCore core { k with tq := k.tq.filter fun x => x.off != off }
    ({ s1 with net := s1.net ++ q.turnedAway (s.homeOf core) }, 0)

/-- QINIT (R283). -/
def execQinit (f : Fld) (s : State) : Host.Outcome State Fault Refusal :=
  issue { irrev := true, names := [f.a, f.b] } f s fun s =>
    orStop (s.handle (s.W f.a)) fun h =>
      let done (s : State) (st : Nat) : Res := .ok (s.setW f.b (BitVec.ofNat 64 st)).advance
      match h with
      | none => done s 4
      | some (c, o) =>
        if c ≠ coreId s.cur then done s 4
        else if 1 < (s.W f.b).toNat then done s 2
        else let r := if s.W f.b = 0 then s.activate c o else s.deactivate c o; done r.1 r.2

/-- QEXPECT's effect on a queue (R289): the queue and the word of W[b], or TXOVF as `none`. -/
def Tq.expect (q : Tq) (tid : Nat) (n : Word) : Option (Tq × Word) :=
  let fail (st : Nat) : Option (Tq × Word) := some (q, BitVec.ofNat 64 (st * 2 ^ 56))
  match q.producer tid with
  | .error e => fail e
  | .ok (_, p) =>
    if p.acq = p.req ∨ p.posted ≤ p.acq then fail 6
    else match q.slotOf p.acq with
      | none => fail 6
      | some x =>
        let v : Int := x.pend + (n.toNat : Int)
        if 2 ^ 28 - 1 < n.toNat ∨ (2 ^ 28 - 1 : Int) < v then none
        else some (q.mapSlot p.acq fun x => { x with pend := v }, BitVec.ofNat 64 (wrapN v 29))

/-- QEXPECT (R289). -/
def execQexpect (f : Fld) (s : State) : Host.Outcome State Fault Refusal :=
  issue { irrev := true, names := [f.a, f.b] } f s fun s =>
    orStop (s.handle (s.W f.a)) fun h =>
      let bad : Res := .ok (s.setW f.b (BitVec.ofNat 64 (3 * 2 ^ 56))).advance
      match h with
      | none => bad
      | some (c, o) =>
        match (s.core c).tqAt o with
        | none => bad
        | some q =>
          match q.expect s.t.tid (s.W f.b) with
          | none => .stop (.trap cTXOVF 0 0 0 (s.W f.a)) none
          | some (q1, w) => .ok ((s.putTq c q1).setW f.b w).advance

/-- The least of numbers. -/
def minList : List Nat → Nat
  | [] => 0
  | x :: xs => xs.foldl min x

/-- The word of QSTAT for a thread (R287). -/
def Tq.stat (q : Tq) (tid : Nat) : Nat :=
  let live := q.liveNow
  let pp := match q.prod.find? (fun p => p.tid == tid) with | some p => (p.posted - p.acq, p.req - p.posted) | none => (0, 0)
  let cc := match q.cons.find? (fun p => p.tid == tid) with | some p => (p.posted - p.acq, p.req - p.posted) | none => (0, 0)
  cc.2 % 256 + cc.1 % 256 * 2 ^ 8 + pp.2 % 256 * 2 ^ 16 + pp.1 % 256 * 2 ^ 24 + minList (q.slots.map (·.seq)) % 2 ^ 16 * 2 ^ 32 +
    (q.slots.filter (·.token)).length % 256 * 2 ^ 48 + live % 32 * 2 ^ 56 + b2n (live == 0) * 2 ^ 62 + 2 ^ 63

/-- QSTAT (R286, R287). -/
def execQstat (f : Fld) (s : State) : Host.Outcome State Fault Refusal :=
  issue { irrev := true, names := [f.a, f.b] } f s fun s =>
    orStop (s.handle (s.W f.a)) fun h =>
      let w := match h with
        | none => 0
        | some (c, o) => match (s.core c).tqAt o with | some q => q.stat s.t.tid | none => 0
      .ok (s.setW f.b (BitVec.ofNat 64 w)).advance

/-! ## Counted writes (R288) -/

/-- A decrement at a slot: PEND falls, to -2^28 at the least. -/
def TqSlot.dec (x : TqSlot) (bytes : Nat) (err : Bool) : TqSlot :=
  let v : Int := x.pend - (bytes : Int)
  if v < -(2 ^ 28 : Int) then { x with pend := -(2 ^ 28 : Int), err := true } else { x with pend := v, err := x.err || err }

/-- A discarded decrement gives its command the status QUEUE. -/
def State.decLost (s : State) (d : CDec) : State :=
  match (s.vclu d.lid d.cvcl).cmd d.slot with
  | some k => s.onVclu d.lid d.cvcl fun x => x.setCmd (if k.status = 0 then { k with status := 9 } else k)
  | none => s

/-- COUNTED_DECREMENT (R288): the decrement at place n of those under way reaches its queue unit. -/
def execCountedDecrement (n : Nat) (s : State) : Host.Outcome State Fault Refusal :=
  .next (match s.decs[n]? with
    | none => s
    | some d =>
      let s1 := { s with decs := s.decs.eraseIdx n }
      match mfind (s.launch d.lid).pcls d.vcl with
      | none => if s.isSaved d.lid d.vcl then s else s1.decLost d
      | some p =>
        let c := p * 16 + d.core
        match (s.core c).tqAt d.off with
        | none => s1.decLost d
        | some q =>
          match q.slots.find? (fun x => x.seq % 2 ^ 32 == d.qseq && !x.token) with
          | none => s1.decLost d
          | some x => s1.putTq c (q.mapSlot x.seq fun y => y.dec d.bytes d.err))

end Sys2Proof.Machine
end

