-- ==== Sys2Proof/Machine/Place.lean ====
section
/-! DEFINITION. Placement and retirement (R65, R68 to R70, R284, R373, R420, R421): the checks of a record, the choice of
clusters, a launch's start and its end. -/

namespace Sys2Proof.Machine

/-! ## Choosing clusters (R68) -/

/-- Clusters that the configuration image has not mapped out, of a die. -/
def State.dieAll (s : State) (d : Nat) : List Nat := ((List.range 512).map (d * 512 + ·)).filter fun p => !s.mapped.contains p
/-- Free clusters of a die. -/
def State.dieFree (s : State) (d : Nat) : List Nat := (s.dieAll d).filter fun p => (s.clu p).launch.isNone

/-- Puts a die into its place: descending free clusters, the lower die first. -/
def dieOrder : List (Nat × List Nat) → Nat × List Nat → List (Nat × List Nat)
  | [], d => [d]
  | x :: xs, d => if x.2.length < d.2.length then d :: x :: xs else x :: dieOrder xs d

/-- Ascending order. -/
def ascending (l : List Nat) : List Nat :=
  l.foldl (fun acc x => (acc.takeWhile fun y => decide (y < x)) ++ x :: acc.dropWhile fun y => decide (y < x)) []

/-- The clusters of a rectangle, row-major; its origin is a die, a row and a column (R9). -/
def rectAt (rows cols d r c : Nat) : List Nat :=
  ((List.range rows).map fun i => (List.range cols).map fun j => d * 512 + (r + i) * 32 + c + j).flatten

/-- The rectangle with the least origin whose clusters all pass a test. -/
def firstRect (rows cols : Nat) (ok : Nat → Bool) : Option (List Nat) :=
  let origins := ((List.range 8).map fun d => ((List.range (17 - rows)).map fun r =>
    (List.range (33 - cols)).map fun c => (d, r, c)).flatten).flatten
  (origins.find? fun o => (rectAt rows cols o.1 o.2.1 o.2.2).all ok).map fun o => rectAt rows cols o.1 o.2.1 o.2.2

/-- Are the fields of a RECT in range (R68)? -/
def Obj.rectOk (o : Obj) : Bool := decide (1 ≤ o.rows) && decide (o.rows ≤ 16) && decide (1 ≤ o.cols) && decide (o.cols ≤ 32)

/-- Can the shape ever hold NCL clusters (R68)? -/
def State.shapeOk (s : State) (o : Obj) (ncl : Nat) : Bool :=
  match o.shape with
  | 0 => decide (ncl ≤ ((List.range 8).map fun d => (s.dieAll d).length).foldl (· + ·) 0)
  | 1 => (List.range 8).any fun d => decide (ncl ≤ (s.dieAll d).length)
  | _ => o.rectOk && o.rows * o.cols == ncl && (firstRect o.rows o.cols fun p => !s.mapped.contains p).isSome

/-- The clusters chosen for a launch in vcluster order (R68). -/
def State.choose (s : State) (o : Obj) (ncl : Nat) : Option (List Nat) :=
  match o.shape with
  | 0 =>
    let dies := ((List.range 8).map fun d => (d, s.dieFree d)).foldl dieOrder []
    let all := (dies.map (·.2)).flatten
    if all.length < ncl then none else some (ascending (all.take ncl))
  | 1 => ((List.range 8).find? fun d => decide (ncl ≤ (s.dieFree d).length)).map fun d => (s.dieFree d).take ncl
  | _ => firstRect o.rows o.cols fun p => !s.mapped.contains p && (s.clu p).launch.isNone

/-! ## Placing (R69) -/

/-- The vcluster table of a launch (R70). -/
def vctOf (pcls : List Nat) : SMap (BitVec 16) :=
  ((List.range pcls.length).zip pcls).map fun p => (p.1, BitVec.ofNat 16 (2 ^ 15 + p.2))

/-- A placed cluster: what it keeps is its meter, its L1, its key slots and its issue pointers. -/
def Cluster.placed (k : Cluster) (lid v : Nat) (o : Obj) (tab : SMap (BitVec 16)) (cstep : Nat) : Cluster :=
  { launch := some lid, vcl := v, lmem := o.lmem, meter := k.meter, cstep := cstep, l1 := [], vct := tab,
    slots := (o.slots.filter fun x => x.1 == v && decide (x.2.dstv < tab.length)).map (·.2), log2f := o.log2f, plast := k.plast, keys := k.keys,
    weights := o.weights }

/-- A thread as placement fills it (R39, R69). -/
def newThread (lid tid : Nat) (entry : Word) (args : List Word) (asid : Nat) (kvec ktext : Word) : Thread :=
  { st := .resident, lid := lid, tid := tid, pc := entry, win := { ring := msetRun [] 0 args },
    sys := { asid := BitVec.ofNat 64 asid, kvec := kvec, ktext := ktext } }

/-- Fills a core with its threads and its local image; its queue unit and paths are those of an idle core. -/
def State.fillCore (s : State) (l : Launch) (lid v p k : Nat) (o : Obj) (kvec : Word) : State :=
  let c := s.core (p * 16 + k)
  let s1 := s.setCore (p * 16 + k) { ptr := c.ptr, vptr := c.vptr, issued := c.issued, vissued := c.vissued, nsq := c.nsq, cring := c.cring }
  let s2 := (List.range 4).foldl (fun (a : State) x =>
    a.setThread (ctxId p k x)
      (if x < l.ectx then newThread lid (v * 64 + k * 4 + x) l.entry l.args l.asid kvec o.text else {})) s1
  if o.localImg.isEmpty then s2 else s2.writeAt (.slice (p * 16 + k) 0) o.localImg

/-- Places a launch on clusters: tables, images, threads, weights, the domains of levels 0, 1 and 4. -/
def State.placeOn (s : State) (lid : Nat) (l : Launch) (o : Obj) (pcls : List Nat) : State :=
  let kvec := s.asKvec l.asid
  let tab := vctOf pcls
  let s1 := s.setLaunch lid { l with pcls := (List.range pcls.length).zip pcls }
  let s2 := ((List.range pcls.length).zip pcls).foldl (fun (a : State) x =>
    let b := a.setClu x.2 ((a.clu x.2).placed lid x.1 o tab a.egov.cstep)
    (List.range 16).foldl (fun (c : State) k => c.fillCore l lid x.1 x.2 k o kvec) b) s1
  s2.formFixed lid

/-- The initial data of a QUEUE record: where IOFF lies outside DATA, none. The scheduler reads it at placement only; bytes that DRAM
cannot give are zeros (log entry 30). -/
def State.declData (s : State) (w : Who) (o : Obj) (ioff n : Nat) (read : Bool) : Option (State × List Byte) :=
  if ioff = 2 ^ 64 - 1 then some (s, List.replicate n 0)
  else if o.dataSize < ioff + n then none
  else if !read then some (s, List.replicate n 0)
  else match s.engRead { code := 0 } w 0 (o.data + BitVec.ofNat 64 ioff) n with
    | (s1, .ok bs) => some (s1, bs)
    | (s1, .error _) => some (s1, List.replicate n 0)

/-- Must the scheduler wait before it can read an object's DATA (R260)? -/
def State.dataWaits (s : State) (o : Obj) (asid : Nat) : Bool :=
  let w : Who := { core := 0, pcl := 0, asid := asid, priv := true, handler := false, steward := false }
  o.queues.any fun b =>
    let ioff := fieldAt b 8 8
    let n := fieldAt b 0x2C 1 * fieldAt b 0x24 4
    ioff != 2 ^ 64 - 1 && (match (s.engRead { code := 0 } w 0 (o.data + BitVec.ofNat 64 ioff) n).2 with | .error .wait => true | _ => false)

/-- Applies a QUEUE record (R284), reading its data where it is to be placed: `none` where QINIT would not answer OK. -/
def State.declQueue (s : State) (lid : Nat) (l : Launch) (o : Obj) (read : Bool) (b : List Byte) : Option State :=
  let v := fieldAt b 0 2 % 4096
  let off := fieldAt b 4 2
  let ioff := fieldAt b 8 8
  let d := b.drop 0x20
  let n := fieldAt d 0xC 1 * fieldAt d 4 4
  match mfind (s.launch lid).pcls v with
  | none => none
  | some p =>
    let k := p * 16 + fieldAt b 2 1 % 16
    let w : Who := { core := k, pcl := p, asid := l.asid, priv := true, handler := false, steward := false }
    match s.declData w o ioff n read with
    | none => none
    | some (s, bs) =>
      if off % 64 ≠ 0 ∨ s.lmemBytes p < off + 256 then none
      else
        let r := (s.writeAt (.slice k off) d).activate k off
        if r.2 ≠ 0 then none else some (r.1.writeAt (.slice k (fieldAt d 0 2)) bs)

/-- Applies a DOMAIN record (R373). -/
def State.declDom (s : State) (lid : Nat) (d : Nat × List Word) : Option State :=
  let m := ((List.range 64).zip d.2).filter fun p => p.2 != 0
  if s.formStatus lid d.1 m = 0 then some (s.formDom lid d.1 m) else none

/-- Applies the declarations of an object in section order; the domains of levels 2 and 3 after the queues (log entry 30). -/
def State.declare (s : State) (lid : Nat) (l : Launch) (o : Obj) (read : Bool) : Option State :=
  let s1 := o.queues.foldl (fun (a : Option State) b => a.bind fun x => x.declQueue lid l o read b) (some s)
  o.domains.foldl (fun (a : Option State) d => a.bind fun x => x.declDom lid d) s1

/-- Can the declarations be applied to a launch of this size (reason 9 of R58)? They are tried on clusters that do not exist. -/
def State.declOk (s : State) (lid : Nat) (l : Launch) (o : Obj) : Bool :=
  ((s.placeOn lid l o ((List.range l.ncl).map (· + 8192))).declare lid l o false).isSome

/-! ## The dispatch decision (R65) -/

/-- A loaded object by its address and address space. -/
def State.objAt (s : State) (asid : Nat) (va : Word) : Option Nat := s.objects.findIdx? fun o => o.asid == asid && o.addr == va

/-- The launch that a record asks for. -/
def mkLaunch (n q pa asid obj : Nat) (r : LRec) (o : Obj) (claim : Nat) : Launch :=
  let e := o.entries.getD r.entry (0, 0, 0)
  { active := true, queue := q, slot := n, recPa := pa, obj := obj, entry := o.text + BitVec.ofNat 64 e.1, asid := asid,
    ncl := r.ncl, ectx := e.2.2, args := r.args, save := r.save, charge := claim, signal := r.signal, sigsem := r.sigsem }

/-- The first check of R58 that a head record fails; 0 for none. -/
def State.checkRec (s : State) (lid n q : Nat) : Nat :=
  let x := s.queue q
  let r := s.headRec q
  if r.flags / 8 ≠ 0 ∨ r.status ≠ 0 then 1
  else match (if s.asRoot x.asid = 0 then none else s.objAt x.asid r.obj) with
    | none => 2
    | some i =>
      match s.objects[i]? with
      | none => 2
      | some o =>
        if o.entries.length ≤ r.entry then 3
        else if r.ncl < o.clmin ∨ (o.clmax < r.ncl ∧ o.clmax ≠ 0) ∨ 4096 < r.ncl then 4
        else if !s.shapeOk o r.ncl then 5
        else if r.save = 0 ∨ r.save.toNat % 4096 ≠ 0 then 6
        else if (r.wait && (s.semAt x.asid r.waitsem false).isNone) || (r.signal && (s.semAt x.asid r.sigsem true).isNone) then 8
        else if !s.declOk lid (mkLaunch n q 0 x.asid i r o 0) o then 9
        else 0

/-- The member with the least effective deadline, the lowest slot on a tie. -/
def leastSlot (s : State) : List Nat → Option Nat
  | [] => none
  | n :: ns => match leastSlot s ns with
    | none => some n
    | some m => if (s.slot n).effDeadline ≤ (s.slot m).effDeadline then some n else some m

/-- The slots that may dispatch (R65). -/
def State.candidates (s : State) : List Nat :=
  slotNos.filter fun n =>
    let x := s.slot n
    s.slotMaps n && !x.tovr && !x.eovr && s.headReady n x.serving && s.mayTake x.serving

/-- A decision stops at a head for want of credit (0) or clusters (1); its wait counts from the first time. -/
def State.stallAt (s : State) (n q why : Nat) : State :=
  let h := (s.queue q).head
  let here (x : Stalled) : Bool := x.slot == n && x.queue == q && x.head == h
  let xs := s.sched.stalls
  let ys := if xs.any here then xs.map fun x => if here x then { x with why := why } else x
    else xs ++ [{ slot := n, queue := q, head := h, since := s.gtime, why := why }]
  { s with sched := { s.sched with stalls := ys } }

/-- Decides again in this cycle. -/
def State.again (s : State) : State := { s with agenda := .ev .dispatchDecision :: s.agenda }

/-- Places the head of a slot's serving queue on the chosen clusters (R65, R69). -/
def State.dispatch (s : State) (n q lid i : Nat) (o : Obj) (pcls : List Nat) : State :=
  let x := s.queue q
  let pa := x.recAt x.head
  let r := s.lrec pa
  let claim := s.sched.eclaim * r.ncl
  let l := { mkLaunch n q pa x.asid i r o claim with ready := s.gtime + Config.readyDelay s.fresh }
  let l1 := { l with start := some ((l.ready + 1024 + 1023) / 1024 * 1024) }
  let s1 := { s with fresh := s.fresh + 1, sched := { s.sched with credit := s.sched.credit - claim } }
  let s2 := (s1.schedWrite (s1.descAt q + 0xC) (leBytes 4 (x.head + 1))).schedWrite (pa + 0xB) [1]
  let s3 := s2.setSlot n { s2.slot n with nplaced := ((s2.slot n).nplaced + 1) % 256 }
  let s4 := s3.placeOn lid l1 o pcls
  ((s4.declare lid l1 o true).getD s4).noteHead n

/-- LAUNCH_START (R69): GTIME reaches S, and every resident thread of the launch runs. -/
def execLaunchStart (l : Nat) (s : State) : Host.Outcome State Fault Refusal :=
  let x := s.launch l
  .next (match x.start with
    | some t =>
      if x.active ∧ t ≤ s.gtime then
        { s with thr := s.thr.map fun (p : Nat × Thread) =>
          if p.2.lid = l ∧ p.2.st = .resident then (p.1, { p.2 with st := .run }) else p }
      else s
    | none => s)

/-! ## Retirement (R420, R421) -/

/-- May the launch retire: every thread DONE or EMPTY, none saved, and the root circuit clean? -/
def State.mayRetire (s : State) (lid : Nat) : Bool :=
  (s.launch lid).active && (s.launch lid).clean &&
    (s.thr.all fun (p : Nat × Thread) => p.2.lid != lid || p.2.st == .done || p.2.st == .empty) &&
    (s.saved.all fun (p : Nat × Saved) => p.2.lid != lid)

/-- Ends an address-range retention register of a launch (R241). -/
def State.endArrs (s : State) (lid : Nat) : State :=
  (List.range 4).foldl (fun (a : State) i =>
    let r : Arr := mget {} a.arrs i
    if r.holder = some lid then
      { a with arrs := mset a.arrs i { r with holder := none } }
    else a) s

/-- Frees a cluster: its contexts are EMPTY, its engines and queue units idle. -/
def State.freeClu (s : State) (p : Nat) : State :=
  let k := s.clu p
  let s1 := s.setClu p { meter := k.meter, cstep := k.cstep, l1 := [], keys := k.keys, plast := k.plast }
  (List.range 16).foldl (fun (a : State) i =>
    let c := a.core (p * 16 + i)
    let b := a.setCore (p * 16 + i) { c with tq := [], strms := [], strmWant := none, dom := {} }
    (List.range 4).foldl (fun (d : State) x => d.setThread (ctxId p i x) {}) b) s1

/-- Must the write-back of a launch, or its completion signal, wait for memory (R260)? -/
def State.retireWaits (s : State) (l : Launch) : Bool :=
  !s.dramReady (.phys l.recPa) 128 || (l.signal && s.semWaits l.asid l.sigsem)

/-- Step 1 of R64 for a launch that retires (R67, R421). NPLACED and CREDIT keep their widths (R7). -/
def State.retire (s : State) (lid : Nat) : State :=
  let l := s.launch lid
  if !s.mayRetire lid || s.retireWaits l then s
  else
    let s1 := s.endArrs lid
    let s2 := { s1 with net := s1.net.filter (·.lid != lid), decs := s1.decs.filter (·.lid != lid) }
    let s3 := l.pcls.foldl (fun (a : State) (x : Nat × Nat) => a.freeClu x.2) s2
    let x := s3.slot l.slot
    let s4 := s3.setSlot l.slot { x with nplaced := (x.nplaced + 255) % 256 }
    let s4 := { s4 with sched := { s4.sched with credit := (s3.sched.credit + l.charge) % 2 ^ 64 } }
    let s5 := (s4.schedWrite (l.recPa + 0x70) (leBytes 8 l.tused ++ leBytes 8 l.eused)).schedWrite (l.recPa + 0xB)
      [if l.killed then 4 else 2]
    let s6 := s5.setLaunch lid { l with active := false, pcls := [] }
    if l.signal then
      (match s6.semAt l.asid l.sigsem true with
        | some pa => s6.semAdd pa
        | none => s6.post 3 l.slot l.queue 8)
    else s6

/-- RETIRE (R420, R421). -/
def execRetire (l : Nat) (s : State) : Host.Outcome State Fault Refusal := .next (s.retire l)

/-- Is a placed cluster held under R63? One whose threads are all SAVED is not (R71). -/
def State.heldClu (s : State) (p : Nat) : Bool :=
  let ts := (List.range 64).map fun x => (s.thread (p * 64 + x)).st
  !ts.contains .saved || ts.any fun t => t != .saved && t != .empty

/-- The charges of one cycle (R63): every slot and launch by the clusters it holds. -/
def State.charge (s : State) : State :=
  s.launches.foldl (fun (a : State) (p : Nat × Launch) =>
    if p.2.active then
      let n := (p.2.pcls.filter fun (x : Nat × Nat) => s.heldClu x.2).length
      let x := a.slot p.2.slot
      (a.setLaunch p.1 { p.2 with tused := (p.2.tused + n) % 2 ^ 64 }).setSlot p.2.slot { x with tspent := (x.tspent + n) % 2 ^ 64 }
    else a) s

end Sys2Proof.Machine
end

