-- ==== Sys2Proof/Machine/Launch.lean ====
section
/-! DEFINITION. The heads of the launch queues (R55, R56, R58, R63 to R66): when a record is checked, when its semaphore is read,
doorbells, replenishment, blocked slots, the dispatch decision, LAUNCH. -/

namespace Sys2Proof.Machine

/-! ## Examination (R58, R65) -/

/-- The record at the head of a queue is checked as it stands there, and so are those that follow one that is refused (R58). -/
def State.checkHeads (n q : Nat) : Nat → State → State
  | 0, s => s
  | k + 1, s =>
    if !s.mayTake q || s.headWaits q || s.headBad q then s
    else
      let r := s.checkRec s.launches.length n q
      if r = 0 then s else State.checkHeads n q k (s.refuse n q r)

/-- A record reaches the head of a queue that a slot serves or owns (R58); the check of one whose memory has to be waited for is made
before it is dispatched (R260). -/
def State.reach (s : State) (n q : Nat) : State := (State.checkHeads n q (s.queue q).count s).noteHead n

/-- The scheduler examines the head of a queue: it checks the record, and reads the semaphore that it waits on (R58, R65). Where the
memory that this takes is not ONLINE, the examination waits (R260). -/
def State.examine (s0 : State) (n q : Nat) : State :=
  if s0.headWaits q then { s0 with sched := { s0.sched with late := if s0.sched.late.contains q then s0.sched.late else q :: s0.sched.late } }
  else
  let s := ({ s0 with sched := { s0.sched with late := s0.sched.late.filter (· != q) } }.schedRead q).reach n q
  if s.headBad q || !s.hasHead q || !(s.headRec q).wait || s.headWaits q then s
  else match s.semAt (s.queue q).asid (s.headRec q).waitsem false with
    | none => s
    | some pa =>
      let s := (s.homeRead { code := 0 } (.phys pa) 8 0).1
      let v := s.readAt (.phys pa) 8
      let m := if (s.headRec q).waitval.toNat ≤ v then mset s.sched.sems q ((s.queue q).head + 1) else mdel s.sched.sems q
      ({ s with sched := { s.sched with sems := m } }).noteHead n

/-- Re-examines the heads of a slot: its owner's and its borrower's. -/
def State.examineSlot (s : State) (n : Nat) : State :=
  if !s.slotMaps n then s.noteHead n
  else
    let s1 := s.examine n (s.slot n).qnum
    if (s1.slot n).bv then s1.examine n (s1.slot n).borrow else s1

/-- Re-examines every slot that serves or owns a queue. -/
def State.examineQueue (s : State) (q : Nat) : State :=
  slotNos.foldl (fun (a : State) n =>
    let x := a.slot n
    if a.slotMaps n && (x.qnum == q || (x.bv && x.borrow == q)) then a.examine n q else a) s

/-- A doorbell of a queue (R55): the scheduler reads TAIL; too many records set RINGERR and post LAUNCHERR with reason RING; a count within bounds clears it; the head
is examined again. It waits for the descriptor (R260). The event of a queue that no slot maps or serves is not tied to a slot (R62). -/
def State.doorbell (s0 : State) (q : Nat) : State :=
  let bells := s0.sched.bells.filter (· != q)
  let ready := s0.queueReady q
  let s1 := { s0 with sched := { s0.sched with bells := if ready then bells else q :: bells } }
  let s := if ready then s1.readTail q else s1
  let x := s.queue q
  let tied := slotNos.find? fun n => s.slotMaps n && ((s.slot n).qnum == q || ((s.slot n).bv && (s.slot n).borrow == q))
  if !ready || x.ring == 0 then s
  else if x.cap < x.count then
    let s1 := { s with sched := { s.sched with ringerr := if s.sched.ringerr.contains q then s.sched.ringerr else q :: s.sched.ringerr } }
    (s1.setDflag q 4 true).post 3 (tied.getD 0) (if tied.isSome then q else 0) (7 + x.head % 2 ^ 24 * 256)
  else
    let s1 := if s.sched.ringerr.contains q then
        ({ s with sched := { s.sched with ringerr := s.sched.ringerr.filter (· != q) } }).setDflag q 4 false
      else s
    s1.examineQueue q

/-- QSCH_DOORBELL (R55). -/
def execQschDoorbell (_e q : Nat) (s : State) : Host.Outcome State Fault Refusal := .next (s.doorbell (q % 4096))

/-! ## Periods and marking (R63, R66) -/

/-- Replenishes a periodic slot whose deadline is reached (R63); its heads are examined again (R65). -/
def State.replenish (s : State) (n : Nat) : State :=
  let x := s.slot n
  if x.period = 0 ∨ s.gtime < x.deadline then s
  else
    let y : QSlot := { x with deadline := nextDeadline x.deadline x.period s.gtime, tspent := 0, espent := 0, tovr := false,
                              eovr := false, replAt := some s.gtime }
    (s.setSlot n y).examineSlot n

/-- REPLENISH (R63). -/
def execReplenish (slot : Nat) (s : State) : Host.Outcome State Fault Refusal := .next (s.replenish slot)

/-- HEAD_REEXAMINE (R65). -/
def execHeadReexamine (slot : Nat) (s : State) : Host.Outcome State Fault Refusal :=
  .next (if s.examNow || s.sched.late.any (fun q => q == (s.slot slot).qnum || ((s.slot slot).bv && q == (s.slot slot).borrow)) then
    s.examineSlot slot else s)

/-- The lowest unmapped queue that lends, holds a record and is no borrower yet (R66). -/
def State.lender (s : State) : Option Nat :=
  (List.range 4096).find? fun q =>
    nbit (s.queue q).flags 1 && s.headReads q && s.hasHead q &&
      slotNos.all fun n => !((s.slot n).map && (s.slot n).qnum == q) && !((s.slot n).bv && (s.slot n).borrow == q)

/-- Looks for a borrower for a blocked slot. Its head is checked as it comes to be served; its semaphore is read on the occasions of
R65 only. -/
def State.lend (s : State) (n : Nat) : State :=
  match s.lender with
  | some q => (s.setSlot n { s.slot n with bv := true, borrow := q }).reach n q
  | none => s

/-- Has the head waited long enough (R66)? -/
def State.waitedLong (s : State) (n : Nat) : Bool :=
  let x := s.slot n
  match x.waitFrom with
  | none => false
  | some (_, t) =>
    if x.period = 0 then decide (s.sched.stallp ≤ s.gtime - t)
    else x.replAt == some s.gtime && decide (x.period ≤ s.gtime - t)

/-- Step 4 of R64 for a slot: marking, borrowing, and the end of both (R66). -/
def State.markSlot (s0 : State) (n : Nat) : State :=
  let s := s0.noteHead n
  let x := s.slot n
  let q := x.qnum
  if x.state = 3 then
    if s.slotMaps n && s.headReady n q then
      ((s.setSlot n { x with state := 1, bv := false, waitFrom := none }).setDflag q 2 false).noteHead n
    else if !x.bv && s.headBlocked n then s.lend n
    else s
  else if s.headBlocked n && s.waitedLong n then
    let s1 := ((s.setSlot n { x with state := 3 }).setDflag q 2 true).post 2 n q ((s.headRec q).waitsem.toNat % 2 ^ 32)
    s1.lend n
  else s

/-- BLOCK_MARK (R66). -/
def execBlockMark (slot : Nat) (s : State) : Host.Outcome State Fault Refusal := .next (s.markSlot slot)

/-! ## The dispatch decision (R65) -/

/-- Does a queue that a slot serves have a head that cannot be checked yet (R260)? A decision then waits. -/
def State.servesLate (s : State) : Bool := slotNos.any fun n => s.slotMaps n && s.headWaits (s.slot n).serving

/-- One decision (R65); in a locked TDI it also checks the queue's ASPACE (R428). -/
def State.decideOnce (s : State) : State :=
  if !s.sched.dispatches || s.sched.held || s.outer.retain.on || s.outer.retain.entering || s.servesLate then s
  else match leastSlot s s.candidates with
    | none => s
    | some n =>
      let q := (s.slot n).serving
      let s := s.schedRead q
      let asid := (s.queue q).asid
      let s := s.tdiCheck fun p => p.bnd.any fun b => b.1 == n && b.2.1 == q && b.2.2 != asid
      let lid := s.launches.length
      let reason := s.checkRec lid n q
      if reason ≠ 0 then ((s.refuse n q reason).reach n q).again
      else match s.objAt asid (s.headRec q).obj with
        | none => s
        | some i =>
          match s.objects[i]? with
          | none => s
          | some o =>
            let ncl := (s.headRec q).ncl
            if s.sched.credit < s.sched.eclaim * ncl then s.stallAt n q 0
            else match s.choose o ncl with
              | none => s.stallAt n q 1
              | some pcls => if s.dataWaits o asid then s else ((s.dispatch n q lid i o pcls).reach n q).again

/-- DISPATCH_DECISION (R65): one decision; after one that places or refuses a head the next turn decides again. -/
def execDispatchDecision (s : State) : Host.Outcome State Fault Refusal := .next s.decideOnce

/-! ## LAUNCH (R56, R374) -/

/-- Must a LAUNCH wait for the queue's descriptor or the place of its record (R260)? -/
def State.launchWaits (s : State) (q : Nat) : Bool :=
  decide (q < 4096) && (!s.dramReady (.phys (s.descAt q)) 32 ||
    ((s.queue q).ring != 0 && !s.dramReady (.phys ((s.queue q).recAt (s.queue q).tail)) 128))

/-- The status of a LAUNCH by a thread of an address space. -/
def State.launchStatus (s : State) (q asid : Nat) : Nat :=
  let x := s.queue q
  if 4096 ≤ q ∨ x.ring = 0 then 3
  else if nbit x.flags 0 = false ∨ x.asid ≠ asid then 2
  else if x.cap ≤ x.count then 1
  else 0

/-- Appends a record to a DEVAPP queue: CHILD and STATUS 0 in the copy, TAIL on. -/
def State.append (s : State) (q : Nat) (b : List Byte) : State :=
  let x := s.queue q
  let b1 := (b.set 0xA (b.getD 0xA 0 ||| 4)).set 0xB 0
  let tail := (x.tail + 1) % 2 ^ 32
  let s1 := (s.schedWrite (x.recAt x.tail) b1).schedWrite (s.descAt q + 0x10) (leBytes 4 tail)
  { s1 with sched := { s1.sched with tails := mset s1.sched.tails q tail } }

/-- A record appended to an empty queue reaches its head. -/
def State.reachQueue (s : State) (q : Nat) : State :=
  slotNos.foldl (fun (a : State) n =>
    let x := a.slot n
    if a.slotMaps n && (x.qnum == q || (x.bv && x.borrow == q)) then a.reach n q else a) s

/-- LAUNCH (R374). -/
def execLaunch (f : Fld) (s : State) : Host.Outcome State Fault Refusal :=
  issue { irrev := true, names := [f.a, f.b] } f s fun s => s.afterRelease true fun s =>
    (s.loadObj (s.W f.a) 128 128).res fun s1 b =>
      let w := s1.W f.b
      let q := bitsOf w 11 0
      let st := if bitsOf w 63 12 ≠ 0 then 3 else s1.launchStatus q (s1.t.sys.asid.toNat % 2 ^ 16)
      if bitsOf w 63 12 = 0 ∧ s1.launchWaits q = true then .stop .wait none
      else .ok ((if st = 0 then (s1.append q b).reachQueue q else s1).setW f.b (BitVec.ofNat 64 st)).advance

end Sys2Proof.Machine
end

