-- ==== Sys2Proof/Machine/Preempt.lean ====
section
/-! DEFINITION. Pre-emption (R408 to R413, R417, R71): thread records written and read back, CTXSAVE and CTXREST, the save of a
cluster or a core, its restore and its discard. -/

namespace Sys2Proof.Machine

/-! ## Thread records (R411) -/

/-- A list of bytes cut or filled with zeros to n. -/
def padTo (n : Nat) (l : List Byte) : List Byte := l.take n ++ List.replicate (n - l.length) 0
/-- Words as bytes. -/
def wordBytes (l : List Word) : List Byte := (l.map fun w => leBytes 8 w.toNat).flatten
/-- 128-bit values as bytes. -/
def v128Bytes (l : List V128) : List Byte := (l.map fun w => leBytes 16 w.toNat).flatten

/-- The pending late fault that a record holds: that of the vector stream, or the first of the engine's. -/
def Vec.lateRec (v : Vec) : Nat × Nat × Nat :=
  match v.late with
  | x :: _ => (x.sub, x.seqno.toNat, x.addr.toNat)
  | [] => (0, 0, 0)

/-- The code of a state in a record. -/
def TSt.code : TSt → Nat
  | .run => 1
  | .parked => 2
  | .qwait => 3
  | .frozen => 4
  | .done => 5
  | .resident => 6
  | .empty | .saved => 0

/-- The state that a context takes after a restore, by its code (R413): one saved as RUN, PARKED or QWAIT is RESIDENT until the next
issue choice, where it runs, and there a thread that was PARKED or in QWAIT issues its instruction again and so enters that state. -/
def stOfCode (n : Nat) : Option TSt :=
  match n with
  | 1 | 2 | 3 | 6 => some .resident
  | 4 => some .frozen
  | 5 => some .done
  | _ => none

/-- Bytes 0x000 to 0x7FF of a record. -/
def Thread.recLow (t : Thread) : List Byte :=
  wordBytes ((List.range 64).map fun i => mget 0 t.win.ring i) ++
  padTo 256 ((t.win.units.reverse.map fun u => wordBytes [u.ret, u.word]).flatten) ++
  ((List.range 4).map fun q => padTo 64 (wordBytes (mget [] t.q q))).flatten ++
  padTo 512 (v128Bytes ((List.range 24).map t.vr)) ++
  padTo 512 ((t.vec.seq.map fun e => entryBytes e.page e.base e.f e.seqno e.guard e.member (e.vals.take 2)).flatten)

/-- The words at 0xC00 and 0xC80. -/
def Thread.recRegs (t : Thread) : List Word :=
  let y := t.sys
  [t.pc, BitVec.ofNat 64 t.win.fb, t.wstat, t.win.rbsp, t.win.rbsl, t.pw.setWidth 64, y.vt, y.rh, y.tcause, y.tpc, y.tval, y.tseq,
    y.tvec, y.tamask, y.fpcsr, y.kstat, y.kcause, y.kpc, y.kval, y.kseq, y.kscr0, y.kscr1]

/-- The words from 0xCB0 to 0xCDF; `dr` says that the stream images stand at 0x800. -/
def Thread.recWords (t : Thread) (dr : Bool) : List Nat :=
  let v := t.vec
  let l := v.lateRec
  let m := t.mail
  [((List.range 4).map fun q => (mget [] t.q q).length % 16 * 256 ^ q).foldl (· + ·) 0,
   v.dseq.toNat + v.seq.length % 32 * 2 ^ 16 + b2n v.halted * 2 ^ 24 + l.1 % 256 * 2 ^ 32 + l.2.1 % 4096 * 2 ^ 40,
   (v.loop.map (·.left)).getD 0,
   (match v.loop with | some x => x.next % 16 + x.len % 16 * 16 + 256 | none => 0),
   (m.alarm.map (·.1)).getD 0,
   (m.alarm.map (·.2)).getD 0 % 256 + b2n m.alarm.isSome * 2 ^ 8 + b2n m.alarmHeld * 2 ^ 9 + t.spec.sdom % 8 * 2 ^ 16 +
     b2n t.spec.spen * 2 ^ 20 + b2n t.spec.task.isSome * 2 ^ 21 + b2n m.slot.isSome * 2 ^ 24 + m.box.length % 64 * 2 ^ 32 +
     b2n t.privileged * 2 ^ 40 + b2n dr * 2 ^ 41]

/-- Bytes 0xA00 to 0xFFF of a record. -/
def Thread.recHigh (t : Thread) (dr : Bool) : List Byte :=
  padTo 512 (v128Bytes t.mail.box) ++ wordBytes t.recRegs ++
  (t.recWords dr).flatMap (leBytes 8) ++
  leBytes 16 ((t.mail.slot.map fun m => m.msg.toNat).getD 0) ++
  leBytes 8 (t.st.code + t.promise.length % 256 * 2 ^ 16 + b2n t.preempt.isSome * 2 ^ 24) ++
  leBytes 8 t.vec.lateRec.2.2 ++ List.replicate 0x300 0

/-- Writes bytes at an address as the resident handler does; an access that fails gives its error and address. -/
def State.handlerWrite (s : State) (w : Who) (va : Word) (bs : List Byte) : Except EngErr State :=
  match s.engTarget w va bs [] with
  | .error e => .error e
  | .ok us =>
    if us.any fun u => !s.unitReady u || s.isOwned u.loc (unitSize u.loc) then .error .wait
    else .ok (us.foldl (fun (a : State) u => a.writeUnit { c := none, vt := 0, code := 1 } u 0) s)

/-- The handler's accesses at a core, in a launch's address space (R409). -/
def State.handlerWho (s : State) (core : Nat) : Who :=
  let k := s.clu (core / 16)
  { core := core, pcl := core / 16, asid := (s.launch (k.launch.getD 0)).asid, priv := true, handler := true, steward := false }

/-- Does the record of a thread hold its stream images: it is resident, or it has state that no drain has written (R302, R411)? -/
def State.savesImages (s : State) (c : Nat) : Bool :=
  (s.residents (coreId c)).contains c || (!(s.thread c).drained && (s.thread c).strm.any fun (p : Nat × Strm) => p.2.mode != 0)

/-- CTXSAVE of a context at an address (R417): its record is written and it becomes SAVED. -/
def State.saveCtx (s : State) (c : Nat) (va : Word) : Except EngErr State :=
  let t := s.thread c
  let res := s.savesImages c
  let w := s.handlerWho (coreId c)
  match s.handlerWrite w va t.recLow with
  | .error e => .error e
  | .ok s1 =>
    match (if res then s1.handlerWrite w (va + 0x800) t.images else .ok s1) with
    | .error e => .error e
    | .ok s2 =>
      match s2.handlerWrite w (va + 0xA00) (t.recHigh (res || t.drained)) with
      | .error e => .error e
      | .ok s3 =>
        let t1 := { t with st := .saved, svst := t.st, strm := if res then [] else t.strm, drained := res || t.drained,
                           stopReq := false, qblk := none, mail := { t.mail with park := none },
                           vec := { t.vec with ha := none, hb := none } }
        let k := s3.core (coreId c)
        .ok ((s3.setThread c t1).setCore (coreId c) { k with strms := k.strms.filter (· != c) })

/-- Does a message of a sender still stand in its send slot? -/
def State.slotMsg (s : State) (lid tid : Nat) : Option NetMsg :=
  let all := s.net ++ (s.thr.map fun (p : Nat × Thread) => p.2.mail.held).flatten ++
    (s.saved.map fun (p : Nat × Saved) => p.2.msgs).flatten
  (all.find? fun m => m.kind == 0 && m.lid == lid && m.src == tid).map fun m => { m with t0 := 0 }

/-- The window of a record, where R102 and R105 hold. -/
def winOf (b : List Byte) : Option Win :=
  let wst := fieldAt b 0xC10 8
  let nl := wst / 2 ^ 16 % 32
  let units := ((List.range nl).map fun i =>
    ({ ret := wordAt b (0x200 + 16 * i), k := fieldAt b (0x208 + 16 * i) 8 % 16, nc := fieldAt b (0x208 + 16 * i) 8 / 16 % 128 } : Link)).reverse
  let w : Win := { fb := fieldAt b 0xC08 8, n := wst % 128, ring := msetRun [] 0 ((List.range 64).map fun i => wordAt b (8 * i)),
                   units := units, nspill := wst / 2 ^ 32, rbsp := wordAt b 0xC18 &&& ~~~(7 : Word), rbsl := wordAt b 0xC20 &&& ~~~(7 : Word) }
  if 16 < nl ∨ w.n = 0 ∨ 64 < w.n + w.nres ∨ w.nres ≠ wst / 2 ^ 8 % 128 ∨ (units.any fun u => u.k == 0) = true then none
  else some w

/-- The sequencer entries of a record; the window registers of a page-5 entry beyond the second, and the address of a chain, are
those that the context kept. -/
def seqOf (b : List Byte) (old : List SeqEnt) : Option (List SeqEnt) :=
  let rm := fieldAt b 0xC70 8 % 4
  let one (i : Nat) : Option SeqEnt :=
    let e := (b.drop (0x600 + 32 * i)).take 32
    let n : BitVec 12 := BitVec.ofNat 12 (fieldAt e 0 8 / 2 ^ 42)
    let x := old.find? fun y => y.seqno == n && y.guard
    entryOf e ((x.map (·.rm)).getD rm) ((x.map (·.pc)).getD 0) ((x.map fun y => y.vals.drop 2).getD [])
  (List.range (fieldAt b 0xCB8 8 / 2 ^ 16 % 32)).foldr (fun i acc => match one i, acc with | some e, some l => some (e :: l) | _, _ => none)
    (some [])

/-- The members of the latest VLOOP among some entries that are still to be dispatched (R202, R187). -/
def membersLeft (es : List SeqEnt) : Nat :=
  es.foldl (fun a e => if e.member then a - 1 else if e.page == 1 && e.maj == 10 && e.guard then e.f.a.toNat else a) 0

/-- The vector stream of a record. -/
def vecOf (b : List Byte) (old : Vec) : Option Vec :=
  match seqOf b old.seq with
  | none => none
  | some es =>
    let sw := fieldAt b 0xCB8 8
    let lw := fieldAt b 0xCC8 8
    let sub := sw / 2 ^ 32 % 256
    let first : List Late := if sub = 0 then [] else
      [{ sub := sub, seqno := BitVec.ofNat 12 (sw / 2 ^ 40), addr := wordAt b 0xCF8,
         store := match old.late.head? with | some x => x.store | none => false }]
    let halted := nbit sw 24
    if 16 < es.length then none
    else some
      { v := msetRun [] 0 ((List.range 24).map fun i => BitVec.ofNat 128 (fieldAt b (0x400 + 16 * i) 16)),
        seq := es, dseq := BitVec.ofNat 12 sw, halted := halted, raised := halted && !(decide (1 ≤ sub) && decide (sub < 16)),
        discard := halted && (sub == 2 || old.discard), late := first ++ old.late.drop 1,
        loop := if nbit lw 8 then
            some { left := fieldAt b 0xCC0 8, next := lw % 16, len := lw / 16 % 16, id := (es.head?.map fun e => e.seqno.toNat).getD 0 }
          else none,
        bodyLeft := membersLeft es }

/-- The system registers of a record by their number (R117, R391), with their place among the words at 0xC00; a restore writes them as
WRSR does, so reserved bits read zero (R6). -/
def recRegNos : List (Nat × Nat) :=
  [(0x004, 5), (0x010, 8), (0x011, 9), (0x012, 10), (0x013, 11), (0x014, 12), (0x015, 13), (0x020, 14), (0x105, 15), (0x100, 16),
    (0x101, 17), (0x102, 18), (0x103, 19), (0x108, 20), (0x109, 21)]

/-- The thread that a record of 4,096 bytes holds (R411, R413); `old` is what the context kept beside it, `time` GTIME at the save,
`now` GTIME. -/
def threadOf (b : List Byte) (old : Thread) (time now : Nat) (slot : Option NetMsg) : Option Thread :=
  let w (i : Nat) : Word := wordAt b (0xC00 + 8 * i)
  let fl := fieldAt b 0xCD8 8
  let qc := fieldAt b 0xCB0 8
  let stw := fieldAt b 0xCF0 8
  let len (q : Nat) : Nat := qc / 256 ^ q % 16
  let nbox := fl / 2 ^ 32 % 64
  match winOf b, vecOf b old.vec, stOfCode (stw % 16) with
  | some win, some vec, some st =>
    if 32 < nbox ∨ 4 < fl / 2 ^ 16 % 8 ∨ ((List.range 4).any fun q => decide (8 < len q)) = true then none
    else
      let tvec := w 12
      let old1 := { old with
        st := st, svst := .empty, pc := w 0 &&& ~~~(1 : Word), win := win,
        q := (List.range 4).foldl (fun (m : SMap (List Word)) q =>
          mset m q ((List.range (len q)).map fun j => wordAt b (0x300 + 64 * q + 8 * j))) [],
        vec := vec, strm := if nbit fl 41 then [] else old.forgetStrm, drained := nbit fl 41,
        sys := { old.sys with vt := w 6, rh := BitVec.ofNat 64 now },
        mail := { old.mail with
          box := (List.range nbox).map fun i => BitVec.ofNat 128 (fieldAt b (0xA00 + 16 * i) 16),
          slot := slot, alarm := if nbit fl 8 then some (fieldAt b 0xCD0 8, fl % 256) else none, alarmHeld := nbit fl 9, park := none },
        spec := { old.spec with sdom := fl / 2 ^ 16 % 8, spen := nbit fl 20, task := if nbit fl 21 then old.spec.task else none },
        promise := old.promise.take (stw / 2 ^ 16 % 256), mode := if nbit fl 40 then .runtime else .user,
        preempt := if tvec.getLsbD 50 then some time else none, pend := none, hold := none, qblk := none, stopReq := false }
      some (recRegNos.foldl (fun (t : Thread) p => t.setSysReg p.1 (w p.2)) old1)
  | _, _, _ => none

/-! ## CTXSAVE and CTXREST (R417) -/

/-- The stop of a handler's access. -/
def EngErr.stop (e : EngErr) (code : Nat) : Stop :=
  match e with
  | .wait => .wait
  | .fault l r va => .trap cPFAULT code l r va
  | .prot va => .freeze code va
  | .dram va => .trap cDRAMERR code 0 0 va

/-- CTXSAVE (R417): a handler saves a context of its core. -/
def execCtxsave (f : Fld) (s : State) : Host.Outcome State Fault Refusal :=
  issue { mode := 2, irrev := true, names := [f.a] } f s fun s =>
    let va := s.W f.a
    let c := coreId s.cur * 4 + f.b.toNat
    if va.toNat % 4096 ≠ 0 then .stop (.trap cALIGN 1 0 0 va) none
    else match s.saveCtx c va with
      | .ok s1 => .ok s1.advance
      | .error e => .stop (e.stop 1) none

/-- What a context keeps beside its record: its own record where it is SAVED there, else its place in the cluster's launch. -/
def State.keptThread (s : State) (c : Nat) : Thread :=
  let t := s.thread c
  let k := s.clu (pclOf c)
  let l := s.launch (k.launch.getD 0)
  if t.st = .saved then t
  else newThread (k.launch.getD 0) (k.vcl * 64 + c % 64) l.entry [] l.asid (s.asKvec l.asid)
    (((s.objects[l.obj]?).map (·.text)).getD 0)

/-- CTXREST of a context at an address (R417): the context takes the state of its record, or stays EMPTY where the record breaks R411
or R412. -/
def State.restCtx (s : State) (c : Nat) (va : Word) (time : Nat) : State × Except EngErr Bool :=
  match s.engRead { code := 1, c := none } (s.handlerWho (coreId c)) 0 va 4096 with
  | (s1, .error e) => (s1, .error e)
  | (s1, .ok b) =>
    let old := s1.keptThread c
    match threadOf b old time s1.gtime (s1.slotMsg old.lid old.tid) with
    | some t => (s1.setThread c t, .ok true)
    | none => (s1.setThread c {}, .ok false)

/-- A FREEZE record for the handler of a core. -/
def State.handlerRec (s : State) (core : Nat) (cause va : Word) : State :=
  s.makeRec (mkRec s (threadMaster (2 ^ 18 + core)) 1 cause va)

/-- CTXREST (R417). -/
def execCtxrest (f : Fld) (s : State) : Host.Outcome State Fault Refusal :=
  issue { mode := 2, irrev := true, names := [f.a] } f s fun s =>
    let va := s.W f.a
    let c := coreId s.cur * 4 + f.b.toNat
    if va.toNat % 4096 ≠ 0 then .stop (.trap cALIGN 0 0 0 va) none
    else match s.restCtx c va s.gtime with
      | (s1, .ok true) => .ok s1.advance
      | (s1, .ok false) => .ok (s1.handlerRec (coreId s.cur) 0 va).advance
      | (s1, .error e) => .stop (e.stop 0) (some s1)

/-! ## The save (R408, R410, R71) -/

/-- The bits of KCTL_STAT. -/
def State.setKstat (s : State) (bit : Nat) (v : Bool) : State :=
  { s with kstat := s.kstat - b2n (nbit s.kstat bit) * 2 ^ bit + b2n v * 2 ^ bit }

/-- The base of a vcluster's block in its launch's save area (R410). -/
def State.saveBlock (s : State) (lid v : Nat) : Word := (s.launch lid).save + BitVec.ofNat 64 (0x1000 + 0x200000 * v)

/-- Writes a vcluster's entry in every interface of its launch (R70, R71). -/
def State.setEntry (s : State) (lid v : Nat) (g : BitVec 16 → BitVec 16) : State :=
  (List.range (s.launch lid).ncl).foldl (fun (a : State) u =>
    a.onVclu lid u fun k => { k with vct := mset k.vct v (g (k.vEntry v)) }) s

/-- A context is told to stop (R408 step 1): a queued ARSV is withdrawn (R232). -/
def State.askStop (s : State) (c : Nat) : State :=
  let t := s.thread c
  if t.st = .empty then s
  else
    let p := match t.pend with | some q => if q.kind = 2 then none else some q | none => none
    let q := match t.pend with | some q => if q.kind = 2 then s.rsvq.filter (· != c) else s.rsvq | none => s.rsvq
    { s with rsvq := q }.setThread c { t with stopReq := true, pend := p }

/-- A request to pre-empt a cluster or a core (R408): refused for an idle cluster or while one is under way. -/
def State.preempt (s : State) (pcl : Nat) (core : Option Nat) : State :=
  let k := s.clu pcl
  match k.launch with
  | none => s.setKstat 2 true
  | some lid =>
    if nbit s.kstat 0 then s.setKstat 2 true
    else
      let s1 := (s.setKstat 2 false).setKstat 0 true
      let s2 := (ctxsOf pcl core).foldl State.askStop s1
      match core with
      | some i => s2.setClu pcl { s2.clu pcl with savingCore := some i }
      | none => (s2.setClu pcl { s2.clu pcl with saving := true }).setEntry lid k.vcl fun e => e ||| 0x4000

/-- PREEMPT_CLUSTER (R408). -/
def execPreemptCluster (pcl : Nat) (s : State) : Host.Outcome State Fault Refusal := .next (s.preempt pcl none)
/-- PREEMPT_CORE (R408). -/
def execPreemptCore (pcl core : Nat) (s : State) : Host.Outcome State Fault Refusal := .next (s.preempt pcl (some core))

/-- Does a location lie in a cluster's slices? -/
def inSlices (pcl : Nat) (l : Loc) : Bool :=
  match l with
  | .slice k _ => k / 16 == pcl
  | _ => false

/-- Nothing under way names a cluster's slices any more but what its own engines, which are saved with it, still own (R331, R408). -/
def State.slicesQuiet (s : State) (pcl : Nat) : Bool :=
  (s.cores.all fun (p : Nat × Core) => (p.2.ring ++ p.2.sring).all fun o => !inSlices pcl o.loc) &&
    (s.thr.all fun (p : Nat × Thread) => (p.2.pend.all fun q => !inSlices pcl q.loc) && p.2.vec.mem.all fun q => !inSlices pcl q.loc) &&
    s.resv.all (fun r => !inSlices pcl r.loc) && s.owned.all fun o => o.pcl == pcl || !inSlices pcl o.loc

/-- May a cluster's engines be saved: every accepted command is over or frozen, and no matrix job is in progress but a solver at a
boundary (R331, R408)? -/
def Cluster.enginesStopped (k : Cluster) : Bool :=
  k.cmds.all (fun x => x.state == 2 || x.state == 3) &&
    k.meng.all fun (e : Nat × MEng) => e.2.groups.all fun (g : Nat × Group) =>
      g.2.mayStop

/-- The handler of a core freezes on a save or restore access (R409). -/
def State.freezeHandler (s : State) (core : Nat) (acc : Nat) (e : EngErr) : State :=
  let c := 2 ^ 18 + core
  let put (cw va : Word) : State :=
    let t : Thread := { s.thread c with st := .frozen, mode := .handler }
    (s.setThread c (t.setKregs cw 0 va none)).makeRec (mkRec s (threadMaster c) 1 cw va)
  match e with
  | .wait => s
  | .fault l r va => put (causeWord cPFAULT acc l r) va
  | .prot va => put (causeWord cPROT acc 0 0) va
  | .dram va => put (causeWord cDRAMERR acc 0 0) va

/-- Saves contexts in ascending order; at the first access that fails, the state so far, the core and the error. -/
def State.saveCtxs (s : State) (base : Word) : List Nat → State × Option (Nat × EngErr)
  | [] => (s, none)
  | c :: cs =>
    if (s.thread c).st = .empty ∨ (s.thread c).st = .saved then State.saveCtxs s base cs
    else match s.saveCtx c (base + BitVec.ofNat 64 (0x1000 * (c % 64))) with
      | .ok s1 => State.saveCtxs s1 base cs
      | .error e => (s, some (coreId c, e))

/-- Drains every resident group of a cluster; a frozen or waiting one keeps its place, by which its record names it (R331). -/
def State.drainAll (s : State) (pcl : Nat) : State :=
  [0, 1].foldl (fun (a : State) h =>
    ((a.clu pcl).eng h).groups.foldl (fun (b : State) (p : Nat × Group) =>
      if p.2.place.isNone then b
      else
        let d := b.drainGroup pcl h p.1 p.2
        match d.grp pcl h p.1 with
        | some g => if p.2.frozen || p.2.wait then d.setGrp pcl h p.1 { g with place := p.2.place, drained := false, ctx := p.2.ctx } else d
        | none => d) a) s

/-- Writes pieces in order; at the first access that fails, the error. -/
def State.writeAll (s : State) (w : Who) : List (Word × List Byte) → State × Option EngErr
  | [] => (s, none)
  | (va, bs) :: ps =>
    match s.handlerWrite w va bs with
    | .ok s1 => State.writeAll s1 w ps
    | .error e => (s, some e)

/-- A spilled message's 32 bytes (R410). -/
def spillMsg (n : Nat) (m : NetMsg) : List Byte := leBytes 16 m.msg.toNat ++ leBytes 8 m.dst ++ leBytes 8 n

/-- The messages of a vcluster's threads that its interface has not delivered: those held before a mailbox, then those under way;
a message of SEND waits in its sender's slot (R71). -/
def State.undelivered (s : State) (lid v pcl : Nat) : List NetMsg :=
  ((List.range 64).map fun x => (s.thread (pcl * 64 + x)).mail.held).flatten ++
    s.net.filter fun m => m.lid == lid && m.dst / 64 == v && m.dev == 0 && m.kind != 0

/-- The header of the save area after a save (R410). -/
def State.saveHeader (s : State) (lid v : Nat) : List (Word × List Byte) :=
  let l := s.launch lid
  let bits := (v :: (s.saved.filterMap fun (p : Nat × Saved) => if p.2.lid = lid ∧ p.2.single = none then some p.2.vcl else none)).eraseDups
  [(l.save, leBytes 8 l.ncl ++ leBytes 8 s.gtime),
   (l.save + 0x100, (List.range 512).map fun i => BitVec.ofNat 8 ((bits.filter fun x => x / 8 == i).foldl (fun a x => a + 2 ^ (x % 8)) 0))]

/-- The lowest save handle that is not in use. -/
def State.freeHandle (s : State) : Nat := ((List.range 65536).find? fun h => !mhas s.saved h).getD 0

/-- The steward records of masters of a cluster. -/
def State.recsOf (s : State) (pcl : Nat) : List Nat :=
  (s.srec.filter fun (p : Nat × SRec) => p.2.w1.getLsbD 63 && decide (bitsOf p.2.w0 63 60 < 3) && bitsOf p.2.w0 47 36 == pcl).map (·.1)

/-- The slice images of a cluster, each at its place in the save area (R410). -/
def State.slicePieces (s : State) (pcl lid v : Nat) : List (Word × List Byte) :=
  (List.range 16).map fun k => (s.saveBlock lid v + BitVec.ofNat 64 (0x40000 + 0x8000 * k), s.bytesAt (.slice (pcl * 16 + k) 0) 32768)

/-- The spilled messages, one after the other (R410). -/
def State.spillPieces (s : State) (lid v : Nat) (msgs : List NetMsg) : List (Word × List Byte) :=
  if msgs.isEmpty then [] else
    [(s.saveBlock lid v + 0x1D0000, (((List.range msgs.length).zip msgs).map fun p => spillMsg p.1 p.2).flatten)]

/-- What the last writes of a cluster's save write, in order (R408, R410). -/
def State.savePieces (s : State) (pcl lid v : Nat) : List (Word × List Byte) :=
  s.slicePieces pcl lid v ++ s.spillPieces lid v (s.undelivered lid v pcl) ++ s.saveHeader lid v

/-- A location whose cluster has moved. -/
def Loc.moved (old new : Nat) (l : Loc) : Loc :=
  match l with
  | .slice k o => if k / 16 = old then .slice (new * 16 + k % 16) o else l
  | l => l

/-- What the engines of a moved cluster own. -/
def Own.moved (o : Own) (old new : Nat) : Own := if o.pcl = old then { o with pcl := new, loc := o.loc.moved old new } else o

/-- A unit that an engine of a moved cluster has still to write. -/
def UnitW.moved (u : UnitW) (old new : Nat) : UnitW := { u with loc := u.loc.moved old new }

/-- The engines of a cluster at its new place: what they have still to write in its own slices goes there (R71). -/
def Cluster.moved (k : Cluster) (old new : Nat) : Cluster :=
  let us (l : List UnitW) : List UnitW := l.map fun u => u.moved old new
  { k with cmds := k.cmds.map fun (x : Cmd) => { x with units := us x.units },
           meng := k.meng.map fun (e : Nat × MEng) => (e.1, { e.2 with groups := e.2.groups.map fun (g : Nat × Group) =>
             (g.1, { g.2 with run := g.2.run.map fun r => { r with units := us r.units } }) }) }

/-- The number that stands for the place of a cluster which is saved under a handle: no cluster has it. -/
def awayFrom (h : Nat) : Nat := 2 ^ 20 + h

/-- A cluster whose save area is written: it is kept under a handle, its messages leave the mesh, and the cluster is free (R408). -/
def State.keepSaved (s2 : State) (pcl lid v : Nat) (msgs : List NetMsg) : State :=
  let drop (t : Thread) : Thread := { t with mail := { t.mail with held := [] } }
  let thr : SMap Thread := (List.range 64).filterMap fun x =>
    let t := s2.thread (pcl * 64 + x)
    if t.st = .empty then none else some (x, drop t)
  let h := s2.freeHandle
  let x : Saved :=
    { lid := lid, vcl := v, oldPcl := pcl, time := s2.gtime, single := none, thr := thr,
      cores := (List.range 16).map fun k => (k, s2.core (pcl * 16 + k)),
      clu := { s2.clu pcl with saving := false, l1 := [], fblocks := [], meter := 0 },
      msgs := msgs, marks := s2.marks.filter fun m => inSlices pcl m.loc, recs := s2.recsOf pcl }
  let l := s2.launch lid
  let s3 := { s2 with saved := mset s2.saved h x, marks := s2.marks.filter (fun m => !inSlices pcl m.loc),
                      owned := s2.owned.map fun (o : Own) => o.moved pcl (awayFrom h),
                      net := s2.net.filter fun m => !(m.lid == lid && m.dst / 64 == v && m.dev == 0 && m.kind != 0) }
  let s4 := (s3.setLaunch lid { l with pcls := mdel l.pcls v }).freeClu pcl
  let s5 := s4.setClu pcl { s4.clu pcl with keys := [] }
  (s5.setKstat 0 false).post 6 0 0 (h + pcl * 2 ^ 16)

/-- A cluster's save after its last writes: kept where they went through, and otherwise their error (R408, R409). -/
def State.keepIf (r : State × Option EngErr) (pcl lid v : Nat) (msgs : List NetMsg) : State × Option EngErr :=
  match r with
  | (s2, some e) => (s2, some e)
  | (s2, none) => (s2.keepSaved pcl lid v msgs, none)

/-- The last steps of a cluster's save (R408): engines, slices, queue units, cluster state and messages; the cluster is free. -/
def State.finishSave (s : State) (pcl lid v : Nat) : State × Option EngErr :=
  State.keepIf ((s.drainAll pcl).writeAll (s.handlerWho (pcl * 16)) ((s.drainAll pcl).savePieces pcl lid v)) pcl lid v
    ((s.drainAll pcl).undelivered lid v pcl)

/-- Aborts the speculative contexts among some (R408 step 2). -/
def State.abortAll (s : State) (cs : List Nat) : State :=
  cs.foldl (fun (a : State) c =>
    if (a.thread c).st != .frozen && (a.speculative c || (a.thread c).spec.abort) then a.abortNow c else a) s

/-- CLUSTER_SAVED (R408): a pre-emption under way ends where each of its contexts has stopped; a save access that fails freezes the
handler, and the save goes on from there once it is thawed. -/
def State.saveTurn (s0 : State) (pcl : Nat) : State :=
  let k := s0.clu pcl
  match k.launch with
  | none => s0
  | some lid =>
    if k.saving = false ∧ k.savingCore = none then s0
    else
      let core := if k.saving then none else k.savingCore
      let cs := ctxsOf pcl core
      let s := s0.abortAll cs
      let hs := (match core with | some i => [i] | none => List.range 16).map fun i => 2 ^ 18 + pcl * 16 + i
      if !cs.all s.ctxStopped || hs.any (fun c => (s.thread c).st == .frozen) then s
      else if core = none ∧ ((s.clu pcl).enginesStopped = false ∨ s.slicesQuiet pcl = false) then s
      else match s.saveCtxs (s.saveBlock lid k.vcl) cs with
        | (s1, some (c, e)) => s1.freezeHandler c 1 e
        | (s1, none) =>
          match core with
          | none => (match s1.finishSave pcl lid k.vcl with
            | (s2, some e) => s2.freezeHandler (pcl * 16) 1 e
            | (s2, none) => s2)
          | some i =>
            let x : Saved := { lid := lid, vcl := k.vcl, oldPcl := pcl, time := s1.gtime, single := some i, thr := [], cores := [],
                               clu := {}, msgs := [], marks := [], recs := [] }
            let h := s1.freeHandle
            let s2 := { s1 with saved := mset s1.saved h x }
            ((s2.setClu pcl { s2.clu pcl with savingCore := none }).setKstat 0 false).post 6 0 0 (h + pcl * 2 ^ 16)

/-- CLUSTER_SAVED (R408). -/
def execClusterSaved (pcl : Nat) (s : State) : Host.Outcome State Fault Refusal := .next (s.saveTurn pcl)

/-! ## The restore (R413, R71) -/

/-- Restores contexts from their records; at the first access that fails, the core and the error. -/
def State.restCtxs (s : State) (base : Word) (time : Nat) : List Nat → State × Option (Nat × EngErr)
  | [] => (s, none)
  | c :: cs =>
    if (s.thread c).st ≠ .saved then State.restCtxs s base time cs
    else
      let va := base + BitVec.ofNat 64 (0x1000 * (c % 64))
      match s.restCtx c va time with
      | (s1, .ok true) => State.restCtxs s1 base time cs
      | (s1, .ok false) => State.restCtxs (s1.handlerRec (coreId c) 0 va) base time cs
      | (s1, .error e) => (s1, some (coreId c, e))

/-- Reads the slice images back. -/
def State.restSlices (s : State) (pcl : Nat) (base : Word) : List Nat → State × Option EngErr
  | [] => (s, none)
  | k :: ks =>
    match s.engRead { code := 1 } (s.handlerWho (pcl * 16)) 0 (base + BitVec.ofNat 64 (0x40000 + 0x8000 * k)) 32768 with
    | (s1, .ok b) => State.restSlices (s1.writeAt (.slice (pcl * 16 + k) 0) b) pcl base ks
    | (s1, .error e) => (s1, some e)

/-- Reads the spilled messages back, from the place of number n on: each takes its contents and its destination's core and context from
the save area (R410, R71). -/
def State.readMsgs (s : State) (pcl : Nat) (base : Word) (n : Nat) : List NetMsg → State × Except EngErr (List NetMsg)
  | [] => (s, .ok [])
  | m :: ms =>
    match s.engRead { code := 1 } (s.handlerWho (pcl * 16)) 0 (base + BitVec.ofNat 64 (0x1D0000 + 32 * n)) 32 with
    | (s1, .error e) => (s1, .error e)
    | (s1, .ok b) =>
      match State.readMsgs s1 pcl base (n + 1) ms with
      | (s2, .error e) => (s2, .error e)
      | (s2, .ok l) => (s2, .ok ({ m with msg := BitVec.ofNat 128 (fieldAt b 0 16), dst := m.dst / 64 * 64 + fieldAt b 16 8 % 64 } :: l))

/-- Masters of a moved cluster in the steward records (R404). -/
def State.moveRecs (s : State) (recs : List Nat) (old new : Nat) : State :=
  { s with srec := s.srec.map fun (p : Nat × SRec) =>
      if recs.contains p.1 ∧ bitsOf p.2.w0 47 36 = old then
        (p.1, { p.2 with w0 := p.2.w0 - BitVec.ofNat 64 (old * 2 ^ 36) + BitVec.ofNat 64 (new * 2 ^ 36) })
      else p }

/-- The place of a saved cluster is prepared: its cluster state, cores and kept contexts stand at the target. -/
def State.reload (s : State) (h : Nat) (x : Saved) (pcl : Nat) : State :=
  let k := s.clu pcl
  let l := s.launch x.lid
  let s1 := (s.setLaunch x.lid { l with pcls := mset l.pcls x.vcl pcl }).setClu pcl
    { x.clu.moved x.oldPcl pcl with l1 := [], fblocks := [], meter := k.meter, drr := k.drr, drrAt := k.drrAt }
  let s2 := x.cores.foldl (fun (a : State) (c : Nat × Core) =>
    let o := a.core (pcl * 16 + c.1)
    a.setCore (pcl * 16 + c.1) { o with tq := c.2.tq, dom := c.2.dom, strms := [], strmWant := none }) s1
  let s3 := x.thr.foldl (fun (a : State) (t : Nat × Thread) => a.setThread (pcl * 64 + t.1) t.2) s2
  let mv (m : Mark) : Mark := { m with loc := m.loc.moved x.oldPcl pcl }
  { s3 with marks := s3.marks ++ x.marks.map mv, owned := s3.owned.map fun (o : Own) => o.moved (awayFrom h) pcl,
            thr := s3.thr.map fun (p : Nat × Thread) =>
              if p.2.lid = x.lid ∧ !p.2.spec.sb.isEmpty then
                (p.1, { p.2 with spec := { p.2.spec with sb := p.2.spec.sb.map fun e => { e with loc := e.loc.moved x.oldPcl pcl } } })
              else p }

/-- The spilled messages are delivered in their order, then HOLD is cleared and the tables name the new place (R71). -/
def State.release (s : State) (x : Saved) (msgs : List NetMsg) (pcl : Nat) : State :=
  let s1 := msgs.foldl (fun (a : State) m => a.arriveMsg (pcl * 64 + m.dst % 64) m) s
  s1.setEntry x.lid x.vcl fun _ => BitVec.ofNat 16 (2 ^ 15 + pcl)

/-- A restore ends (R413): RESTORED is posted. -/
def State.endRestore (s : State) (h : Nat) : State :=
  ({ (s.setKstat 1 false) with saved := mdel s.saved h, rest := none }).post 7 0 0 h

/-- The restore of a handle under way: a failing access freezes the handler, and the restore runs again once it is thawed. -/
def State.restTurn (s : State) (h pcl : Nat) : State :=
  match mfind s.saved h with
  | none => s
  | some x =>
    match x.single with
    | some i =>
      let p := (mfind (s.launch x.lid).pcls x.vcl).getD x.oldPcl
      if ((s.thread (2 ^ 18 + p * 16 + i)).st == .frozen) then s
      else match s.restCtxs (s.saveBlock x.lid x.vcl) x.time (ctxsOf p (some i)) with
        | (s1, none) => s1.endRestore h
        | (s1, some (c, e)) => s1.freezeHandler c 0 e
    | none =>
      if (List.range 16).any fun i => (s.thread (2 ^ 18 + pcl * 16 + i)).st == .frozen then s
      else
        let base := s.saveBlock x.lid x.vcl
        let s1 := s.reload h x pcl
        match s1.restSlices pcl base (List.range 16) with
        | (_, some e) => s.freezeHandler (pcl * 16) 0 e
        | (s2, none) =>
          let alone (c : Nat) : Bool := s.saved.any fun (q : Nat × Saved) =>
            q.2.lid == x.lid && q.2.vcl == x.vcl && q.2.single == some (coreNo c)
          match s2.restCtxs base x.time ((ctxsOf pcl none).filter fun c => !alone c) with
          | (_, some (c, e)) => s.freezeHandler c 0 e
          | (s3, none) =>
            match s3.readMsgs pcl base 0 x.msgs with
            | (_, .error e) => s.freezeHandler (pcl * 16) 0 e
            | (s4, .ok ms) => ((s4.moveRecs x.recs x.oldPcl pcl).release x ms pcl).endRestore h

/-- A write of KCTL_REST with GO (R413): refused while a restore is under way, for a handle that saves nothing, or for a target that
cannot take the cluster. -/
def State.restoreReq (s : State) (h pcl : Nat) : State :=
  let free := (s.clu pcl).launch.isNone && !s.mapped.contains pcl
  match mfind s.saved h with
  | none => s.setKstat 2 true
  | some x =>
    if s.rest.isSome || (x.single.isNone && !free) then s.setKstat 2 true
    else { ((s.setKstat 2 false).setKstat 1 true) with rest := some (h, pcl) }.restTurn h pcl

/-- RESTORE (R413): a request, or the turn of the one under way. -/
def execRestore (h pcl : Nat) (s : State) : Host.Outcome State Fault Refusal :=
  .next (if s.rest = some (h, pcl) then s.restTurn h pcl else s.restoreReq h pcl)

/-- A thread is killed (R406): its context becomes EMPTY; a hold is abandoned, its mailbox and the messages held before it are
discarded; its accepted commands run on. -/
def State.killCtx (s : State) (c : Nat) : State :=
  let t := s.thread c
  let s1 := t.mail.held.foldl (fun (a : State) m => a.delivered c m) (((s.abandon c).dropResv c).dropMarks c)
  let k := s1.core (coreId c)
  let s2 := s1.setCore (coreId c) { k with strms := k.strms.filter (· != c), strmWant := if k.strmWant = some c then none else k.strmWant }
  let h := halfOf (coreNo c)
  let e := (s2.clu (pclOf c)).eng h
  let conv := (e.conv.map fun x => { x with who := x.who.filter (· != t.tid) }).filter fun x => !x.who.isEmpty
  let s3 := if e.conv.isEmpty then s2 else s2.setEng (pclOf c) h { e with conv := conv }
  (s3.setLaunch t.lid { s3.launch t.lid with killed := true }).setThread c {}

/-- RESTORE_DISCARD (R413): nothing is restored; every thread of the handle counts as killed, and its messages are discarded. -/
def execRestoreDiscard (h : Nat) (s : State) : Host.Outcome State Fault Refusal :=
  .next (match mfind s.saved h with
    | none => s.setKstat 2 true
    | some x =>
      if s.rest.isSome then s.setKstat 2 true
      else
        let s1 := s.setLaunch x.lid { s.launch x.lid with killed := true }
        let s2 := { (s1.setKstat 2 false) with saved := mdel s1.saved h }
        match x.single with
        | some i =>
          let p := (mfind (s.launch x.lid).pcls x.vcl).getD x.oldPcl
          (ctxsOf p (some i)).foldl (fun (a : State) c => if (a.thread c).st = .saved then a.killCtx c else a) s2
        | none => x.recs.foldl State.freeRecord (x.msgs.foldl State.departed s2))

end Sys2Proof.Machine
end

