-- ==== Sys2Proof/Machine/Sys.lean ====
section
/-! DEFINITION. Traps as instructions and their return (R393, R394, R414), the system registers (R116 to R118, R391, R415), the
translation invalidations (R416), the coprocessor ring (R418), and the taking of asynchronous causes. -/

namespace Sys2Proof.Machine

/-! ## TRAP, EBRK, ERET -/

/-- TRAP (R414). -/
def execTrap (f : Fld) (s : State) : Host.Outcome State Fault Refusal :=
  issue { irrev := true } f s fun _ => .stop (.trapAfter cSWTRAP (immZ f)) none

/-- EBRK (R414). -/
def execEbrk (f : Fld) (s : State) : Host.Outcome State Fault Refusal :=
  issue { irrev := true } f s fun _ => .stop (.trapAfter cBRK 0) none

/-- The mode after a return from privileged mode: launch code's; a handler context and a steward core have no user mode (log
entry 31). -/
def modeAfter (c : Nat) (m : Mode) : Mode := if isSteward c || isHandler c then m else .user

/-- The return from the innermost handler (R394): the state, or `none` where none runs. -/
def State.trapReturn (s : State) : Option State :=
  let t := s.t
  if t.privileged then
    some (s.setT { (t.setAct (t.sys.kstat.getLsbD 0)) with mode := modeAfter s.cur t.mode, pc := t.sys.kpc &&& ~~~(1 : Word) })
  else if t.act then some (s.setT { (t.setAct false) with pc := t.sys.tpc &&& ~~~(1 : Word) })
  else none

/-- ERET (R394). -/
def execEret (f : Fld) (s : State) : Host.Outcome State Fault Refusal :=
  issue { irrev := true } f s fun s =>
    match s.trapReturn with
    | some s1 => .ok s1
    | none => .stop s.ill6 none

/-! ## System registers -/

/-- The four words of an address-range retention register as a launch reads them (R242). -/
def Arr.word (r : Arr) (lid j : Nat) : Word :=
  if r.last ≠ some lid then 0
  else match j with
    | 0 => r.base + BitVec.ofNat 64 (r.ways % 16 * 16 + 2 + b2n (r.holder == some lid))
    | 1 => BitVec.ofNat 64 r.size
    | 2 => BitVec.ofNat 64 r.hits
    | _ => BitVec.ofNat 64 r.ovf

/-- The value of a register by its number (R117, R391); `none` for a number that is not listed. -/
def State.sysReg (s : State) (n : Nat) : Option Word :=
  let t := s.t
  let y := t.sys
  if 0x30 ≤ n ∧ n < 0x40 then some ((mget {} s.arrs ((n - 0x30) / 4)).word t.lid (n % 4))
  else match n with
    | 0x000 => some (BitVec.ofNat 64 (t.tid % 2 ^ 18))
    | 0x001 => some (BitVec.ofNat 64 t.win.fb)
    | 0x002 => some t.win.rbsp
    | 0x003 => some t.win.rbsl
    | 0x004 => some ((t.pw ||| 1).setWidth 64)
    | 0x005 => some y.vt
    | 0x006 => some y.rh
    | 0x007 => some t.wstat
    | 0x010 => some y.tcause
    | 0x011 => some y.tpc
    | 0x012 => some y.tval
    | 0x013 => some y.tseq
    | 0x014 => some y.tvec
    | 0x015 => some y.tamask
    | 0x020 => some y.fpcsr
    | 0x100 => some y.kcause
    | 0x101 => some y.kpc
    | 0x102 => some y.kval
    | 0x103 => some y.kseq
    | 0x104 => some y.kvec
    | 0x105 => some y.kstat
    | 0x106 => some y.asid
    | 0x107 => some y.ktext
    | 0x108 => some y.kscr0
    | 0x109 => some y.kscr1
    | _ => none

/-- The checks of a register's number (R116, R415): PRIV, then ILLOP; FPCSR waits for the thread's vector work (R164). -/
def State.withReg (s : State) (n : Nat) (k : State → Word → Res) : Res :=
  if 0x100 ≤ n && !s.t.privileged then .stop (.trap cPRIV 0 0 0 0) none
  else match s.sysReg n with
    | none => .stop s.ill6 none
    | some v => if n = 0x20 then s.afterVec fun s => k s ((s.sysReg n).getD v) else k s v

/-- RDSR (R415). -/
def execRdsr (f : Fld) (s : State) : Host.Outcome State Fault Refusal :=
  issue { irrev := true, names := [f.a] } f s fun s =>
    s.withReg f.imm.toNat fun s v => .ok (s.setW f.a v).advance

/-- WRSR (R415). -/
def execWrsr (f : Fld) (s : State) : Host.Outcome State Fault Refusal :=
  issue { irrev := true, names := [f.a] } f s fun s =>
    s.withReg f.imm.toNat fun s _ => .ok (s.setT (s.t.setSysReg f.imm.toNat (s.W f.a))).advance

/-! ## Invalidations (R416) -/

/-- Accesses of an address space (of every one for `none`) that were translated and are still to be performed; `near` says which
addresses may lie in a dropped page. -/
def State.translatedOut (s : State) (asid : Option Nat) (near : Nat → Bool) : Bool :=
  let mine (c : Nat) : Bool := !isSteward c && asid.all fun a => (s.thread c).sys.asid.toNat == a
  let mid (t : Thread) : Bool := t.pend.any (fun p => near p.va.toNat) || t.vec.mem.any (fun x => near x.addr.toNat) ||
    t.spec.sb.any fun e => near e.va.toNat
  (s.cores.any fun (p : Nat × Core) => (p.2.ring ++ p.2.sring).any fun o => mine o.c) ||
    (s.thr.any fun (p : Nat × Thread) => mine p.1 && mid p.2) ||
    (s.clus.any fun (p : Nat × Cluster) => p.2.cmds.any fun k => k.state == 0 && !k.units.isEmpty && asid.all (· == k.asid))

/-- An invalidation: a fence first, then the entries go once everything translated through them is performed. -/
def State.invalidate (s : State) (asid : Option Nat) (near : Nat → Bool) (hit : TlbEnt → Bool) : Res :=
  s.afterRelease true fun s =>
    if s.translatedOut asid near then .stop .wait none
    else .ok (({ s with tlb := s.tlb.filter fun e => !hit e }).acquire s.cur).advance

/-- The addresses that can share a page with an address: those of the cached page that holds it, else of the largest page, 1 GiB
(R396). -/
def State.samePage (s : State) (asid va a : Nat) : Bool :=
  match s.tlb.find? fun e => e.asid == asid && decide (e.va ≤ va) && decide (va < e.va + e.size) with
  | some e => decide (e.va ≤ a) && decide (a < e.va + e.size)
  | none => a / 2 ^ 30 == va / 2 ^ 30

/-- TLBINV (R416). -/
def execTlbinv (f : Fld) (s : State) : Host.Outcome State Fault Refusal :=
  issue { mode := 1, irrev := true, names := [f.a, f.b] } f s fun s =>
    let va := (s.W f.a).toNat
    let asid := bitsOf (s.W f.b) 15 0
    s.invalidate (some asid) (s.samePage asid va) fun e => e.asid == asid && decide (e.va ≤ va) && decide (va < e.va + e.size)

/-- TLBINVA (R416). -/
def execTlbinva (f : Fld) (s : State) : Host.Outcome State Fault Refusal :=
  issue { mode := 1, irrev := true, names := [f.a] } f s fun s =>
    let all := (s.W f.a).getLsbD 63
    let asid := bitsOf (s.W f.a) 15 0
    s.invalidate (if all then none else some asid) (fun _ => true) fun e => all || e.asid == asid

/-! ## The coprocessor ring (R407, R418) -/

/-- Word j of a ring entry (R407). -/
def RingEnt.word (e : RingEnt) (j : Nat) : Word :=
  match j with
  | 0 => e.pc &&& 0x00FFFFFFFFFFFFFF
  | 1 => BitVec.ofNat 64 (e.base.toNat + e.sub % 256 * 2 ^ 16 + e.status % 256 * 2 ^ 24 + e.seqno.toNat * 2 ^ 32 + e.maj % 16 * 2 ^ 52 +
      e.page % 8 * 2 ^ 56 + e.ctx % 4 * 2 ^ 60 + 2 ^ 63)
  | 2 => e.snap0
  | _ => e.snap1

/-- RINGRD (R418). -/
def execRingrd (f : Fld) (s : State) : Host.Outcome State Fault Refusal :=
  issue { irrev := true, names := [f.a, f.b] } f s fun s =>
    let w := s.W f.b
    let x := if s.t.privileged && w.getLsbD 24 then bitsOf w 21 20 else if isHandler s.cur then 4 else s.cur % 4
    let e := (s.core (coreId s.cur)).cring.find? fun e => e.ctx == x && e.seqno.toNat == bitsOf w 11 0
    .ok (s.setW f.a (match e with | some r => r.word (bitsOf w 17 16) | none => 0)).advance

/-! ## Asynchronous causes (R393, R183, R269, R330, R413) -/

/-- A late fault is raised (R183, R330): CPFAULT, or for a VPROT the freeze. -/
def State.raiseLate (s : State) (c : Nat) (l : Late) (rest : List Late) : State :=
  let t := s.thread c
  let vec := l.sub < 16
  let s1 := s.setThread c { t with vec := { t.vec with late := rest, raised := t.vec.raised || vec } }
  let val := BitVec.ofNat 64 (l.sub * 2 ^ 56 + l.addr.toNat % 2 ^ 56)
  if l.sub = 3 then s1.freezeThread c (causeWord cPROT (b2n l.store) 0 0) t.pc val l.addr (some l.seqno)
  else s1.takeTrap c cCPFAULT (causeWord cCPFAULT 0 0 0) t.pc val (some l.seqno)

/-- May the context take an asynchronous cause now: it is in user mode with no handler, at an instruction it would issue or waits in,
not speculative, and not asked to stop (R13, R393)? -/
def State.asyncOpen (s : State) (c : Nat) : Bool :=
  let t := s.thread c
  (t.st == .run || t.st == .parked || t.st == .qwait) && t.mode == .user && !t.act && t.pend.isNone && !t.stopReq && !t.spec.abort && !s.speculative c

/-- A context takes at most one pending cause: a late fault, then PROMISE in completion order, then PREEMPT before its first
instruction after the restore. -/
def State.takeAsync (s : State) (c : Nat) : State :=
  let t := s.thread c
  if !s.asyncOpen c then s
  else match t.vec.late with
    | l :: rest => s.raiseLate c l rest
    | [] =>
      match t.promise with
      | b :: bs => (s.setThread c { t with promise := bs }).takeTrap c cPROMISE (causeWord cPROMISE 0 0 0) t.pc b none
      | [] =>
        match t.preempt with
        | some g =>
          if t.st = .run then
            (s.setThread c { t with preempt := none }).takeTrap c cPREEMPT (causeWord cPREEMPT 0 0 0) t.pc (BitVec.ofNat 64 g) none
          else s
        | none => s

/-- ASYNC_TRAP_TAKE (R393). -/
def execAsyncTrapTake (pid : Nat) (s : State) : Host.Outcome State Fault Refusal := .next (s.takeAsync pid)

end Sys2Proof.Machine
end

