-- ==== Sys2Proof/Machine/Host.lean ====
section
/-! DEFINITION. The host link, the peers, trust, energy and retention (R422 to R437): host and peer requests, TDISP, IDE and SPDM
messages, link failures, the meters, the retention state, power and boot. -/

namespace Sys2Proof.Machine

/-! ## Ports -/

/-- Sets a host port. -/
def State.setPort (s : State) (e : Nat) (p : Port) : State :=
  { s with outer := { s.outer with ports := mset s.outer.ports e p } }

/-- What a port sends out: 0 a completion with its bytes, 1 Unsupported Request, 2 the SPDM version, 3 measurements, 4 the
algorithms, 5 the certificate chain, 6 a key-exchange response, 7 an ERROR, 8 an acknowledgement. -/
def State.portOut (s : State) (e code : Nat) (bs : List Byte) : State :=
  let p := s.port e
  s.setPort e { p with out := p.out ++ [(code, bs)] }

/-- A request that is not served: a posted write is discarded, another completes with Unsupported Request. -/
def State.turnAway (s : State) (e : Nat) (r : BusReq) : State :=
  if r.kind = 1 ∨ r.kind = 3 then s else s.portOut e 1 []

/-! ## HL registers (R424) -/

/-- A write of HL_DOORBELL, passed on as a write of QSCH_DOORBELL (R424). -/
def State.hlDoorbell (s : State) (v : Nat) : State := s.doorbell (v % 4096)
/-- A write of HL_EVENT (R424): ones clear. -/
def State.hlClear (s : State) (e v : Nat) : State :=
  let p := s.port e
  s.setPort e { p with event := p.event - (p.event &&& v) }

/-! ## Retention (R435 to R437) -/

/-- The placed clusters that are not being saved yet. -/
def State.unsaved (s : State) : List Nat :=
  (s.clus.filter fun (p : Nat × Cluster) => p.2.launch.isSome && !p.2.saving).map fun p => p.1

/-- The device enters RETAIN (R435 steps 4 to 7): no cluster is placed any more. -/
def State.retained (s : State) : State :=
  let s1 := { s with clus := s.clus.map fun (p : Nat × Cluster) => (p.1, { p.2 with l1 := [] }) }
  let r : Retain := { s1.outer.retain with entering := false, on := true, gx := s.gtime, ticks := 0 }
  let s2 := { s1 with outer := { s1.outer with retain := r } }
  (s2.hlEvent 0 1).hlEvent 1 1

/-- Entry goes on (R435): it waits for a commit or a pre-emption under way, then pre-empts every placed cluster, and ends when each
is saved. -/
def State.enterTurn (s : State) : State :=
  if !s.outer.retain.entering then s
  else if s.dram.amap.busy || nbit s.kstat 0 || s.rest.isSome then s
  else
    let s1 := s.unsaved.foldl (fun (a : State) p =>
      let k := a.clu p
      let b := (ctxsOf p none).foldl State.askStop a
      (b.setClu p { b.clu p with saving := true }).setEntry (k.launch.getD 0) k.vcl fun e => e ||| 0x4000) s
    if s1.clus.any fun (p : Nat × Cluster) => p.2.launch.isSome then s1 else s1.retained

/-- A request to enter RETAIN (R435); without effect during entry and in RETAIN. -/
def State.retainReq (s : State) : State :=
  let r := s.outer.retain
  if r.entering || r.on then s.enterTurn
  else
    ({ s with outer := { s.outer with retain := { r with entering := true, before := s.saved.map fun (p : Nat × Saved) => p.1 } } }).enterTurn

/-- RETAIN_ENTER (R435): a request, or the turn of the entry under way. -/
def execRetainEnter (s : State) : Host.Outcome State Fault Refusal := .next s.retainReq

/-- POWER_WARNING (R435). -/
def execPowerWarning (s : State) : Host.Outcome State Fault Refusal :=
  .next ({ s with outer := { s.outer with retain := { s.outer.retain with warning := true } } }).retainReq

/-- Deadlines of a slot that GTIME has passed (R437). -/
def State.passed (s : State) (n : Nat) : Nat :=
  let x := s.slot n
  if x.period = 0 ∨ s.gtime < x.deadline then 0 else (s.gtime - x.deadline) / x.period + 1

/-- The promises of saved threads and commands are void (R437 step 3). -/
def Saved.voided (x : Saved) : Saved :=
  { x with thr := x.thr.map fun (p : Nat × Thread) => (p.1, { p.2 with promise := [] }),
           clu := { x.clu with cmds := x.clu.cmds.map fun k => { k with voided := true } } }

/-- Clears the PROMISE count in a saved thread's record (R437 step 3). -/
def State.clearPromise (s : State) (x : Saved) (ctx : Nat) : State :=
  let w : Who := { core := x.oldPcl * 16, pcl := x.oldPcl, asid := (s.launch x.lid).asid, priv := true, handler := true, steward := false }
  match s.handlerWrite w (s.saveBlock x.lid x.vcl + BitVec.ofNat 64 (0x1000 * ctx + 0xCF2)) [0] with
  | .ok s1 => s1
  | .error _ => s

/-- The first steps of resumption (R437): GTIME, the promises, the slots with no OVERRUN, BROWNOUT; the saved clusters are
then to be restored, those saved at entry first (log entry 36). -/
def State.resumeStart (s : State) : State :=
  let r := s.outer.retain
  let s0 := s.saved.foldl (fun (a : State) (p : Nat × Saved) =>
    p.2.thr.foldl (fun (b : State) (t : Nat × Thread) => if t.2.promise.isEmpty then b else b.clearPromise p.2 t.1) a) s
  let cs := (s0.saved.filter fun (p : Nat × Saved) => p.2.single.isNone).map fun (p : Nat × Saved) => p.1
  let hs := (cs.filter fun h => !r.before.contains h) ++ cs.filter r.before.contains
  let s1 := { s0 with gtime := (r.gx + 65536 * (r.ticks + 1)) % 2 ^ 64,
                      saved := s0.saved.map fun (p : Nat × Saved) => (p.1, p.2.voided),
                      outer := { s0.outer with retain := { r with resuming := true, todo := hs } } }
  let n := (slotNos.map s1.passed).foldl (· + ·) 0
  let s2 := slotNos.foldl (fun (a : State) k => a.replenish k) s1
  s2.post 8 0 0 n

/-- Alarms that are due, by time and tid (R437 step 5). -/
def State.dueAlarms (s : State) : List (Nat × Nat × Nat) :=
  let all := s.thr.filterMap fun (p : Nat × Thread) =>
    match p.2.mail.alarm with
    | some (d, _) => if d ≤ s.gtime then some (d, p.2.tid, p.1) else none
    | none => none
  all.foldl (fun acc x =>
    let less (y : Nat × Nat × Nat) : Bool := decide (y.1 < x.1) || (y.1 == x.1 && decide (y.2.1 ≤ x.2.1))
    acc.takeWhile less ++ x :: acc.dropWhile less) []

/-- An alarm posts (R362). -/
def State.fireAlarm (s : State) (c : Nat) : State :=
  match execAlarmFire c s with
  | .next s1 => s1
  | _ => s

/-- Resumption ends (R437 step 6); a warning that arrived during it is taken now. -/
def State.resumeEnd (s : State) : State :=
  let s1 := s.dueAlarms.foldl (fun (a : State) x => a.fireAlarm x.2.2) s
  let s2 := { s1 with outer := { s1.outer with retain := { s1.outer.retain with on := false, resuming := false, before := [] } } }
  let s3 := (s2.hlEvent 0 2).hlEvent 1 2
  if s3.outer.retain.warning then s3.retainReq else s3

/-- Where resumption restores a saved cluster: its old place where that is idle, else the lowest idle cluster (log entry 36). -/
def State.resumePlace (s : State) (x : Saved) : Option Nat :=
  (x.oldPcl :: List.range 4096).find? fun p => (s.clu p).launch.isNone && !s.mapped.contains p

/-- Resumption's turn: its start, the restore of the next saved cluster, its end. -/
def State.resumeTurn (s : State) : State :=
  let r := s.outer.retain
  if !r.on then s
  else if !r.resuming then (if r.warning then s else s.resumeStart)
  else match s.rest with
    | some (h, p) => s.restTurn h p
    | none =>
      match r.todo with
      | [] => s.resumeEnd
      | h :: hs =>
        let s1 := { s with outer := { s.outer with retain := { r with todo := hs } } }
        match (mfind s1.saved h).bind s1.resumePlace with
        | none => s1
        | some p => ({ (s1.setKstat 1 true) with rest := some (h, p) }).restTurn h p

/-- RETAIN_RESUME (R437). -/
def execRetainResume (s : State) : Host.Outcome State Fault Refusal := .next s.resumeTurn

/-- POWER_WARNING_CLEAR (R437): the warning has stayed deasserted for the exit delay. -/
def execPowerWarningClear (s : State) : Host.Outcome State Fault Refusal :=
  .next ({ s with outer := { s.outer with retain := { s.outer.retain with warning := false } } }).resumeTurn

/-- POWER_LOSS (R437): a cut of power in RETAIN loses all state; what is left is the form of the part. -/
def execPowerLoss (s : State) : Host.Outcome State Fault Refusal :=
  .next (if s.outer.retain.on then { State.reset with form := s.form, fresh := s.fresh + 1 } else s)

/-! ## Host requests (R424 to R427) -/

/-- A write of BAR0 (R424); only HL_DOORBELL, HL_EVENT and HL_RETAIN take one. -/
def State.bar0Write (s : State) (e o v : Nat) : State :=
  if o = 0 then s.hlDoorbell v
  else if o = 8 then s.hlClear e v
  else if o = 0x18 then
    let s1 := if nbit v 0 then s.retainReq else s
    if nbit v 1 then s1.resumeTurn else s1
  else s

/-- The first byte of BAR0, whose steward view is the HL block (R423). -/
def hlBase (e : Nat) : Nat := stewBase + 0x10000000 * e + 0x50000

/-- A BAR0 request (R423, R424): an access that is not aligned to its size or crosses a register has no effect; a narrow write acts
as a full one whose other bytes are zero. -/
def State.bar0 (s : State) (e : Nat) (r : BusReq) : State :=
  let o := r.addr % 65536
  if r.kind = 2 then s.portOut e 0 (leBytes r.size (s.stewRead (hlBase e + o) r.size))
  else if r.size = 0 ∨ 8 < r.size ∨ o % r.size ≠ 0 then s
  else s.bar0Write e (o / 8 * 8) (leVal (r.data.take r.size) * 256 ^ (o % 8) % 2 ^ 64)

/-- Does every byte of a request lie in DRAM that BAR2 maps? -/
def State.bar2Backed (s : State) (r : BusReq) : Bool :=
  decide (0 < r.size) && decide (r.addr + r.size ≤ 2 ^ 42) &&
    (sectorPieces (r.size / 256 + 2) r.addr r.size).all fun p =>
      match s.backing p.1 with
      | .hbm _ | .lpddr _ _ => true
      | _ => false

/-- The AtomicOps that the port completes (R424): FetchAdd, Swap and CAS of 32 or 64 bits, aligned. -/
def atomicOk (r : BusReq) : Bool :=
  (r.kind == 8 || r.kind == 16 || r.kind == 17) && (r.size == 4 || r.size == 8) && r.addr % r.size == 0

/-- Does a request freeze the host function (R426)? -/
def State.freezesHost (s : State) (e : Nat) (r : BusReq) : Bool :=
  let p := s.port e
  !s.bar2Backed r || (p.tdi == .run && !(r.tbit && p.bound.contains r.stream))

/-- Can the homes of a request serve it now? -/
def State.busReady (s : State) (r : BusReq) : Bool :=
  (sectorPieces (r.size / 256 + 2) r.addr r.size).all fun p => s.ready none (.phys p.1) p.2 (r.kind != 0)

/-- Reads a range at its homes, without any L1 copy; `none` for an uncorrectable error. -/
def State.busRead (s : State) (addr n : Nat) : State × Option (List Byte) :=
  let q := State.l2Read { code := 0 } 0 true (sectorPieces (n / 256 + 2) addr n) s
  (q.1, if q.2 then none else some (s.bytesAt (.phys addr) n))

/-- Performs a request of DRAM at its homes (R425, R429): the state, and the answer of a read or an atomic. -/
def State.busPerform (s : State) (r : BusReq) : State × Option (Option (List Byte)) :=
  let w : Writer := { c := none, vt := 0, code := 0 }
  if r.kind = 1 then (s.homeWrite w (.phys r.addr) ((r.data ++ List.replicate r.size 0).take r.size) 0, none)
  else
    let q := s.busRead r.addr r.size
    if r.kind = 0 then (q.1, some q.2)
    else match q.2 with
      | none => (q.1, some none)
      | some bs =>
        let a := leVal (r.data.take r.size)
        let b := leVal ((r.data.drop r.size).take r.size)
        let new := amoNew (r.kind - 8) r.size (leVal bs) a b
        (q.1.homeWrite w (.phys r.addr) (leBytes r.size new) 0, some (some bs))

/-- The host function freezes (R404, R426): the request is held first. -/
def State.freezeHost (s : State) (e : Nat) (r : BusReq) : State :=
  let p := s.port e
  let s1 := s.setPort e { p with frozen := true, held := r :: p.held }
  s1.makeRec (mkRec s1 (hostMaster e r.rid) 1 (causeWord cPROT (if r.kind = 1 then 1 else if r.kind = 0 then 0 else 3) 0 0)
    (BitVec.ofNat 64 r.addr))

/-- A stream that fails its integrity check (R427): the request is discarded, the stream Insecure. -/
def State.ideFail (s : State) (e n : Nat) : State :=
  let p := s.port e
  (s.setPort e { p with ide := mset p.ide n false }).hlEvent e 5

/-- A port serves a request, freezes on it, or turns it away; `none` where its homes cannot serve it now. -/
def State.serve (s : State) (e : Nat) (r : BusReq) : Option State :=
  let p := s.port e
  if r.stream ≠ 0 ∧ mget false p.ide r.stream = false then some (s.turnAway e r)
  else if r.stream ≠ 0 ∧ r.intact = false then some (s.ideFail e r.stream)
  else if r.kind = 2 ∨ r.kind = 3 then some (s.bar0 e r)
  else if s.outer.bootfail then some (s.turnAway e r)
  else if s.freezesHost e r then some (s.freezeHost e r)
  else if 1 < r.kind ∧ atomicOk r = false then some (s.turnAway e r)
  else if !s.busReady r then none
  else
    let q := s.busPerform r
    some (match q.2 with
      | none => q.1
      | some none => q.1.portOut e 1 []
      | some (some bs) => q.1.portOut e 0 bs)

/-- Does a port serve its requests now: its function is not frozen, and the device not on its way into RETAIN or in it? BAR0 is served
in RETAIN. -/
def State.portOpen (s : State) (e : Nat) (r : BusReq) : Bool :=
  !(s.port e).frozen && (r.kind == 2 || r.kind == 3 || !(s.outer.retain.on || s.outer.retain.entering))

/-- Serves held requests in their order while the port is open and the homes serve. -/
def State.drainPort (e : Nat) : Nat → State → State
  | 0, s => s
  | n + 1, s =>
    let p := s.port e
    match p.held with
    | [] => s
    | r :: rs =>
      if !s.portOpen e r then s
      else match (s.setPort e { p with held := rs }).serve e r with
        | some s1 => State.drainPort e n s1
        | none => s

/-- Is a request a write of HL_RETAIN in RETAIN, which passes the requests that the port holds (R435, R437)? -/
def State.wakes (s : State) (e : Nat) (r : BusReq) : Bool :=
  s.outer.retain.on && !(s.port e).frozen && r.kind == 3 && r.addr % 65536 / 8 == 3

/-- A request arrives at a port (R425, R426): behind the ones held, in order. A request that the homes cannot serve now is held. -/
def State.arriveReq (s : State) (e : Nat) (r : BusReq) : State :=
  let s1 := State.drainPort e (s.port e).held.length s
  let p := s1.port e
  let hold := s1.setPort e { p with held := p.held ++ [r] }
  if !s1.wakes e r && (!p.held.isEmpty || !s1.portOpen e r) then hold
  else (s1.serve e r).getD hold

/-- HOST_REQUEST (R425). -/
def execHostRequest (e : Nat) (r : BusReq) (s : State) : Host.Outcome State Fault Refusal := .next (s.arriveReq (e % 2) r)

/-- A host's write of a whole BAR0 register outside any IDE stream. -/
def bar0Req (o v : Nat) : BusReq :=
  { kind := 3, addr := o, size := 8, data := leBytes 8 v, relaxed := false, tbit := false, stream := 0, intact := true, rid := 0 }

/-- HL_DOORBELL (R424, R425). -/
def execHlDoorbell (e q : Nat) (s : State) : Host.Outcome State Fault Refusal := .next (s.arriveReq (e % 2) (bar0Req 0 q))

/-- HL_EVENT_CLEAR (R424). -/
def execHlEventClear (e v : Nat) (s : State) : Host.Outcome State Fault Refusal := .next (s.arriveReq (e % 2) (bar0Req 8 v))

/-- The answer to a peer's load or atomic; 1 for one that its home does not serve. -/
def State.peerAnswer (s : State) (code : Nat) (bs : List Byte) : State :=
  { s with outer := { s.outer with peerReply := s.outer.peerReply ++ [(code, bs)] } }

/-- PEER_REQUEST (R429): a peer's load, store or AMO is performed at its home; nothing arrives over a link that is down. -/
def execPeerRequest (peer : Nat) (r : BusReq) (s : State) : Host.Outcome State Fault Refusal :=
  .next (
    if mhas s.outer.peerPort peer = false ∨ s.outer.linkDown.contains (mget 0 s.outer.peerPort peer) = true ∨ s.outer.retain.on = true then s
    else if !((sectorPieces (r.size / 256 + 2) r.addr r.size).all fun p =>
        decide (p.1 + p.2 ≤ 2 ^ 51) && (match s.backing p.1 with | .hbm _ | .lpddr _ _ => true | _ => false)) then s.peerAnswer 1 []
    else if !s.busReady r then s
    else
      let q := s.busPerform r
      match q.2 with
      | none => q.1
      | some none => q.1.peerAnswer 1 []
      | some (some bs) => q.1.peerAnswer 0 bs)

/-! ## TDISP, IDE and SPDM (R427, R428, R432) -/

/-- Are security messages answered at all: not after BOOTFAIL but for GET_VERSION and GET_MEASUREMENTS (R430)? -/
def State.spdmOpen (s : State) : Bool := !s.outer.bootfail

/-- The address-space bindings at a lock (R428). -/
def State.bindings (s : State) : List (Nat × Nat × Nat) :=
  (slotNos.filter fun n => (s.slot n).map).map fun n => (n, (s.slot n).qnum, (s.queue (s.slot n).qnum).asid)

/-- LOCK_INTERFACE (R428, R432): bindings are fixed and measurement block 5 is extended. -/
def execLockInterface (e : Nat) (s : State) : Host.Outcome State Fault Refusal :=
  let p := s.port e
  .next (
    if !s.spdmOpen || !p.session || p.tdi != .unlocked then s.portOut e 7 []
    else
      let sec := (p.ide.filter fun (x : Nat × Bool) => x.2).map (·.1)
      (s.setPort e { p with tdi := .locked, bndQt := s.sched.qtbase, bnd := s.bindings, bound := sec, locks := p.locks + 1 }).portOut e 8 [])

/-- START_INTERFACE_REQUEST (R428). -/
def execStartInterfaceRequest (e : Nat) (s : State) : Host.Outcome State Fault Refusal :=
  let p := s.port e
  .next (if !s.spdmOpen || !p.session || p.tdi != .locked then s.portOut e 7 []
    else (s.setPort e { p with tdi := .run }).portOut e 8 [])

/-- STOP_INTERFACE_REQUEST (R428). -/
def execStopInterfaceRequest (e : Nat) (s : State) : Host.Outcome State Fault Refusal :=
  let p := s.port e
  .next (if !s.spdmOpen || !p.session then s.portOut e 7 []
    else (s.setPort e { p with tdi := .unlocked, bnd := [], bound := [] }).portOut e 8 [])

/-- KEY_INSTALL (R280, R428, R453): a key slot of the copy engine of the owner's cluster; answered once the slot is VALID. -/
def execKeyInstall (e pcl slot owner sid key : Nat) (s : State) : Host.Outcome State Fault Refusal :=
  let p := s.port e
  let k := s.clu pcl
  let bound := match k.launch with
    | some l => (s.launch l).active && p.bnd.any (fun b => b.2.2 == (s.launch l).asid) && k.vcl == owner / 64 &&
        decide (owner % 4 < (s.launch l).ectx)
    | none => false
  .next (
    if !s.spdmOpen || !p.session || !(p.tdi == .locked || p.tdi == .run) || !bound || decide (16 ≤ slot) then s.portOut e 7 []
    else
      let x : KeySlot := { valid := true, owner := owner % 2 ^ 18, sid := sid % 2 ^ 32, key := key % 2 ^ 256, tdi := some e }
      (s.setClu pcl { k with keys := mset k.keys slot x }).portOut e 8 [])

/-- IDE_KEY_PROGRAMMING (R427): a stream is keyed inside a session, and is secure. -/
def execIdeKeyProgramming (e stream : Nat) (s : State) : Host.Outcome State Fault Refusal :=
  let p := s.port e
  .next (if !s.spdmOpen || !p.session || stream = 0 || decide (5 < stream) then s.portOut e 7 []
    else (s.setPort e { p with ide := mset p.ide stream true }).portOut e 8 [])

/-- NEGOTIATE_ALGORITHMS (R432): ERROR where no algorithm is common. -/
def execNegotiateAlgorithms (e common : Nat) (s : State) : Host.Outcome State Fault Refusal :=
  let p := s.port e
  .next (if !s.spdmOpen then s.portOut e 7 []
    else if common = 0 then (s.setPort e { p with negotiated := false }).portOut e 7 []
    else (s.setPort e { p with negotiated := true }).portOut e 4 [])

/-- The bytes of a 384-bit value. -/
def bytes384 (v : BitVec 384) : List Byte := (leBytes 48 v.toNat).reverse

/-- KEY_EXCHANGE (R432): a secured session opens; the exchange data and the signature are open values. -/
def execKeyExchange (e : Nat) (s : State) : Host.Outcome State Fault Refusal :=
  let p := s.port e
  .next (if !s.spdmOpen || !p.negotiated then s.portOut e 7 []
    else
      let bs := bytes384 (Config.spdmValue (2 * s.fresh)) ++ bytes384 (Config.spdmValue (2 * s.fresh + 1))
      ({ (s.setPort e { p with session := true }) with fresh := s.fresh + 1 }).portOut e 6 bs)

/-- GET_CERTIFICATE (R432). -/
def execGetCertificate (e : Nat) (s : State) : Host.Outcome State Fault Refusal :=
  .next (if !s.spdmOpen then s.portOut e 7 [] else s.portOut e 5 ((List.range Config.certSize).map Config.certByte))

/-- GET_VERSION (R430, R432): SPDM 1.2. -/
def execGetVersion (e : Nat) (s : State) : Host.Outcome State Fault Refusal := .next (s.portOut e 2 [0x12])

/-- The digest in a measurement block (R432): blocks 1 to 4 are extended at boot, block 5 at each lock. -/
def State.digest (s : State) (e idx : Nat) : List Byte :=
  bytes384 (Config.digest idx (if idx = 5 then (s.port e).locks else s.outer.meas))

/-- GET_MEASUREMENTS (R432): block 1 to 5, all of them for 255, their number for 0. -/
def execGetMeasurements (e idx : Nat) (s : State) : Host.Outcome State Fault Refusal :=
  .next (if idx = 0 then s.portOut e 3 [5]
    else if idx ≤ 5 then s.portOut e 3 (s.digest e idx)
    else if idx = 255 then s.portOut e 3 (([1, 2, 3, 4, 5].map (s.digest e)).flatten)
    else s.portOut e 7 [])

/-! ## Links (R72, R429) -/

/-- A thread whose access a failed link stops freezes (R404). -/
def State.freezeCut (s : State) (c acc : Nat) (va : Word) : State :=
  let t := s.thread c
  if (t.st == .run || t.st == .parked || t.st == .qwait) && !s.speculative c && !isSteward c then
    s.freezeThread c (causeWord cPROT acc 0 0) t.pc va va none
  else s

/-- Every master whose access cannot complete any more freezes. -/
def State.freezeStuck (s : State) : State :=
  let s1 := s.thr.foldl (fun (a : State) (p : Nat × Thread) =>
    match p.2.pend with
    | some q => if s.cutFor (some p.1) q.loc then a.freezeCut p.1 (if q.kind = 1 then 0 else if q.kind < 5 then 3 else 1) q.va else a
    | none => match p.2.vec.mem.find? (fun q => s.cutFor (some p.1) q.loc) with
      | some q => a.freezeCut p.1 (b2n q.store) q.addr
      | none => a) s
  let ops := (s.cores.map fun (p : Nat × Core) => p.2.loop ++ p.2.ring ++ p.2.sring).flatten.filter fun o => s.cutFor (some o.c) o.loc
  let sent := s.net.filterMap fun m => if m.kind == 0 && s.msgCut m then (s.ctxOf m.lid m.src).map fun c => (c, 5) else none
  let s2 := (ops.map (fun (o : PathOp) => (o.c, 1)) ++ sent).foldl (fun (a : State) (x : Nat × Nat) =>
    ({ a with fresh := a.fresh + 1 }).freezeCut x.1 x.2 (Config.openAddr a.fresh)) s1
  let cmds := (s.clus.map fun (p : Nat × Cluster) => p.2.cmds.map fun k => (p.1, k)).flatten
  cmds.foldl (fun (a : State) x =>
    if x.2.state = 0 ∧ (x.2.units.any fun u => s.cutFrom x.1 u.loc) = true then
      ({ a with fresh := a.fresh + 1 }).copyFail x.1 x.2 (.prot (Config.openAddr a.fresh)) else a) s2

/-- LINKDOWN (R429): a Greja port stays down; the device has eight (R2). -/
def execLinkdown (port : Nat) (s : State) : Host.Outcome State Fault Refusal :=
  .next (
    if 8 ≤ port ∨ s.outer.linkDown.contains port = true then s
    else
      let s1 := { s with outer := { s.outer with linkDown := port :: s.outer.linkDown } }
      ((((s1.hlEvent 0 4).hlEvent 1 4).post 9 0 0 port).freezeStuck))

/-- UCIE_LINK_DOWN (R72): the links of a Callisto die stay down; the device has eight (R2). -/
def execUcieLinkDown (die : Nat) (s : State) : Host.Outcome State Fault Refusal :=
  .next (
    if 8 ≤ die ∨ s.outer.dieDown.contains die = true then s
    else
      let s1 := { s with outer := { s.outer with dieDown := die :: s.outer.dieDown } }
      (s1.post Config.linkCode 0 0 die).freezeStuck)

/-! ## Energy (R433) -/

/-- What each cluster's meter adds. -/
def State.meterAdd (s : State) (pcl : Nat) : Nat := Config.energyOf pcl s.fresh

/-- Every meter adds its increment, and launches and slots the increments of the clusters that they hold (R63, R433). -/
def State.meters (s : State) : State :=
  let s1 := (List.range 4096).foldl (fun (a : State) p =>
    let n := s.meterAdd p
    { (a.setClu p { a.clu p with meter := ((a.clu p).meter + n) % 2 ^ 64 }) with
      egov := { a.egov with dev := (a.egov.dev + n) % 2 ^ 64 } }) s
  let s2 := s1.launches.foldl (fun (a : State) (l : Nat × Launch) =>
    if l.2.active then
      let n := ((l.2.pcls.filter fun (x : Nat × Nat) => s.heldClu x.2).map fun (x : Nat × Nat) => s.meterAdd x.2).foldl (· + ·) 0
      let x := a.slot l.2.slot
      (a.setLaunch l.1 { l.2 with eused := (l.2.eused + n) % 2 ^ 64 }).setSlot l.2.slot { x with espent := (x.espent + n) % 2 ^ 64 }
    else a) s1
  { s2 with fresh := s.fresh + 1 }

/-- METER_UPDATE (R433). -/
def execMeterUpdate (s : State) : Host.Outcome State Fault Refusal := .next s.meters

/-- CREDIT_REPLENISH (R433). -/
def execCreditReplenish (s : State) : Host.Outcome State Fault Refusal :=
  let g := s.egov
  .next (if g.auto ∧ s.sched.credit < g.cmax then
      { s with sched := { s.sched with credit := min g.cmax (s.sched.credit + g.rate) } }
    else s)

/-! ## Boot (R430, R431) -/

/-- Field f of the configuration image at an index, below a bound. -/
def imgVal (f i n : Nat) : Nat := Config.image f i % n

/-- The initial regions of the configuration image (R431). -/
def imgRegions : SMap Region :=
  (List.range 8).map fun n =>
    (n, { en := imgVal 0 n 2 == 1, base := imgVal 1 n (2 ^ 27) * 4096, log2sz := imgVal 2 n 64,
          rows := (List.range 34).map fun i => (i, imgVal 3 (34 * n + i) (2 ^ 34)) })

/-- Are the values of the configuration image in range (R430 step 4)? -/
def imgOk : Bool :=
  amapCovers imgRegions && !amapSingular imgRegions && (List.range 8).all fun k => imgVal 5 k 16 != 0

/-- The configuration of a stack's repair. -/
def imgRmap (k : Nat) : Rmap := { mode := imgVal 4 k 4, thr := imgVal 5 k 16 }

/-- Peers by number and port, clusters mapped out (R431, R429, R68). -/
def imgPeers : SMap Nat :=
  (List.range 31).filterMap fun i => let v := imgVal 6 (i + 1) 9; if v = 0 then none else some (i + 1, v - 1)
/-- Clusters that the image maps out. -/
def imgMapped : List Nat := (List.range 4096).filter fun p => imgVal 7 p 2 == 1

/-- A steward core as the boot ROM releases it. -/
def stewardThread (c : Nat) : Thread :=
  { st := .run, lid := 2 ^ 32, tid := c, mode := .steward, pc := Config.stewardEntry 0, sys := { kvec := Config.stewardEntry 1 } }

/-- The steward cores: four on each Encke. -/
def stewards : List Nat := (List.range 8).map (2 ^ 19 + ·)

/-- The peers' address-space bindings are the runtime's (R429); the configuration is applied and the stewards are released (R430). -/
def State.boot (s : State) : State :=
  let s1 := { s with mapped := imgMapped,
                     dram := { s.dram with amap := { staged := imgRegions, active := imgRegions },
                                           rmap := (List.range 8).map fun k => (k, imgRmap k) },
                     outer := { s.outer with booted := true, meas := s.outer.meas + 1, peerPort := imgPeers } }
  stewards.foldl (fun (a : State) c =>
    (a.writeAt (.sram (c - 2 ^ 19) 0) ((List.range 32768).map Config.firmware)).setThread c (stewardThread c)) s1

/-- RESET (R430): everything is as after reset; `steps` of the boot ROM's four steps succeed. A step that fails sets BOOTFAIL at both
ports. -/
def execReset (steps : Nat) (s : State) : Host.Outcome State Fault Refusal :=
  let s0 : State := { State.reset with form := s.form, fresh := s.fresh + 1 }
  .next (
    if 4 ≤ steps ∧ imgOk = true then s0.boot
    else
      let s1 := { s0 with outer := { s0.outer with bootfail := true, meas := if 3 ≤ steps then 1 else 0 } }
      (s1.hlEvent 0 3).hlEvent 1 3)

/-! ## Register writes (R423) -/

/-- A register with the bytes of a narrow write. -/
def mergeReg (old o size v : Nat) : Nat :=
  let sh := 256 ^ (o % 8)
  old - old / sh % 256 ^ size * sh + v % 256 ^ size * sh

/-- Writes a QSCH register or a slot's (R59, R61). -/
def State.qschWrite (s : State) (e o v full : Nat) : State :=
  let q := s.sched
  if o = 0 then s.qschCtl e v
  else if o = 8 then ({ s with sched := { q with qtbase := v &&& 0xFFFFFFFFFFFE0 } }).tdiCheck fun _ => true
  else if o = 0x10 then s.doorbell (full % 4096)
  else if o = 0x18 then { s with sched := { q with eclaim := v % 2 ^ 32 } }
  else if o = 0x20 then { s with sched := { q with credit := v } }
  else if o = 0x28 then { s with sched := { q with evbase := v &&& 0xFFFFFFFFFF000 } }
  else if o = 0x30 then s.evHead v
  else if o = 0x40 then { s with sched := { q with stallp := v } }
  else if 0x100 ≤ o ∧ o < 0x1100 then
    let n := (o - 0x100) / 0x40
    let x := s.slot n
    match o % 0x40 / 8 with
    | 0 => s.qsCtl n v
    | 1 => s.setSlot n { x with period := v }
    | 2 => s.setSlot n { x with tbud := v }
    | 3 => s.setSlot n { x with ebud := v }
    | 4 => s.setSlot n { x with deadline := v }
    | _ => s
  else s

/-- Writes an AMAP register (R247, R248): ignored while BUSY. -/
def State.amapWrite (s : State) (o v full : Nat) : State :=
  let a := s.dram.amap
  let put (n : Nat) (r : Region) : State := { s with dram := { s.dram with amap := { a with staged := mset a.staged n r } } }
  if a.busy then s
  else if o = 0 then (if nbit full 0 then s.amapCommit else s)
  else if 8 ≤ o ∧ o < 0x48 then
    let r := Amap.region a.staged (o / 8 - 1)
    put (o / 8 - 1) { r with en := nbit v 63, base := v / 2 ^ 12 % 2 ^ 27 * 2 ^ 12, log2sz := v % 64 }
  else if 0x200 ≤ o ∧ o < 0x1200 ∧ o % 0x200 < 0x110 then
    let r := Amap.region a.staged (o / 0x200 - 1)
    put (o / 0x200 - 1) { r with rows := mset r.rows (o % 0x200 / 8) (v % 2 ^ 34) }
  else s

/-- Writes a PMIG register (R251). -/
def State.pmigWrite (s : State) (e o v : Nat) : State :=
  let p := s.pmig e
  match o / 8 with
  | 0 => s.setPmig e { p with en := nbit v 0 }
  | 1 => s.setPmig e { p with ppt := v &&& 0xFFFFFFFFFF000 }
  | 2 => s.setPmig e { p with npages := min (v % 2 ^ 27) (2 ^ 26) }
  | 3 => s.setPmig e { p with freeh := v &&& 0xFFFFFFFFFFFF8 }
  | 4 => s.setPmig e { p with nfreeh := v % 2 ^ 32 }
  | 5 => if s.form = .m then s.setPmig e { p with freel := v &&& 0xFFFFFFFFFFFF8 } else s
  | 6 => s.setPmig e { p with nfreel := v % 2 ^ 32 }
  | _ => s

/-- KCTL_REPLY (R402): a waiting command or job retries, or fails; the record is freed. -/
def State.kctlReply (s : State) (k fail : Nat) : State :=
  let r : SRec := mget {} s.srec k
  let pcl := bitsOf r.w0 47 36
  if !r.w1.getLsbD 63 then s
  else
    let s1 := s.freeRecord k
    if bitsOf r.w1 62 60 ≠ 2 then s1
    else match bitsOf r.w0 63 60 with
      | 1 => (match (s1.clu pcl).cmd (bitsOf r.w0 5 0) with
        | some c =>
          if c.state ≠ 1 then s1
          else if fail = 0 then s1.setCmd pcl { c with state := 0 } else s1.copyEnd pcl c 6
        | none => s1)
      | 2 =>
        let half := bitsOf r.w0 32 32
        (match (((s1.clu pcl).eng half).groups.find? fun (g : Nat × Group) => g.2.place == some (bitsOf r.w0 0 0)) with
        | some (n, g) =>
          if !g.wait then s1
          else if fail = 0 then s1.setGrp pcl half n { g with wait := false }
          else match g.jobs.head? with
            | some j => s1.jobDiscard pcl half n { g with wait := false } j 20 r.w2
            | none => s1
        | none => s1)
      | _ => s1

/-- KCTL_REPLY (R402). -/
def execKctlReply (k fail : Nat) (s : State) : Host.Outcome State Fault Refusal := .next (s.kctlReply (k % 256) (fail % 2))

/-- Writes a KCTL register (R400). -/
def State.kctlWrite (s : State) (o v full : Nat) : State :=
  if o = 0 then { s with astab := v &&& 0xFFFFFFFFFF000 }
  else if o = 8 then
    (if nbit full 17 then s.preempt (full % 4096) (if nbit full 16 then some (full / 2 ^ 12 % 16) else none) else s)
  else if o = 0x10 then
    (if !nbit full 29 then s
    else if nbit full 28 then
      (match execRestoreDiscard (full % 65536) s with | .next s1 => s1 | _ => s)
    else s.restoreReq (full % 65536) (full / 2 ^ 16 % 4096))
  else if o = 0x20 then s.kctlReply (full % 256) (full / 256 % 2)
  else s

/-- Writes an EGOV register (R433). -/
def State.egovWrite (s : State) (o v : Nat) : State :=
  if o = 0 then { s with egov := { s.egov with auto := nbit v 0 } }
  else if o = 8 then { s with egov := { s.egov with rate := v } }
  else if o = 0x10 then { s with egov := { s.egov with cmax := v } }
  else if o = 0x18 then { s with egov := { s.egov with cstep := v % 4 } }
  else s

/-- Writes an ELOG register (R258). -/
def State.elogWrite (s : State) (b o v full : Nat) : State :=
  let l := s.elog b
  if o = 0x808 then (if nbit full 0 then s.setElog b { l with ents := [], ovf := false } else s)
  else if 0x900 ≤ o ∧ o < 0xD00 ∧ o % 16 = 0 then s.setElog b { l with ecnt := mset l.ecnt ((o - 0x900) / 16) (BitVec.ofNat 64 v) }
  else s

/-- Writes an HPHY register (R260 to R262). -/
def State.phyWrite (s : State) (stack ch o v full : Nat) : State :=
  let p := s.phy stack ch
  if o < 0x110 then (if p.online then s else s.setPhy stack ch { p with rdly := mset p.rdly (o / 8) (v % 64) })
  else if o < 0x220 then (if p.online then s else s.setPhy stack ch { p with wdly := mset p.wdly ((o - 0x110) / 8) (v % 64) })
  else if o = 0x230 then s.patGo stack ch (v - v % 2 + full % 2)
  else if o = 0x240 then (if p.online || !lrepOk v then s else s.setPhy stack ch { p with lrep := v &&& 0xBFBF })
  else if o = 0x248 then s.setPhy stack ch { p with online := nbit v 0 }
  else s

/-- A write of a register (R423): `v` merges the covered bytes into an RW register, `full` is what a WO or W1C register receives. -/
def State.regWrite (s : State) (b : Block) (o v full : Nat) : State :=
  match b with
  | .qsch e => s.qschWrite e o v full
  | .amap => s.amapWrite o v full
  | .pmig e => s.pmigWrite e o v
  | .kctl => s.kctlWrite o v full
  | .egov => s.egovWrite o v
  | .hl e => s.bar0Write e o full
  | .elog k => s.elogWrite k o v full
  | .rmap k => if o = 0x18 ∧ nbit full 8 = true then s.mapout k (full % 16) else s
  | .hphy k => s.phyWrite k (o / 0x400) (o % 0x400) v full

/-- REGISTER_WRITE (R423): a write that is not aligned to its size or crosses a register is ignored. -/
def execRegisterWrite (pa size v : Nat) (s : State) : Host.Outcome State Fault Refusal :=
  .next (match blockOf pa with
    | none => s
    | some (b, o) =>
      if (size ≠ 1 ∧ size ≠ 2 ∧ size ≠ 4 ∧ size ≠ 8) ∨ o % size ≠ 0 then s
      else
        let r := o / 8 * 8
        s.regWrite b r (mergeReg (s.regAt b r) o size v) (v % 256 ^ size * 256 ^ (o % 8)))

end Sys2Proof.Machine
end

