-- ==== Sys2Proof/Machine/Steward.lean ====
section
/-! DEFINITION. THAW and KILL (R403 to R406): the masters that an id names, and what becomes of them. -/

namespace Sys2Proof.Machine

/-- What a master id names (R403). -/
inductive Master where
  | thread (c : Nat)
  | copy (pcl slot : Nat)
  | matrix (pcl half group : Nat)
  | host (e : Nat)
deriving DecidableEq, Repr

/-- The master of an id; `none` for an id that names nothing (R403). -/
def State.masterOf (s : State) (m : Word) : Option Master :=
  let pcl := bitsOf m 47 36
  match bitsOf m 63 60 with
  | 0 =>
    if bitsOf m 59 48 ≠ 0 ∨ bitsOf m 31 3 ≠ 0 ∨ (m.getLsbD 2 = true ∧ bitsOf m 1 0 ≠ 0) then none
    else if m.getLsbD 2 then some (.thread (2 ^ 18 + pcl * 16 + bitsOf m 35 32))
    else some (.thread (ctxId pcl (bitsOf m 35 32) (bitsOf m 1 0)))
  | 1 =>
    if bitsOf m 59 48 ≠ 0 ∨ bitsOf m 35 6 ≠ 0 then none
    else if ((s.clu pcl).cmd (bitsOf m 5 0)).isSome then some (.copy pcl (bitsOf m 5 0)) else none
  | 2 =>
    if bitsOf m 59 48 ≠ 0 ∨ bitsOf m 35 33 ≠ 0 ∨ bitsOf m 31 1 ≠ 0 then none
    else
      let half := bitsOf m 32 32
      (((s.clu pcl).eng half).groups.find? fun (g : Nat × Group) => g.2.place == some (bitsOf m 0 0)).map fun g => .matrix pcl half g.1
  | 3 => if bitsOf m 59 17 ≠ 0 then none else some (.host (bitsOf m 16 16))
  | _ => none

/-- Frees the steward record of a master, also one that waits for a place (R401). -/
def State.freeMaster (s : State) (p : Word → Bool) : State :=
  let s1 := { s with srecWait := s.srecWait.filter fun (r : SRec) => !p r.w0 }
  match (s1.srec.find? fun (x : Nat × SRec) => x.2.w1.getLsbD 63 && p x.2.w0) with
  | some x => s1.freeRecord x.1
  | none => s1

/-- The ids of a host function: its requester does not matter (R403). -/
def hostIds (e : Nat) (m : Word) : Bool := bitsOf m 63 60 == 3 && bitsOf m 16 16 == e

/-! ## THAW (R405) -/

/-- Is a master frozen? -/
def State.isFrozen (s : State) (m : Master) : Bool :=
  match m with
  | .thread c => (s.thread c).st == .frozen
  | .copy pcl k => match (s.clu pcl).cmd k with | some x => x.state == 2 | none => false
  | .matrix pcl h n => match s.grp pcl h n with | some g => g.frozen | none => false
  | .host e => (s.port e).frozen

/-- The cause word and the value that a frozen thread recorded (R404). -/
def Thread.frozenCause (t : Thread) : Word × Word :=
  if t.privileged || t.act then (t.sys.kcause, t.sys.kval) else (t.sys.tcause, t.sys.tval)

/-- Mode 0 for a thread: it issues its frozen instruction again; a resident handler goes back to what it was doing. -/
def State.thawThread (s : State) (c : Nat) : State :=
  if isHandler c then s.setThread c {} else s.setThread c { s.thread c with st := .run }

/-- Mode 1: PROT at the frozen instruction, as a trap routed to the runtime; a freeze by another cause records an open value (log
entry 22). -/
def State.thawProt (s : State) (c : Nat) : State :=
  let t := s.thread c
  let x := t.frozenCause
  let prot := bitsOf x.1 7 0 == cPROT
  let cw := causeWord cPROT (if prot then bitsOf x.1 18 16 else 5) 0 0
  let val := if prot then x.2 else Config.thawValue s.fresh
  (({ s with fresh := s.fresh + 1 }).setThread c { t with st := .run }).takeTrap c cPROT cw t.pc val none

/-- Mode 0 for a host function (R426): the freezing request is turned away, and the later ones are released. -/
def State.thawHost (s : State) (e : Nat) : State :=
  let p := s.port e
  match p.held with
  | [] => s.setPort e { p with frozen := false }
  | r :: rs =>
    let s1 := (s.setPort e { p with frozen := false, held := rs }).turnAway e r
    State.drainPort e rs.length s1

/-- THAW's status and effect (R405): BADID, BADMODE, NOTFROZEN in that order. -/
def State.thaw (s : State) (id mode : Word) : State × Nat :=
  match s.masterOf id with
  | none => (s, 2)
  | some m =>
    let isThread := match m with | .thread _ => true | _ => false
    if bitsOf mode 63 1 ≠ 0 ∨ (mode.getLsbD 0 = true ∧ isThread = false) then (s, 3)
    else if !s.isFrozen m then (s, 1)
    else match m with
      | .thread c =>
        let s1 := s.freeMaster (· == threadMaster c)
        (if mode.getLsbD 0 then s1.thawProt c else s1.thawThread c, 0)
      | .copy pcl k =>
        let s1 := s.freeMaster (· == copyMaster pcl k)
        (match (s1.clu pcl).cmd k with | some x => s1.setCmd pcl { x with state := 0 } | none => s1, 0)
      | .matrix pcl h n =>
        (match s.grp pcl h n with
          | some g => (s.freeMaster (· == matrixMaster pcl h (g.place.getD 0))).setGrp pcl h n { g with frozen := false }
          | none => s, 0)
      | .host e => ((s.freeMaster (hostIds e)).thawHost e, 0)

/-- THAW (R405). -/
def execThaw (f : Fld) (s : State) : Host.Outcome State Fault Refusal :=
  issue { mode := 3, irrev := true, names := [f.a, f.b] } f s fun s =>
    let r := s.thaw (s.W f.a) (s.W f.b)
    .ok (r.1.setW f.b (BitVec.ofNat 64 r.2)).advance

/-! ## KILL (R406) -/

/-- KILL of a host function (R426). -/
def State.killHost (s : State) (e : Nat) : State :=
  let p := s.port e
  let s1 := p.held.foldl (fun (a : State) r => a.turnAway e r) s
  let q := s1.port e
  (s1.setPort e { q with frozen := false, held := [] }).tdiError e

/-- KILL's status and effect (R406). -/
def State.kill (s : State) (id : Word) : State × Nat :=
  match s.masterOf id with
  | none => (s, 2)
  | some (.thread c) =>
    if (s.thread c).st = .empty then (s, 4)
    else
      let s1 := s.freeMaster (· == threadMaster c)
      (if isHandler c then s1.setThread c {} else s1.killCtx c, 0)
  | some (.copy pcl k) =>
    let s1 := s.freeMaster (· == copyMaster pcl k)
    (match (s1.clu pcl).cmd k with | some x => if x.state = 3 then s1 else s1.copyEnd pcl x 10 | none => s1, 0)
  | some (.matrix pcl h n) =>
    (match s.grp pcl h n with
      | some g =>
        let s1 := s.freeMaster (· == matrixMaster pcl h (g.place.getD 0))
        (match g.jobs.head? with | some j => s1.jobDiscard pcl h n g j 25 0 | none => s1)
      | none => s, 0)
  | some (.host e) => ((s.freeMaster (hostIds e)).killHost e, 0)

/-- KILL (R406). -/
def execKill (f : Fld) (s : State) : Host.Outcome State Fault Refusal :=
  issue { mode := 3, irrev := true, names := [f.a] } f s fun s =>
    let r := s.kill (s.W f.a)
    .ok (r.1.setW f.a (BitVec.ofNat 64 r.2)).advance

end Sys2Proof.Machine
end

