-- ==== Sys2Proof/Machine/Dispatch.lean ====
section
/-! DEFINITION. The meaning of every instruction and event: one arm each. -/

namespace Sys2Proof.Machine

-- One arm for each row of the table of operations and events.
def exec (i : Instr) (s : State) : Host.Outcome State Fault Refusal :=
  match i with
  | .qschDoorbell e q => Sys2Proof.Machine.execQschDoorbell e q s
  | .qschCtlWrite e v => Sys2Proof.Machine.execQschCtlWrite e v s
  | .qsCtlWrite e slot v => Sys2Proof.Machine.execQsCtlWrite e slot v s
  | .qschEvheadWrite e v => Sys2Proof.Machine.execQschEvheadWrite e v s
  | .replenish slot => Sys2Proof.Machine.execReplenish slot s
  | .overrun slot kind => Sys2Proof.Machine.execOverrun slot kind s
  | .headReexamine slot => Sys2Proof.Machine.execHeadReexamine slot s
  | .blockMark slot => Sys2Proof.Machine.execBlockMark slot s
  | .dispatchDecision => Sys2Proof.Machine.execDispatchDecision s
  | .dispstall => Sys2Proof.Machine.execDispstall s
  | .launchStart l => Sys2Proof.Machine.execLaunchStart l s
  | .retire l => Sys2Proof.Machine.execRetire l s
  | .fetchBlockArrival pid => Sys2Proof.Machine.execFetchBlockArrival pid s
  | .loadDataReturn pid lease => Sys2Proof.Machine.execLoadDataReturn pid lease s
  | .storeAtHome core path n => Sys2Proof.Machine.execStoreAtHome core path n s
  | .reservationGrant pid => Sys2Proof.Machine.execReservationGrant pid s
  | .asyncTrapTake pid => Sys2Proof.Machine.execAsyncTrapTake pid s
  | .vectorIssue pid => Sys2Proof.Machine.execVectorIssue pid s
  | .pageWalk pcl asid va => Sys2Proof.Machine.execPageWalk pcl asid va s
  | .messageDeliver n => Sys2Proof.Machine.execMessageDeliver n s
  | .messageAdmit pid => Sys2Proof.Machine.execMessageAdmit pid s
  | .recvtTimeout pid => Sys2Proof.Machine.execRecvtTimeout pid s
  | .alarmFire pid => Sys2Proof.Machine.execAlarmFire pid s
  | .circuitComplete l level leader => Sys2Proof.Machine.execCircuitComplete l level leader s
  | .specAbort pid => Sys2Proof.Machine.execSpecAbort pid s
  | .storeDrain pid => Sys2Proof.Machine.execStoreDrain pid s
  | .copyComplete pcl slot => Sys2Proof.Machine.execCopyComplete pcl slot s
  | .countedDecrement n => Sys2Proof.Machine.execCountedDecrement n s
  | .allfree pcl tag => Sys2Proof.Machine.execAllfree pcl tag s
  | .streamLookahead pid r => Sys2Proof.Machine.execStreamLookahead pid r s
  | .streamContextDrain pid => Sys2Proof.Machine.execStreamContextDrain pid s
  | .matrixJobComplete pcl half slot => Sys2Proof.Machine.execMatrixJobComplete pcl half slot s
  | .matrixContextDrain pcl half slot => Sys2Proof.Machine.execMatrixContextDrain pcl half slot s
  | .preemptCluster pcl => Sys2Proof.Machine.execPreemptCluster pcl s
  | .preemptCore pcl core => Sys2Proof.Machine.execPreemptCore pcl core s
  | .clusterSaved pcl => Sys2Proof.Machine.execClusterSaved pcl s
  | .restore h pcl => Sys2Proof.Machine.execRestore h pcl s
  | .restoreDiscard h => Sys2Proof.Machine.execRestoreDiscard h s
  | .kctlReply k fail => Sys2Proof.Machine.execKctlReply k fail s
  | .amapCommit => Sys2Proof.Machine.execAmapCommit s
  | .amapCommitDone => Sys2Proof.Machine.execAmapCommitDone s
  | .migration e => Sys2Proof.Machine.execMigration e s
  | .rmapMapout stack die => Sys2Proof.Machine.execRmapMapout stack die s
  | .patrolScrub stack ch => Sys2Proof.Machine.execPatrolScrub stack ch s
  | .elogClr blk => Sys2Proof.Machine.execElogClr blk s
  | .hphyPatGo stack ch v => Sys2Proof.Machine.execHphyPatGo stack ch v s
  | .hphyPatDone stack ch lanes nbad => Sys2Proof.Machine.execHphyPatDone stack ch lanes nbad s
  | .hphyLrepWrite stack ch v => Sys2Proof.Machine.execHphyLrepWrite stack ch v s
  | .hlDoorbell e q => Sys2Proof.Machine.execHlDoorbell e q s
  | .hlEventClear e v => Sys2Proof.Machine.execHlEventClear e v s
  | .retainEnter => Sys2Proof.Machine.execRetainEnter s
  | .powerWarning => Sys2Proof.Machine.execPowerWarning s
  | .retainResume => Sys2Proof.Machine.execRetainResume s
  | .powerWarningClear => Sys2Proof.Machine.execPowerWarningClear s
  | .powerLoss => Sys2Proof.Machine.execPowerLoss s
  | .reset steps => Sys2Proof.Machine.execReset steps s
  | .hostRequest e r => Sys2Proof.Machine.execHostRequest e r s
  | .lockInterface e => Sys2Proof.Machine.execLockInterface e s
  | .keyInstall e pcl slot owner sid key => Sys2Proof.Machine.execKeyInstall e pcl slot owner sid key s
  | .getMeasurements e idx => Sys2Proof.Machine.execGetMeasurements e idx s
  | .getVersion e => Sys2Proof.Machine.execGetVersion e s
  | .linkdown port => Sys2Proof.Machine.execLinkdown port s
  | .ucieLinkDown die => Sys2Proof.Machine.execUcieLinkDown die s
  | .meterUpdate => Sys2Proof.Machine.execMeterUpdate s
  | .creditReplenish => Sys2Proof.Machine.execCreditReplenish s
  | .registerWrite pa size v => Sys2Proof.Machine.execRegisterWrite pa size v s
  | .engineUnitWrite pcl eng slot n => Sys2Proof.Machine.execEngineUnitWrite pcl eng slot n s
  | .hphyChctlWrite stack ch v => Sys2Proof.Machine.execHphyChctlWrite stack ch v s
  | .peerRequest peer r => Sys2Proof.Machine.execPeerRequest peer r s
  | .startInterfaceRequest e => Sys2Proof.Machine.execStartInterfaceRequest e s
  | .stopInterfaceRequest e => Sys2Proof.Machine.execStopInterfaceRequest e s
  | .ideKeyProgramming e stream => Sys2Proof.Machine.execIdeKeyProgramming e stream s
  | .keyExchange e => Sys2Proof.Machine.execKeyExchange e s
  | .negotiateAlgorithms e common => Sys2Proof.Machine.execNegotiateAlgorithms e common s
  | .getCertificate e => Sys2Proof.Machine.execGetCertificate e s
  | .add f => Sys2Proof.Machine.execAdd f s
  | .sub f => Sys2Proof.Machine.execSub f s
  | .and f => Sys2Proof.Machine.execAnd f s
  | .or f => Sys2Proof.Machine.execOr f s
  | .xor f => Sys2Proof.Machine.execXor f s
  | .shl f => Sys2Proof.Machine.execShl f s
  | .shr f => Sys2Proof.Machine.execShr f s
  | .sra f => Sys2Proof.Machine.execSra f s
  | .mul f => Sys2Proof.Machine.execMul f s
  | .mulh f => Sys2Proof.Machine.execMulh f s
  | .mulhu f => Sys2Proof.Machine.execMulhu f s
  | .min f => Sys2Proof.Machine.execMin f s
  | .max f => Sys2Proof.Machine.execMax f s
  | .minu f => Sys2Proof.Machine.execMinu f s
  | .maxu f => Sys2Proof.Machine.execMaxu f s
  | .mov f => Sys2Proof.Machine.execMov f s
  | .addi f => Sys2Proof.Machine.execAddi f s
  | .li f => Sys2Proof.Machine.execLi f s
  | .shli f => Sys2Proof.Machine.execShli f s
  | .shri f => Sys2Proof.Machine.execShri f s
  | .srai f => Sys2Proof.Machine.execSrai f s
  | .andi f => Sys2Proof.Machine.execAndi f s
  | .ori f => Sys2Proof.Machine.execOri f s
  | .xori f => Sys2Proof.Machine.execXori f s
  | .muli f => Sys2Proof.Machine.execMuli f s
  | .div f => Sys2Proof.Machine.execDiv f s
  | .divu f => Sys2Proof.Machine.execDivu f s
  | .rem f => Sys2Proof.Machine.execRem f s
  | .remu f => Sys2Proof.Machine.execRemu f s
  | .clz f => Sys2Proof.Machine.execClz f s
  | .ctz f => Sys2Proof.Machine.execCtz f s
  | .popc f => Sys2Proof.Machine.execPopc f s
  | .brev f => Sys2Proof.Machine.execBrev f s
  | .sextb f => Sys2Proof.Machine.execSextb f s
  | .sexth f => Sys2Proof.Machine.execSexth f s
  | .sextw f => Sys2Proof.Machine.execSextw f s
  | .zextb f => Sys2Proof.Machine.execZextb f s
  | .zexth f => Sys2Proof.Machine.execZexth f s
  | .zextw f => Sys2Proof.Machine.execZextw f s
  | .abs f => Sys2Proof.Machine.execAbs f s
  | .neg f => Sys2Proof.Machine.execNeg f s
  | .eq f => Sys2Proof.Machine.execEq f s
  | .ne f => Sys2Proof.Machine.execNe f s
  | .lt f => Sys2Proof.Machine.execLt f s
  | .ge f => Sys2Proof.Machine.execGe f s
  | .ltu f => Sys2Proof.Machine.execLtu f s
  | .geu f => Sys2Proof.Machine.execGeu f s
  | .tst f => Sys2Proof.Machine.execTst f s
  | .tstn f => Sys2Proof.Machine.execTstn f s
  | .eqi f => Sys2Proof.Machine.execEqi f s
  | .nei f => Sys2Proof.Machine.execNei f s
  | .lti f => Sys2Proof.Machine.execLti f s
  | .gei f => Sys2Proof.Machine.execGei f s
  | .ltui f => Sys2Proof.Machine.execLtui f s
  | .geui f => Sys2Proof.Machine.execGeui f s
  | .pand f => Sys2Proof.Machine.execPand f s
  | .por f => Sys2Proof.Machine.execPor f s
  | .pxor f => Sys2Proof.Machine.execPxor f s
  | .pnot f => Sys2Proof.Machine.execPnot f s
  | .pmov f => Sys2Proof.Machine.execPmov f s
  | .pset f => Sys2Proof.Machine.execPset f s
  | .pclr f => Sys2Proof.Machine.execPclr f s
  | .psel f => Sys2Proof.Machine.execPsel f s
  | .prdw f => Sys2Proof.Machine.execPrdw f s
  | .pwrw f => Sys2Proof.Machine.execPwrw f s
  | .ld f => Sys2Proof.Machine.execLd f s
  | .st f => Sys2Proof.Machine.execSt f s
  | .cmov f => Sys2Proof.Machine.execCmov f s
  | .call f => Sys2Proof.Machine.execCall f s
  | .br f => Sys2Proof.Machine.execBr f s
  | .brn f => Sys2Proof.Machine.execBrn f s
  | .nop f => Sys2Proof.Machine.execNop f s
  | .jmpr f => Sys2Proof.Machine.execJmpr f s
  | .callr f => Sys2Proof.Machine.execCallr f s
  | .ret f => Sys2Proof.Machine.execRet f s
  | .lpc f => Sys2Proof.Machine.execLpc f s
  | .yield f => Sys2Proof.Machine.execYield f s
  | .qput f => Sys2Proof.Machine.execQput f s
  | .qget f => Sys2Proof.Machine.execQget f s
  | .entry f => Sys2Proof.Machine.execEntry f s
  | .vwait f => Sys2Proof.Machine.execVwait f s
  | .gtime f => Sys2Proof.Machine.execGtime f s
  | .tid f => Sys2Proof.Machine.execTid f s
  | .vadd f => Sys2Proof.Machine.execVadd f s
  | .vsub f => Sys2Proof.Machine.execVsub f s
  | .vmul f => Sys2Proof.Machine.execVmul f s
  | .vmulh f => Sys2Proof.Machine.execVmulh f s
  | .vmin f => Sys2Proof.Machine.execVmin f s
  | .vmax f => Sys2Proof.Machine.execVmax f s
  | .vand f => Sys2Proof.Machine.execVand f s
  | .vor f => Sys2Proof.Machine.execVor f s
  | .vxor f => Sys2Proof.Machine.execVxor f s
  | .vshl f => Sys2Proof.Machine.execVshl f s
  | .vshr f => Sys2Proof.Machine.execVshr f s
  | .vsra f => Sys2Proof.Machine.execVsra f s
  | .vabs f => Sys2Proof.Machine.execVabs f s
  | .vneg f => Sys2Proof.Machine.execVneg f s
  | .vmov f => Sys2Proof.Machine.execVmov f s
  | .vavg f => Sys2Proof.Machine.execVavg f s
  | .vfma f => Sys2Proof.Machine.execVfma f s
  | .vfms f => Sys2Proof.Machine.execVfms f s
  | .veq f => Sys2Proof.Machine.execVeq f s
  | .vne f => Sys2Proof.Machine.execVne f s
  | .vlt f => Sys2Proof.Machine.execVlt f s
  | .vge f => Sys2Proof.Machine.execVge f s
  | .vle f => Sys2Proof.Machine.execVle f s
  | .vgt f => Sys2Proof.Machine.execVgt f s
  | .vunord f => Sys2Proof.Machine.execVunord f s
  | .vord f => Sys2Proof.Machine.execVord f s
  | .vsel f => Sys2Proof.Machine.execVsel f s
  | .vrcp f => Sys2Proof.Machine.execVrcp f s
  | .vrsq f => Sys2Proof.Machine.execVrsq f s
  | .vrcpr f => Sys2Proof.Machine.execVrcpr f s
  | .vrsqr f => Sys2Proof.Machine.execVrsqr f s
  | .vexp2 f => Sys2Proof.Machine.execVexp2 f s
  | .vlog2 f => Sys2Proof.Machine.execVlog2 f s
  | .vsqrt f => Sys2Proof.Machine.execVsqrt f s
  | .vdiv f => Sys2Proof.Machine.execVdiv f s
  | .vfloor f => Sys2Proof.Machine.execVfloor f s
  | .vceil f => Sys2Proof.Machine.execVceil f s
  | .vrndn f => Sys2Proof.Machine.execVrndn f s
  | .vtrunc f => Sys2Proof.Machine.execVtrunc f s
  | .vclass f => Sys2Proof.Machine.execVclass f s
  | .vcvt f => Sys2Proof.Machine.execVcvt f s
  | .vshuf f => Sys2Proof.Machine.execVshuf f s
  | .vbcast f => Sys2Proof.Machine.execVbcast f s
  | .vzipl f => Sys2Proof.Machine.execVzipl f s
  | .vziph f => Sys2Proof.Machine.execVziph f s
  | .vuzpl f => Sys2Proof.Machine.execVuzpl f s
  | .vuzph f => Sys2Proof.Machine.execVuzph f s
  | .vrsum f => Sys2Proof.Machine.execVrsum f s
  | .vrmin f => Sys2Proof.Machine.execVrmin f s
  | .vrmax f => Sys2Proof.Machine.execVrmax f s
  | .vdot f => Sys2Proof.Machine.execVdot f s
  | .vsplat f => Sys2Proof.Machine.execVsplat f s
  | .vputq f => Sys2Proof.Machine.execVputq f s
  | .vputqh f => Sys2Proof.Machine.execVputqh f s
  | .vgetq2 f => Sys2Proof.Machine.execVgetq2 f s
  | .vld f => Sys2Proof.Machine.execVld f s
  | .vld1 f => Sys2Proof.Machine.execVld1 f s
  | .vst f => Sys2Proof.Machine.execVst f s
  | .vst1 f => Sys2Proof.Machine.execVst1 f s
  | .vlde f => Sys2Proof.Machine.execVlde f s
  | .vloop f => Sys2Proof.Machine.execVloop f s
  | .ldr f => Sys2Proof.Machine.execLdr f s
  | .str f => Sys2Proof.Machine.execStr f s
  | .ldi f => Sys2Proof.Machine.execLdi f s
  | .sti f => Sys2Proof.Machine.execSti f s
  | .arsv f => Sys2Proof.Machine.execArsv f s
  | .arel f => Sys2Proof.Machine.execArel f s
  | .aadd f => Sys2Proof.Machine.execAadd f s
  | .aand f => Sys2Proof.Machine.execAand f s
  | .aor f => Sys2Proof.Machine.execAor f s
  | .axor f => Sys2Proof.Machine.execAxor f s
  | .amin f => Sys2Proof.Machine.execAmin f s
  | .amax f => Sys2Proof.Machine.execAmax f s
  | .aminu f => Sys2Proof.Machine.execAminu f s
  | .amaxu f => Sys2Proof.Machine.execAmaxu f s
  | .aswap f => Sys2Proof.Machine.execAswap f s
  | .acas f => Sys2Proof.Machine.execAcas f s
  | .afadd f => Sys2Proof.Machine.execAfadd f s
  | .afmin f => Sys2Proof.Machine.execAfmin f s
  | .vamoAadd f => Sys2Proof.Machine.execVamoAadd f s
  | .vamoAand f => Sys2Proof.Machine.execVamoAand f s
  | .vamoAor f => Sys2Proof.Machine.execVamoAor f s
  | .vamoAxor f => Sys2Proof.Machine.execVamoAxor f s
  | .vamoAmin f => Sys2Proof.Machine.execVamoAmin f s
  | .vamoAmax f => Sys2Proof.Machine.execVamoAmax f s
  | .vamoAminu f => Sys2Proof.Machine.execVamoAminu f s
  | .vamoAmaxu f => Sys2Proof.Machine.execVamoAmaxu f s
  | .vamoAswap f => Sys2Proof.Machine.execVamoAswap f s
  | .vamoAcas f => Sys2Proof.Machine.execVamoAcas f s
  | .vamoAfadd f => Sys2Proof.Machine.execVamoAfadd f s
  | .vamoAfmin f => Sys2Proof.Machine.execVamoAfmin f s
  | .fenceCore f => Sys2Proof.Machine.execFenceCore f s
  | .fenceCluster f => Sys2Proof.Machine.execFenceCluster f s
  | .fenceDie f => Sys2Proof.Machine.execFenceDie f s
  | .fenceDevice f => Sys2Proof.Machine.execFenceDevice f s
  | .fenceSystem f => Sys2Proof.Machine.execFenceSystem f s
  | .fenceLoop f => Sys2Proof.Machine.execFenceLoop f s
  | .pref f => Sys2Proof.Machine.execPref f s
  | .cwb f => Sys2Proof.Machine.execCwb f s
  | .cinv f => Sys2Proof.Machine.execCinv f s
  | .pin f => Sys2Proof.Machine.execPin f s
  | .unpin f => Sys2Proof.Machine.execUnpin f s
  | .lsync f => Sys2Proof.Machine.execLsync f s
  | .migr f => Sys2Proof.Machine.execMigr f s
  | .cfetch f => Sys2Proof.Machine.execCfetch f s
  | .cstore f => Sys2Proof.Machine.execCstore f s
  | .csend f => Sys2Proof.Machine.execCsend f s
  | .cmcast f => Sys2Proof.Machine.execCmcast f s
  | .cgath f => Sys2Proof.Machine.execCgath f s
  | .cscat f => Sys2Proof.Machine.execCscat f s
  | .cfree f => Sys2Proof.Machine.execCfree f s
  | .cseal f => Sys2Proof.Machine.execCseal f s
  | .copen f => Sys2Proof.Machine.execCopen f s
  | .qinit f => Sys2Proof.Machine.execQinit f s
  | .qprod f => Sys2Proof.Machine.execQprod f s
  | .qarrive f => Sys2Proof.Machine.execQarrive f s
  | .qexpect f => Sys2Proof.Machine.execQexpect f s
  | .qcons f => Sys2Proof.Machine.execQcons f s
  | .qretire f => Sys2Proof.Machine.execQretire f s
  | .qdrop f => Sys2Proof.Machine.execQdrop f s
  | .qstat f => Sys2Proof.Machine.execQstat f s
  | .sopen f => Sys2Proof.Machine.execSopen f s
  | .sclose f => Sys2Proof.Machine.execSclose f s
  | .ssave f => Sys2Proof.Machine.execSsave f s
  | .sload f => Sys2Proof.Machine.execSload f s
  | .schild f => Sys2Proof.Machine.execSchild f s
  | .sisect f => Sys2Proof.Machine.execSisect f s
  | .sunion f => Sys2Proof.Machine.execSunion f s
  | .snext f => Sys2Proof.Machine.execSnext f s
  | .scrd f => Sys2Proof.Machine.execScrd f s
  | .spos f => Sys2Proof.Machine.execSpos f s
  | .sskip f => Sys2Proof.Machine.execSskip f s
  | .sskipn f => Sys2Proof.Machine.execSskipn f s
  | .svalq f => Sys2Proof.Machine.execSvalq f s
  | .scrdq f => Sys2Proof.Machine.execScrdq f s
  | .sdone f => Sys2Proof.Machine.execSdone f s
  | .slen f => Sys2Proof.Machine.execSlen f s
  | .sbatch f => Sys2Proof.Machine.execSbatch f s
  | .svld f => Sys2Proof.Machine.execSvld f s
  | .sapp f => Sys2Proof.Machine.execSapp f s
  | .sappv f => Sys2Proof.Machine.execSappv f s
  | .sseal f => Sys2Proof.Machine.execSseal f s
  | .mconv f => Sys2Proof.Machine.execMconv f s
  | .mleave f => Sys2Proof.Machine.execMleave f s
  | .msave f => Sys2Proof.Machine.execMsave f s
  | .mrest f => Sys2Proof.Machine.execMrest f s
  | .mstat f => Sys2Proof.Machine.execMstat f s
  | .mucode f => Sys2Proof.Machine.execMucode f s
  | .msets f => Sys2Proof.Machine.execMsets f s
  | .mplog f => Sys2Proof.Machine.execMplog f s
  | .mma f => Sys2Proof.Machine.execMma f s
  | .mmas f => Sys2Proof.Machine.execMmas f s
  | .mmax f => Sys2Proof.Machine.execMmax f s
  | .mrec f => Sys2Proof.Machine.execMrec f s
  | .mzero f => Sys2Proof.Machine.execMzero f s
  | .mldt f => Sys2Proof.Machine.execMldt f s
  | .mstt f => Sys2Proof.Machine.execMstt f s
  | .mtrans f => Sys2Proof.Machine.execMtrans f s
  | .mcvt f => Sys2Proof.Machine.execMcvt f s
  | .mrsum f => Sys2Proof.Machine.execMrsum f s
  | .mcopy f => Sys2Proof.Machine.execMcopy f s
  | .mlup f => Sys2Proof.Machine.execMlup f s
  | .mchol f => Sys2Proof.Machine.execMchol f s
  | .mtrsm f => Sys2Proof.Machine.execMtrsm f s
  | .mfxchk f => Sys2Proof.Machine.execMfxchk f s
  | .send f => Sys2Proof.Machine.execSend f s
  | .recv f => Sys2Proof.Machine.execRecv f s
  | .recvt f => Sys2Proof.Machine.execRecvt f s
  | .mpeek f => Sys2Proof.Machine.execMpeek f s
  | .alarm f => Sys2Proof.Machine.execAlarm f s
  | .mcount f => Sys2Proof.Machine.execMcount f s
  | .sends f => Sys2Proof.Machine.execSends f s
  | .slotrd f => Sys2Proof.Machine.execSlotrd f s
  | .dsync f => Sys2Proof.Machine.execDsync f s
  | .dsyncw f => Sys2Proof.Machine.execDsyncw f s
  | .dphase f => Sys2Proof.Machine.execDphase f s
  | .dcomm f => Sys2Proof.Machine.execDcomm f s
  | .dprobe f => Sys2Proof.Machine.execDprobe f s
  | .dlevel f => Sys2Proof.Machine.execDlevel f s
  | .launch f => Sys2Proof.Machine.execLaunch f s
  | .tenq f => Sys2Proof.Machine.execTenq f s
  | .tnext f => Sys2Proof.Machine.execTnext f s
  | .tdone f => Sys2Proof.Machine.execTdone f s
  | .tabort f => Sys2Proof.Machine.execTabort f s
  | .vtrd f => Sys2Proof.Machine.execVtrd f s
  | .gvtrd f => Sys2Proof.Machine.execGvtrd f s
  | .spoff f => Sys2Proof.Machine.execSpoff f s
  | .spon f => Sys2Proof.Machine.execSpon f s
  | .trap f => Sys2Proof.Machine.execTrap f s
  | .eret f => Sys2Proof.Machine.execEret f s
  | .rdsr f => Sys2Proof.Machine.execRdsr f s
  | .wrsr f => Sys2Proof.Machine.execWrsr f s
  | .tlbinv f => Sys2Proof.Machine.execTlbinv f s
  | .tlbinva f => Sys2Proof.Machine.execTlbinva f s
  | .ctxsave f => Sys2Proof.Machine.execCtxsave f s
  | .ctxrest f => Sys2Proof.Machine.execCtxrest f s
  | .ringrd f => Sys2Proof.Machine.execRingrd f s
  | .thaw f => Sys2Proof.Machine.execThaw f s
  | .ebrk f => Sys2Proof.Machine.execEbrk f s
  | .kill f => Sys2Proof.Machine.execKill f s

end Sys2Proof.Machine
end

