-- ==== Sys2Proof/Machine/Rings.lean ====
section
/-! DEFINITION. Who serves what waits: the network interface, which sends requests to the L2 from its 35 rings (R249), a slice, which
serves its six sources in turn (R20, R207), and the order of the requests that units take together in a cycle (R28, R291). -/

namespace Sys2Proof.Machine

/-! ## The rings of a network interface (R249) -/

/-- A request to the L2 that stands in a ring: a core's store by its path and place, a context's blocking access, one of its vector
loads, the lookahead of a core's stream unit, a read of a copy command, a unit that an engine writes. -/
inductive Req where
  | store (core path sq : Nat)
  | pend (c : Nat)
  | vload (c sq : Nat)
  | look (core : Nat)
  | ask (slot : Nat)
  | unit (eng id : Nat) (loc : Loc)
deriving DecidableEq, Repr

/-- What a request costs: its data bytes, with 16 bytes at least (R249). -/
def ringCost (n : Nat) : Nat := max 16 n

/-- A request in a core's ring, with its place and its cost. -/
abbrev Queued : Type := Nat × Nat × Req

/-- The stores of a path that have not been sent on. -/
def storeReqs (k path : Nat) (l : List PathOp) : List Queued :=
  (l.filter fun o => !o.sent && o.loc.dram).map fun o => (o.sq, ringCost o.size, .store k path o.sq)

/-- The accesses of a context that stand in its core's request ring and have not been sent on. -/
def threadReqs (c : Nat) (t : Thread) : List Queued :=
  (match t.pend with
    | some p => if decide (p.kind < 5) && !p.sent && p.loc.dram then [(p.sq, ringCost p.size, .pend c)] else []
    | none => []) ++
  (t.vec.mem.filter fun x => !x.store && !x.sent && x.loc.dram).map fun x => (x.sq, ringCost x.e.memSize, .vload c x.sq)

/-- The requests of a core's request ring (R208). -/
def State.coreReqs (s : State) (k : Nat) : List Queued :=
  storeReqs k 2 (s.core k).ring ++ (List.range 4).flatMap fun x => threadReqs (k * 4 + x) (s.thread (k * 4 + x))

/-- The requests of the ring of a core's stream unit: its stores, then the read of its lookahead. -/
def State.strmReqs (s : State) (k : Nat) : List Queued :=
  let x := s.core k
  storeReqs k 3 x.sring ++ match x.slook with
    | some (_, _, false) => [(x.nsq, ringCost 4, .look k)]
    | _ => []

/-- The units of an engine's command that have not been sent on. -/
def unitReqs (eng id : Nat) (us : List UnitW) : List Queued :=
  (us.filter fun u => !u.sent && u.loc.dram).map fun u => (0, ringCost u.cells.length, .unit eng id u.loc)

/-- The requests of the copy engine's ring, command by command: its reads, then its writes. -/
def Cluster.copyReqs (k : Cluster) : List Queued :=
  (k.cmds.filter fun x => x.state == 0).flatMap fun x =>
    x.asks.map (fun n => (0, ringCost n, Req.ask x.slot)) ++ unitReqs 0 x.slot x.units

/-- The requests of a matrix engine's ring. -/
def Cluster.matReqs (k : Cluster) (half : Nat) : List Queued :=
  (mget ({} : MEng) k.meng half).groups.flatMap fun (g : Nat × Group) =>
    match g.2.run with
    | some r => unitReqs (1 + half) g.1 r.units
    | none => []

/-- The requests of ring r of a cluster's interface: 0 to 15 the cores', 16 to 31 their stream units', 32 the copy engine's, 33 and 34
those of the matrix engines (R249). -/
def State.ringReqs (s : State) (p r : Nat) : List Queued :=
  if r < 16 then s.coreReqs (p * 16 + r)
  else if r < 32 then s.strmReqs (p * 16 + (r - 16))
  else if r = 32 then (s.clu p).copyReqs
  else (s.clu p).matReqs (r - 33)

/-- The request that stands first: the least place, and of equal places the first. -/
def firstReq : List Queued → Option Queued
  | [] => none
  | x :: xs => match firstReq xs with
    | some y => if y.1 < x.1 then some y else some x
    | none => some x

/-- The head of a ring. -/
def State.ringHead (s : State) (p r : Nat) : Option Queued := firstReq (s.ringReqs p r)

/-- The weight of a ring: of a core's rings that of R68, where 0 acts as 1; of an engine's 8 (R249). -/
def Cluster.ringWeight (k : Cluster) (r : Nat) : Nat :=
  if r < 32 then max 1 (bitsOf k.weights (4 * (r % 16) + 3) (4 * (r % 16))) else 8

/-- Marks the unit at a location as sent. -/
def markUnitSent (l : Loc) (us : List UnitW) : List UnitW := us.map fun u => if u.loc = l then { u with sent := true } else u

/-- A request of a cluster goes on to its L2. -/
def State.sendReq (s : State) (p : Nat) (q : Req) : State :=
  match q with
  | .store k path sq =>
    let x := s.core k
    s.setCore k (x.setPath path ((x.path path).map fun o => if o.sq = sq then { o with sent := true } else o))
  | .pend c => let t := s.thread c; s.setThread c { t with pend := t.pend.map fun a => { a with sent := true } }
  | .vload c sq =>
    let t := s.thread c
    s.setThread c { t with vec := { t.vec with mem := t.vec.mem.map fun x => if x.sq = sq then { x with sent := true } else x } }
  | .look k => let x := s.core k; s.setCore k { x with slook := x.slook.map fun a => (a.1, a.2.1, true) }
  | .ask slot =>
    let k := s.clu p
    s.setClu p { k with cmds := k.cmds.map fun x => if x.slot = slot then { x with asks := x.asks.drop 1 } else x }
  | .unit eng id l =>
    let k := s.clu p
    if eng = 0 then s.setClu p { k with cmds := k.cmds.map fun x => if x.slot = id then { x with units := markUnitSent l x.units } else x }
    else
      let e : MEng := mget {} k.meng (eng - 1)
      let g := e.groups.map fun (g : Nat × Group) =>
        if g.1 = id then (g.1, { g.2 with run := g.2.run.map fun r => { r with units := markUnitSent l r.units } }) else g
      s.setClu p { k with meng := mset k.meng (eng - 1) { e with groups := g } }

/-- Sends from a ring while its head costs no more than its deficit (R249); the answer is what is left of the deficit. -/
def State.sendWhile (s : State) (p r : Nat) : Nat → Nat → State × Nat
  | 0, d => (s, d)
  | n + 1, d =>
    match s.ringHead p r with
    | some (_, cost, q) => if cost ≤ d then (s.sendReq p q).sendWhile p r n (d - cost) else (s, d)
    | none => (s, d)

/-- Sets the deficit of a ring. -/
def State.setDeficit (s : State) (p r d : Nat) : State := let k := s.clu p; s.setClu p { k with drr := mset k.drr r d }

/-- One visit of a ring (R249). -/
def State.visitRing (s : State) (p r : Nat) : State :=
  match s.ringHead p r with
  | none => s.setDeficit p r 0
  | some _ =>
    let d := mget 0 (s.clu p).drr r + 64 * (s.clu p).ringWeight r
    let q := s.sendWhile p r (d / 16 + 1) d
    q.1.setDeficit p r q.2

/-- n visits, each of the ring that comes next. -/
def State.visitRings (s : State) (p : Nat) : Nat → State
  | 0 => s
  | n + 1 =>
    let r := (s.clu p).drrAt
    let s1 := s.visitRing p (r % 35)
    (s1.setClu p { s1.clu p with drrAt := (r + 1) % 35 }).visitRings p n

/-- Has a cluster's interface anything to do: a request waits in a ring, or a ring keeps a deficit? Where it has not, it only goes round. -/
def State.ringsBusy (s : State) (p : Nat) : Bool :=
  ((s.clu p).drr.any fun x => x.2 != 0) || (List.range 35).any fun r => !(s.ringReqs p r).isEmpty

/-- The clusters whose interface has anything to do: of a core with a store or a lookahead in a ring, of a thread with an access under way,
of an engine at work, or with a deficit. -/
def State.busyRings (s : State) : List Nat :=
  let ks := s.cores.filter fun (x : Nat × Core) => decide (x.1 < 2 ^ 16) && (!x.2.ring.isEmpty || !x.2.sring.isEmpty || x.2.slook.isSome)
  let ts := s.thr.filter fun (x : Nat × Thread) => !isSteward x.1 && (x.2.pend.isSome || !x.2.vec.mem.isEmpty)
  let cs := s.clus.filter fun (x : Nat × Cluster) => !x.2.cmds.isEmpty || !x.2.meng.isEmpty || x.2.drr.any fun d => d.2 != 0
  let ps := (ks.map fun (x : Nat × Core) => x.1 / 16) ++ (ts.map fun (x : Nat × Thread) => pclOf x.1) ++ cs.map fun (x : Nat × Cluster) => x.1
  ps.eraseDups.filter s.ringsBusy

/-- What a cluster's interface does in a cycle: it visits rings; how many is open (log entry 3). -/
def State.arbitrate (s : State) (p : Nat) : State := s.visitRings p (Config.visits s.gtime p % 36)

/-! ## The service of a slice (R20, R207) -/

/-- An access that waits at a slice: the slice, its source there by its number in R20, the event that performs it, and whether that is
enabled. -/
structure SliceAcc where
  slice : Nat
  src : Nat
  ev : Instr
  ok : Bool
deriving DecidableEq, Repr

/-- The slice of a location. -/
def sliceOf (l : Loc) : Option Nat :=
  match l with
  | .slice k _ => some k
  | _ => none

/-- The source of a path: the private port, the loop-back port, the network. -/
def srcOfPath (p : Nat) : Nat := min p 2

/-- The stores of a core's paths whose home is a slice. -/
def State.sliceStores (s : State) (k : Nat) (x : Core) : List SliceAcc :=
  [0, 1, 2, 3].flatMap fun p => (x.path p).zipIdx.filterMap fun (o : PathOp × Nat) =>
    (sliceOf o.1.loc).map fun j => { slice := j, src := srcOfPath p, ev := .storeAtHome k p o.2, ok := s.storeEnabled k p o.2 }

/-- Would RESERVATION_GRANT take a context's reservation on (R230)? -/
def State.grantable (s : State) (c : Nat) (p : Pend) : Bool :=
  if s.rsvq.contains c then s.atHead c p && s.ready (some c) p.loc p.size true
  else sentOn c 2 p.loc p.sent && s.pathClearBefore c 2 p.loc p.sq

/-- The accesses under way of a context whose home is a slice. -/
def State.sliceLoads (s : State) (c : Nat) (t : Thread) : List SliceAcc :=
  (match t.pend with
    | some p =>
      if 5 ≤ p.kind then [] else
      (match sliceOf p.loc with
        | some j =>
          if p.kind = 1 then
            [{ slice := j, src := srcOfPath (p.path c), ev := .loadDataReturn c (Config.lease s.gtime c),
               ok := s.loadServable c (p.path c) p.loc p.size p.cls p.sq p.sent (s.atHome c p.op) }]
          else [{ slice := j, src := 2, ev := .reservationGrant c, ok := s.grantable c p }]
        | none => [])
    | none => []) ++
  t.vec.mem.zipIdx.filterMap fun (x : VMem × Nat) =>
    if x.1.store then none else (sliceOf x.1.loc).map fun j =>
      let path := pathOf c x.1.addr x.1.loc
      { slice := j, src := srcOfPath path, ev := .loadDataReturn (vecAccess c x.2) (Config.lease s.gtime (vecAccess c x.2)),
        ok := s.loadServable c path x.1.loc x.1.e.memSize (x.1.e.f.h.toNat / 256) x.1.sq x.1.sent (s.atHome c 0) }

/-- The units of slices that the engines of a cluster have still to write; a slice of another cluster is reached through the network. -/
def State.sliceUnits (s : State) (p : Nat) (k : Cluster) : List SliceAcc :=
  (k.cmds.flatMap fun x => if x.state = 0 ∧ x.prep then
      x.units.zipIdx.filterMap fun (u : UnitW × Nat) => (sliceOf u.1.loc).map fun j =>
        { slice := j, src := if j / 16 = p then 3 else 2, ev := .engineUnitWrite p 0 x.slot u.2,
          ok := s.mayWrite p x u.2 u.1 || s.cutFrom p u.1.loc }
    else []) ++
  (k.meng.flatMap fun (e : Nat × MEng) => e.2.groups.flatMap fun (g : Nat × Group) =>
    match g.2.run with
    | some r =>
      if g.2.frozen || g.2.wait then [] else
      r.units.zipIdx.filterMap fun (u : UnitW × Nat) => (sliceOf u.1.loc).map fun j =>
        { slice := j, src := 4, ev := .engineUnitWrite p (1 + e.1) g.1 u.2,
          ok := s.unitDue u.1 || s.cutFrom p u.1.loc }
    | none => [])

/-- Every access that waits at a slice. -/
def State.sliceAccs (s : State) : List SliceAcc :=
  (s.cores.flatMap fun (p : Nat × Core) => s.sliceStores p.1 p.2) ++ (s.thr.flatMap fun (p : Nat × Thread) => s.sliceLoads p.1 p.2) ++
    s.clus.flatMap fun (p : Nat × Cluster) => s.sliceUnits p.1 p.2

/-- The access that a source of a slice has at its head, of those that are enabled: the first; from the network one of those that have
arrived, which is open (log entry 3). -/
def State.srcHead (s : State) (k src : Nat) (l : List SliceAcc) : Option SliceAcc :=
  let mine := l.filter fun a => a.slice == k && a.src == src && a.ok
  if src = 2 then
    let n := Config.order s.gtime k
    if n % 2 = 0 then mine[n / 2 % mine.length]? else none
  else mine.head?

/-- The access that a slice serves in this cycle: that of the first source after the one it served last (R20). -/
def State.sliceNext (s : State) (k : Nat) : Option SliceAcc :=
  let l := s.sliceAccs
  ((List.range 6).filterMap fun i => s.srcHead k (((s.core k).turn + 1 + i) % 6) l).head?

/-- A slice serves an access: its event stands next in the agenda. -/
def State.serveSlice (s : State) (k : Nat) : State :=
  match s.sliceNext k with
  | none => s
  | some a => { s.setCore k { s.core k with turn := a.src } with agenda := .ev a.ev :: s.agenda }

/-- The slices at which an access waits. -/
def State.busySlices (s : State) : List Nat := (s.sliceAccs.map fun a => a.slice).eraseDups

/-! ## Requests that a unit takes together (R28, R291) -/

/-- The leader vcluster that a DLEVEL names: the lowest of the bitmap of a formation, the leader of the domain that a dissolve ends
(R26, R372). -/
def State.namedLeader (s : State) (c : Nat) (f : Fld) : Nat :=
  let t := s.thread c
  let o := t.w f.b.toNat
  if bitsOf o 5 4 = 3 then bitsOf (s.dom c (bitsOf o 2 0)).dinfo 23 12
  else match s.access (s.who c) (t.w f.a.toNat) 512 64 { r := true } with
    | .ok l =>
      let b := s.bytesAt l 512
      ((List.range 4096).find? fun v => (b.getD (v / 8) 0).getLsbD (v % 8)).getD 0
    | .error _ => 0

/-- The stage of R291 in which a queue unit takes an instruction of page 3. -/
def tqStage (r : Row) : Option Nat :=
  if r.page = 3 ∧ r.maj = 1 then
    match r.fn with
    | some 3 => some 2
    | some 2 | some 6 => some 3
    | some 5 => some 4
    | some 1 | some 4 => some 6
    | some 0 => some 8
    | some 7 => some 9
    | _ => none
  else none

/-- The place of an instruction among the requests that a unit takes together in a cycle, where it is one: a queue unit's by stage and
thread id (R291), the formations and dissolutions of domains by the leader vcluster they name (R28). TENQs and MCONVs of one cycle
issue in the order in which their units take them (R325, R381). -/
def State.orderKey (s : State) (c : Nat) (i : Instr) : Option Nat :=
  match rowOf i with
  | some (r, f) =>
    match tqStage r with
    | some n => some (n * 2 ^ 20 + (s.thread c).tid)
    | none => if r = rowDlevel ∧ 2 ≤ bitsOf ((s.thread c).w f.b.toNat) 5 4 then some (2 ^ 24 + s.namedLeader c f) else none
  | none => none

/-- Puts a request into its place. -/
def insertLate (x : Nat × List Nat) : List (Nat × List Nat) → List (Nat × List Nat)
  | [] => [x]
  | y :: ys => if x.1 < y.1 then x :: y :: ys else y :: insertLate x ys

/-- Puts a request among the ordered ones of the agenda. -/
def addLate (x : Nat × List Nat) : List Turn → List Turn
  | [] => [.lates [x]]
  | .lates q :: ts => .lates (insertLate x q) :: ts
  | t :: ts => t :: addLate x ts

/-- Is a turn the choice of a context of a core? -/
def Turn.choosesOf (core : Nat) : Turn → Bool
  | .choose c => coreId c == core
  | _ => false

/-- The context of a choice. -/
def Turn.ctx : Turn → Nat
  | .choose c => c
  | _ => 0

/-- The request of a context goes to the ordered ones, with the contexts of its core that come after it: they have their turn if it does
not issue. -/
def deferTurn (key c : Nat) (ts : List Turn) : List Turn :=
  addLate (key, c :: (ts.takeWhile (Turn.choosesOf (coreId c))).map Turn.ctx) (ts.dropWhile (Turn.choosesOf (coreId c)))

end Sys2Proof.Machine
end

