-- ==== Sys2Proof/Machine/Turns.lean ====
section
/-! DEFINITION. The turns of a cycle (log entries 1 and 3): what each unit may do in it, the order of the turns, the end of a cycle,
and when a context issues. -/

namespace Sys2Proof.Machine

/-! ## Order -/

/-- Puts a turn at a place of a list. -/
def insertTurn (t : Turn) : Nat → List Turn → List Turn
  | 0, ts => t :: ts
  | _ + 1, [] => [t]
  | n + 1, u :: us => u :: insertTurn t n us

/-- Some of the turns, in some order: the choice is open (log entry 3). -/
def someOf (k : Nat) : List Turn → List Turn
  | [] => []
  | t :: ts =>
    let c := Config.order k ts.length
    let r := someOf k ts
    if c % 2 = 1 then r else insertTurn t (c / 2 % (r.length + 1)) r

/-! ## The turns that units may take -/

/-- The scheduler's turns in the order of R64. -/
def State.schedTurns (s : State) : List Turn :=
  let ns := slotNos.filter s.slotMaps
  let ps := slotNos.filter fun n => (s.slot n).period != 0
  let ls := (s.launches.filter fun (p : Nat × Launch) => p.2.active).map fun p => p.1
  ls.map (fun l => .ev (.retire l)) ++ s.sched.bells.map (fun q => .ev (.qschDoorbell 0 q)) ++
    ps.map (fun n => .ev (.replenish n)) ++ ps.map (fun n => .ev (.overrun n 0)) ++ ps.map (fun n => .ev (.overrun n 1)) ++
    ns.map (fun n => .ev (.headReexamine n)) ++ ns.map (fun n => .ev (.blockMark n)) ++
    if ns.isEmpty then [] else [.ev .dispatchDecision, .ev .dispstall]

/-- The launches that may start (R69). -/
def State.startTurns (s : State) : List Turn :=
  (s.launches.filter fun (p : Nat × Launch) => p.2.active).map fun p => .ev (.launchStart p.1)

/-- Saves, restores and retention under way. -/
def State.kernelTurns (s : State) : List Turn :=
  (s.clus.filter fun (p : Nat × Cluster) => p.2.saving || p.2.savingCore.isSome).map (fun p => .ev (.clusterSaved p.1)) ++
    (match s.rest with | some (h, p) => [.ev (.restore h p)] | none => []) ++
    (if s.outer.retain.entering then [.ev .retainEnter] else [])

/-- What recurs by GTIME: the meters, the governor, the patrol scrub. -/
def State.timedTurns (s : State) : List Turn :=
  (if s.gtime % 1024 = 0 then [.ev .meterUpdate] else []) ++
    (if s.gtime % 65536 = 0 then [.ev .creditReplenish] else []) ++
    if s.gtime % 2 ^ 20 = 0 then (List.range 640).map fun n => .ev (.patrolScrub (n / 64) (n % 64))
    else (s.dram.phy.filter fun (p : Nat × Phy) => p.2.owed != 0 && p.2.online).map fun p => .ev (.patrolScrub (p.1 / 64) (p.1 % 64))

/-- The circuits of a launch that each cycle with GTIME a multiple of 64 evaluates: levels 0 and 1 (R369). -/
def State.lowCircuits (s : State) (lid : Nat) : List Turn :=
  let n := (s.launch lid).ncl
  if s.gtime % 64 = 0 then
    (List.range (16 * n)).map (fun u => Turn.ev (.circuitComplete lid 0 u)) ++
      (List.range n).map fun u => Turn.ev (.circuitComplete lid 1 u)
  else []

/-- The circuits of a launch that go round their clusters (R369): they complete in an open cycle. -/
def State.wideCircuits (s : State) (lid : Nat) : List Turn :=
  let lead (level v : Nat) : Bool := (s.domOf lid level v).isFormed && bitsOf (s.domOf lid level v).dinfo 23 12 == v
  [2, 3, 4].flatMap fun l => ((List.range (s.launch lid).ncl).filter (lead l)).map fun v => Turn.ev (.circuitComplete lid l v)

/-- A miss takes one of its cluster's 64 miss registers and a place in its die's queue, unless its page has a register already; while none
is free it waits (R398). -/
def State.noteMiss (s : State) (m : Miss) : State :=
  if s.walks.contains m || decide (64 ≤ (s.walks.filter fun x => x.pcl == m.pcl).length) then s else { s with walks := s.walks ++ [m] }

/-- The misses of a cluster's contexts: of their fetch and of their access under way (log entry 8). -/
def State.missesOf (s : State) (p : Nat) : List Miss :=
  (s.thr.filter fun (x : Nat × Thread) => !isSteward x.1 && pclOf x.1 == p).flatMap fun (x : Nat × Thread) =>
    let asid := x.2.sys.asid.toNat % 2 ^ 16
    (x.2.needs.filter fun va => (s.tlbFind (coreId x.1) p asid va).isNone).map fun va => { pcl := p, asid := asid, page := pageOf va }

/-- The misses of a cycle, in ascending cluster number (R398). -/
def State.noteMisses (s : State) : State := (s.clus.flatMap fun (p : Nat × Cluster) => s.missesOf p.1).foldl State.noteMiss s

/-- The walks under way: the first 64 of each die's queue (R398). -/
def State.walkTurns (s : State) : List Turn :=
  (List.range 8).flatMap fun d => ((s.walks.filter fun m => m.pcl / 512 == d).take 64).map fun m => .ev (.pageWalk m.pcl m.asid m.page)

/-- The turns of a context's accesses whose home is no slice; a slice serves its own (R20). -/
def accessTurns (lease : Nat → Nat) (c : Nat) (t : Thread) : List Turn :=
  (match t.pend with
    | some p =>
      if (sliceOf p.loc).isSome then []
      else if p.kind = 1 then [.ev (.loadDataReturn c (lease c))] else [.ev (.reservationGrant c)]
    | none => []) ++
  t.vec.mem.zipIdx.filterMap fun (x : VMem × Nat) =>
    if x.1.store || (sliceOf x.1.loc).isSome then none else some (.ev (.loadDataReturn (vecAccess c x.2) (lease (vecAccess c x.2))))

/-- What a thread's waits and its units may do. -/
def State.threadTurns (s : State) (c : Nat) (t : Thread) : List Turn :=
  (if t.st = .run ∧ s.haveBlock c t.pc = false then [.ev (.fetchBlockArrival c)] else []) ++
    accessTurns (Config.lease s.gtime) c t ++
    (if t.spec.abort then [.ev (.specAbort c)] else []) ++
    (if t.spec.sb.isEmpty then [] else [.ev (.storeDrain c)]) ++
    t.strm.map fun (r : Nat × Strm) => .ev (.streamLookahead c r.1)

/-- The threads whose marks clear with no store left to drain (R380). -/
def State.clearTurns (s : State) : List Turn :=
  (s.thr.filter fun (p : Nat × Thread) =>
    p.2.spec.sb.isEmpty && !p.2.spec.abort && !s.speculative p.1 && s.marks.any fun m => m.c == p.1).map fun p => .ev (.storeDrain p.1)

/-- What the paths and the stream unit of a core may do: the stores whose home is no slice. -/
def coreUnitTurns (k : Nat) (x : Core) : List Turn :=
  ([0, 1, 2, 3].flatMap fun p => (x.path p).zipIdx.filterMap fun (o : PathOp × Nat) =>
    if (sliceOf o.1.loc).isSome then none else some (Turn.ev (.storeAtHome k p o.2))) ++
    if x.strmWant.isSome then x.strms.map fun c => .ev (.streamContextDrain c) else []

/-- The places of the units of a command that a slice does not serve: what is to be prepared, and what goes elsewhere. -/
def unitTurnNos (us : List UnitW) : List Nat :=
  us.zipIdx.filterMap fun (u : UnitW × Nat) => if (sliceOf u.1.loc).isSome then none else some u.2

/-- What the engines of a cluster may do. -/
def engineTurns (p : Nat) (k : Cluster) : List Turn :=
  (k.cmds.flatMap fun x =>
    (if x.prep then unitTurnNos x.units else [0]).map (fun n => Turn.ev (.engineUnitWrite p 0 x.slot n)) ++
      [.ev (.copyComplete p x.slot)]) ++
  (k.mcasts.map fun m => Turn.ev (.allfree p m.tag)) ++
  (k.meng.flatMap fun (e : Nat × MEng) => e.2.groups.flatMap fun (g : Nat × Group) =>
    ((g.2.run.map fun r => unitTurnNos r.units).getD []).map (fun n => Turn.ev (.engineUnitWrite p (1 + e.1) g.1 n)) ++
      [.ev (.matrixJobComplete p e.1 g.1), .ev (.matrixContextDrain p e.1 g.1)])

/-- The counted decrements under way to a queue unit (R291 item 1). -/
def State.decTurns (s : State) : List Turn := (List.range s.decs.length).map fun n => .ev (.countedDecrement n)

/-- What units do in a cycle in an open order. -/
def State.unitTurns (s : State) : List Turn :=
  (s.thr.flatMap fun (p : Nat × Thread) => s.threadTurns p.1 p.2) ++
    (s.cores.flatMap fun (p : Nat × Core) => coreUnitTurns p.1 p.2) ++
    (s.clus.flatMap fun (p : Nat × Cluster) => engineTurns p.1 p.2) ++ s.walkTurns ++ s.decTurns ++
    (if s.dram.amap.busy then [.ev .amapCommitDone] else []) ++
    [.ev (.migration 0), .ev (.migration 1)] ++
    s.dram.phy.flatMap fun (p : Nat × Phy) =>
      if p.2.running then [.ev (.hphyPatDone (p.1 / 64) (p.1 % 64) (Config.lanes 0 s.gtime (p.1 / 64) (p.1 % 64))
        (Config.lanes 1 s.gtime (p.1 / 64) (p.1 % 64)))] else []

/-- The interfaces that send requests on (R249), and the slices at which an access waits (R20). -/
def State.homeTurns (s : State) : List Turn :=
  s.busyRings.map .arb ++ s.busySlices.map .slice

/-- The messages that a freed entry may admit, oldest first (R355), then those that the network may deliver. -/
def State.mailTurns (s : State) : List Turn :=
  (s.thr.flatMap fun (p : Nat × Thread) => List.replicate p.2.mail.held.length (.ev (.messageAdmit p.1))) ++
    someOf (s.gtime + 1) ((List.range s.net.length).map fun n => .ev (.messageDeliver n))

/-- The end of a cycle, after its deliveries: the alarms that are due (R362), the RECVTs whose time has come (R13, R360), the circuits
(R369). -/
def State.closeTurns (s : State) : List Turn :=
  let due (t : Thread) : Bool := match t.mail.alarm with | some (d, _) => decide (d ≤ s.gtime) | none => false
  let late (t : Thread) : Bool := match t.mail.park with
    | some p => (match p.deadline with | some d => decide (d ≤ s.gtime) | none => false)
    | none => false
  let ls := (s.launches.filter fun (p : Nat × Launch) => p.2.active).map fun p => p.1
  (s.thr.filter fun (p : Nat × Thread) => due p.2).map (fun p => .ev (.alarmFire p.1)) ++
    (s.thr.filter fun (p : Nat × Thread) => late p.2).map (fun p => .ev (.recvtTimeout p.1)) ++
    ls.flatMap s.lowCircuits ++ someOf (s.gtime + 2) (ls.flatMap s.wideCircuits)

/-! ## The issue turns -/

/-- The compute cores that hold a thread's context, by launch, vcluster and core: the order of the thread ids (R11). -/
def State.coreOrder (s : State) (k : Nat) : Nat × Nat :=
  let q := s.clu (k / 16)
  (q.launch.getD 0, q.vcl * 16 + k % 16)

/-- Puts a core into its place. -/
def insertCore (key : Nat → Nat × Nat) (k : Nat) : List Nat → List Nat
  | [] => [k]
  | x :: xs => if (key k).1 < (key x).1 ∨ (key k).1 = (key x).1 ∧ (key k).2 < (key x).2 then k :: x :: xs else x :: insertCore key k xs

/-- The compute cores in the order of their threads' ids. -/
def State.computeCores (s : State) : List Nat :=
  let ks := (s.thr.filterMap fun (p : Nat × Thread) => if p.1 < 2 ^ 18 then some (coreId p.1) else none).eraseReps
  ks.foldr (insertCore s.coreOrder) []

/-- The contexts of a core from a pointer on, in cyclic order (R15). -/
def fromPtr (k ptr : Nat) : List Nat := (List.range 4).map fun i => k * 4 + (ptr + i) % 4

/-- The scalar choices of a cycle (R15). -/
def State.scalarTurns (s : State) : List Turn :=
  (s.computeCores.flatMap fun k => (fromPtr k (s.core k).ptr).map .choose) ++ [.lates []]

/-- May a context's vector stream do anything in this cycle: it restarts, it issues, or it is blocked on a queue as the scalar stream is
(R114, R176, R184)? -/
def State.vecDue (s : State) (c : Nat) : Bool :=
  let t := s.thread c
  t.mayRestart || (!t.vec.halted && (s.vecMayIssue c || (t.st == .qwait && (s.vecBlocked c).isSome)))

/-- The vector choices of a cycle (R16): the contexts that are ready at its start, so that they do not depend on the scalar choice. -/
def State.vectorTurns (s : State) : List Turn :=
  s.computeCores.flatMap fun k => ((fromPtr k (s.core k).vptr).filter s.vecDue).map fun c => .ev (.vectorIssue c)

/-- The stewards that run, each the only context of its core. -/
def State.stewardTurns (s : State) : List Turn :=
  (s.thr.filter fun (p : Nat × Thread) => isSteward p.1).map fun p => .issue p.1

/-- The turns of a cycle. What reaches a context in one cycle does so in the order of R13: the freezes of units, the KILLs of stewards,
saves, starts, and at the end messages and times. -/
def State.turns (s : State) : List Turn :=
  s.schedTurns ++ s.timedTurns ++ s.clearTurns ++ s.homeTurns ++ someOf s.gtime s.unitTurns ++ s.stewardTurns ++ s.kernelTurns ++
    s.startTurns ++ s.scalarTurns ++ s.vectorTurns ++ s.mailTurns ++ [.close]

/-- A cycle ends: error numbers, charges, the events that the ring can take (R62, R260), GTIME, the issue slots, the requests that ports
hold, the misses of the TLBs; the next cycle's turns stand in the agenda. In RETAIN a retention tick passes, and GTIME stands (R435, R437).
-/
def State.tick (s : State) : State :=
  let r := s.outer.retain
  if r.on then
    if r.resuming then { s with agenda := [.ev .retainResume] }
    else { s with agenda := [], outer := { s.outer with retain := { r with ticks := r.ticks + 1 } } }
  else
    let s0 := s.countErrs.charge
    let s1 := if s0.sched.evbuf.isEmpty then s0 else State.drainEvents s0.sched.evbuf.length s0
    let q := s1.noteLeaseWaits
    let s2 := { q with gtime := (q.gtime + 1) % 2 ^ 64, waited := false,
                       cores := q.cores.map fun (p : Nat × Core) => (p.1, { p.2 with issued := false, vissued := false }) }
    let s3 := [0, 1].foldl (fun (a : State) e => State.drainPort e (a.port e).held.length a) s2.noteMisses
    { s3 with agenda := s3.turns }

/-! ## Issue -/

/-- Is a context stopped at its issue boundary (R408 step 1)? One that holds a reservation goes on until the hold ends (R22). -/
def Thread.stopped (t : Thread) : Bool := t.stopReq && t.hold.isNone

/-- Does the context take an asynchronous cause before its next instruction (R393)? It waits until what precedes is complete (R125). -/
def State.asyncNow (s : State) (c : Nat) : Bool :=
  let t := s.thread c
  t.asyncReady && decide (t.vec.lateFrom ≤ s.gtime) && s.asyncOpen c && !t.stopped && !s.outer.retain.on &&
    (!t.vec.late.isEmpty || !t.promise.isEmpty || t.st == .run)

/-- DSYNCW and TABORT hold the next instruction back while the thread is speculative (R366, R385). -/
def State.specWait (s : State) (c : Nat) : Bool :=
  let t := s.thread c
  (t.spec.syncWait || t.spec.abortWait) && s.speculative c

/-- May the context issue a scalar instruction in this turn (R15, R77)? -/
def State.mayIssue (s : State) (c : Nat) : Bool :=
  let t := s.thread c
  t.st == .run && !(s.core (coreId c)).issued && t.pend.isNone && !t.spec.abort && decide (t.notBefore ≤ s.gtime) && !t.stopped &&
    !s.outer.retain.on && s.haveBlock c t.pc && !s.specWait c

/-- The window registers that a field names (R80, R333). -/
def clsWindow (c : Cls) (n : Nat) (ext : BitVec 6) : List Nat :=
  match c with
  | .w => [n]
  | .wp => [n, n + 1]
  | .w5 => [n, n + 1, n + 2, n + 3, n + 4]
  | .op5a => if ext.getLsbD 1 then [] else [n, n + 1]
  | .op5b => if ext.getLsbD 0 then [] else [n, n + 1]
  | _ => []

/-- The window registers that an instruction names. -/
def rowWindow (r : Row) (f : Fld) : List Nat :=
  clsWindow r.ca f.a.toNat f.ext ++ clsWindow r.cb f.b.toNat f.ext ++ clsWindow r.cd f.d.toNat f.ext

/-- Are the results that a row's instruction names usable, and the unit it needs free, in this cycle (R123, R124, R177)? -/
def State.rowReady (s : State) (c : Nat) (r : Row) (f : Fld) : Bool :=
  let t := s.thread c
  (rowWindow r f).all (t.usable s.gtime) &&
    (!(r.page == 0 && r.maj == 4 && decide (r.fn.getD 15 < 4)) || decide ((s.core (coreId c)).divFree ≤ s.gtime)) &&
    (r != rowQget || t.vec.pushed != some (f.b.toNat, s.gtime) || decide (1 < (t.queue f.b.toNat).length))

/-- Are the operands and the unit of an instruction ready? -/
def State.operandsReady (s : State) (c : Nat) (i : Instr) : Bool :=
  match rowOf i with
  | some (r, f) => s.rowReady c r f
  | none => true

/-- The core has issued an instruction of the context: its pointer names the next one (R15). -/
def State.noteIssue (s : State) (c : Nat) : State :=
  let k := s.core (coreId c)
  s.setCore (coreId c) { k with issued := true, ptr := (c + 1) % 4 }

/-- The state in which the instruction at `pc` executes: what its fetch left; a wait before it is over. -/
def State.fetched (s : State) (c : Nat) (pc : Word) (words : List Half) : State :=
  let t := s.thread c
  { s.setThread c { t with spec := { t.spec with syncWait := false, abortWait := false } } with
    cur := c, waited := false, ir := { next := pc + BitVec.ofNat 64 (2 * words.length), words := words } }

end Sys2Proof.Machine
end

