-- ==== Sys2Proof/Machine/Step.lean ====
section
/-! DEFINITION. One step of the machine: the next turn of its agenda; and the placing of one instruction where the next step fetches
it. -/

namespace Sys2Proof.Machine

/-- The outcome of an issue, with the core's pointer moved where the instruction issued. An instruction that only waits has not issued. The
spec does not say whether a RECV or RECVT that parks its thread, or a QPUT or QGET that blocks, takes the core's issue slot of that cycle
and moves the pointer: here it does neither (DESIGN CHOICE, log entry 3). -/
def afterIssue (c : Nat) : Host.Outcome State Fault Refusal → Host.Outcome State Fault Refusal
  | .next s => .next (if s.waited then s else s.noteIssue c)
  | o => o

/-- The context issues the instruction at its PC. -/
noncomputable def issueTurn (c : Nat) (s : State) : Host.Outcome State Fault Refusal :=
  let pc := (s.thread c).pc
  match s.fetchWords c pc with
  | .error e => let s1 := s.fetched c pc []; .next (s1.stopped (e.stop 2 pc) s1)
  | .ok ws =>
    match decodeChain ws with
    | .ok i len => if s.operandsReady c i then afterIssue c (exec i (s.fetched c pc (ws.take len))) else .next s
    | .bad sub w p => let s1 := s.fetched c pc []; afterIssue c (.next (s1.stopped (illop sub w p 0) s1))

/-- The place of a context's next instruction among the requests that a unit takes together, where it can issue and is one (R28, R291). -/
noncomputable def State.lateKey (s : State) (c : Nat) : Option Nat :=
  match s.fetchWords c (s.thread c).pc with
  | .error _ => none
  | .ok ws =>
    match decodeChain ws with
    | .ok i _ => if s.operandsReady c i then s.orderKey c i else none
    | .bad _ _ _ => none

/-- The turn of a context to issue (R15): an asynchronous cause is taken first (R393). -/
noncomputable def runTurn (c : Nat) (s : State) : Host.Outcome State Fault Refusal :=
  if s.asyncNow c then .next (if s.complete c then s.takeAsync c else s) else if s.mayIssue c then issueTurn c s else .next s

/-- The turn of a context to be chosen: a request that a unit takes in an order of its own waits for its place in the cycle. -/
noncomputable def chooseTurn (c : Nat) (s : State) : Host.Outcome State Fault Refusal :=
  if !s.asyncNow c && s.mayIssue c then
    match s.lateKey c with
    | some key => .next { s with agenda := deferTurn key c s.agenda }
    | none => issueTurn c s
  else runTurn c s

/-- The first of the ordered requests; where it does not issue, the contexts of its core that come after it have their turns. -/
noncomputable def lateTurn (s : State) : List (Nat × List Nat) → Host.Outcome State Fault Refusal
  | (_, c :: cs) :: q => runTurn c { s with agenda := cs.map .choose ++ .lates q :: s.agenda }
  | (_, []) :: q => .next { s with agenda := .lates q :: s.agenda }
  | [] => .next s

/-- One turn. An encoded instruction runs only where a context issues it. -/
noncomputable def step (s : State) : Host.Outcome State Fault Refusal :=
  match s.agenda with
  | [] => .next s.tick
  | .tick :: _ => .next s.tick
  | .ev i :: rest => if (rowOf i).isSome then .next { s with agenda := rest } else exec i { s with agenda := rest }
  | .issue c :: rest =>
    runTurn c { s with agenda := rest }
  | .choose c :: rest => chooseTurn c { s with agenda := rest }
  | .lates q :: rest => lateTurn { s with agenda := rest } q
  | .arb p :: rest => .next ({ s with agenda := rest }.arbitrate p)
  | .slice k :: rest => .next ({ s with agenda := rest }.serveSlice k)
  | .close :: rest => .next { s with agenda := s.closeTurns ++ rest }

/-! ## Placing an instruction (log entry 19) -/

/-- Where the placed instruction stands: its virtual address, and the physical one. -/
def placePc : Word := 0x0000004000000000
/-- The physical address of the placed instruction. -/
def placePa : Nat := 0x10000

/-- Context 0 of core 0 of cluster 0 as a user thread that stands before its next instruction, with nothing pending. -/
def Thread.ready (t : Thread) : Thread :=
  { t with st := .run, pc := placePc, mode := .user, pend := none, hold := none, stopReq := false, notBefore := 0, rdy := [], promise := [],
           preempt := none, vec := { t.vec with late := [], lateFrom := 0, pushed := none, fed := none },
           spec := { t.spec with abort := false, syncWait := false, abortWait := false },
           sys := { t.sys with asid := 0 } }

/-- The translation of the placed instruction's page in cluster 0's TLBs. -/
def placeTlb : TlbEnt :=
  { pcl := 0, asid := 0, va := 0x4000000000, size := 4096, pa := placePa, k := false, x := true, w := false, r := false }

/-- An instruction's words from the table's numbering, 16 bytes in memory order, every byte after them 0. -/
def placeBytes (nbits w : Nat) : List Byte :=
  ((tableWords nbits w).flatMap fun h => leBytes 2 h.toNat) ++ List.replicate (16 - nbits / 8) 0

/-- The machine with an instruction placed where the next step fetches it: the turn of context 0 stands first, its thread runs at
`placePc`, whose page is in the TLB and whose block is in the front end, and nothing holds the context back. -/
def State.withFetchWord (s : State) (nbits w : Nat) : State :=
  let s1 := s.setThread 0 (s.thread 0).ready
  let s2 := s1.setCore 0 { s1.core 0 with issued := false, divFree := 0 }
  let k := s2.clu 0
  let s3 := { s2.setClu 0 { k with fblocks := placePc.toNat :: k.fblocks } with
    tlb := placeTlb :: s2.tlb, agenda := .issue 0 :: s2.agenda,
    outer := { s2.outer with retain := { s2.outer.retain with on := false } } }
  s3.writeAt (.phys placePa) (placeBytes nbits w)

end Sys2Proof.Machine
end

