-- ==== Sys2Proof/Safety.lean ====
section
/-! DEFINITION. The terms in which statements speak: a state whose memory is in canonical form, an instruction whose way to issue is
open, and what it means that it completes with an effect. -/

namespace Sys2Proof.Machine

/-- The machine's data keep their canonical form. -/
def Safe (s : State) : Prop := Memory.wf s.mem = true

/-- A step that goes on: it neither faults nor refuses. -/
def StepsOn (s : State) : Prop := ∃ t, step s = .next t

/-- The way of an instruction of kind `k` with fields `f` to issue is open in state `s`, and its own effect begins in `s1` (R85, R88,
R103, R231, R375, R376): the mode allows it, its guard is true, no rule of a hold stops it, it is not held back by speculation, and
`s1` is `s` with the instruction counted in a hold and the frame grown to the registers it names. -/
structure Opens (k : Kind) (f : Fld) (s s1 : State) : Prop where
  spen : s.speculative s.cur = true → s.t.spec.spen = true
  mode : k.allowed s.t = true
  guard : s.P f.g.toNat = true
  hold : holdStop s.t k true = none
  irrev : k.irrev = true → s.speculative s.cur = false
  frame : (s.setT s.t.countHold).nameRegs (k.names.map (·.toNat)) = .ok s1

/-- Instruction `i` completes with an effect wherever its way to issue is open. -/
def Runs (i : Instr) (k : Kind) (f : Fld) (eff : State → State) : Prop :=
  ∀ s s1, Opens k f s s1 → exec i s = .next (eff s1)

/-- Instruction `i` completes with an effect wherever its way to issue is open and a condition on the state holds. -/
def RunsWhen (i : Instr) (k : Kind) (f : Fld) (pre : State → Prop) (eff : State → State) : Prop :=
  ∀ s s1, Opens k f s s1 → pre s1 → exec i s = .next (eff s1)

/-- The event `i` has an effect wherever a condition on the state holds. -/
def Happens (i : Instr) (pre : State → Prop) (eff : State → State) : Prop := ∀ s, pre s → exec i s = .next (eff s)

/-- W[a] takes a value and the PC moves past the chain. -/
def State.result (s : State) (f : Fld) (v : Word) : State := (s.setW f.a v).advance

/-- The same with a value that is usable only n cycles later (R123). -/
def State.lateResult (s : State) (f : Fld) (n : Nat) (v : Word) : State :=
  let s1 := s.setW f.a v
  (s1.setT (s1.t.later s.gtime f.a.toNat (s.gtime + n))).advance

/-- The core's divider is held for 34 cycles (R124). -/
def State.holdDivider (s : State) : State :=
  let k := s.core (coreId s.cur)
  s.setCore (coreId s.cur) { k with divFree := s.gtime + 34 }

/-- The state in which a page-4 instruction goes on where its thread's stream context is resident or takes a free place at once
(R302); `none` where it waits. -/
def State.strmIn (s : State) : Option State :=
  let rs := s.residents (coreId s.cur)
  let go (s : State) : State := s.setT { s.t with lastStrm := s.gtime }
  if rs.contains s.cur then some (go s) else if 2 ≤ rs.length ∨ s.t.drained = true then none else some (go s.joinUnit)

/-- The way of a page-4 instruction is open, and its own effect begins in `s1` (R302, R317): its thread's stream context is
resident, and the pending work of the combinators `regs` that it names is done. -/
def StrmOpens (irrev : Bool) (names : List (BitVec 6)) (regs : List Nat) (f : Fld) (s s1 : State) : Prop :=
  ∃ a b, Opens { irrev := irrev, names := names } f s a ∧ a.strmIn = some b ∧ State.pendAll regs b = .ok s1

/-- Page-4 instruction `i` completes with an effect wherever its way is open and a condition holds. -/
def StrmRuns (i : Instr) (irrev : Bool) (names : List (BitVec 6)) (regs : List Nat) (f : Fld) (pre : State → Prop)
    (eff : State → State) : Prop :=
  ∀ s s1, StrmOpens irrev names regs f s s1 → pre s1 → exec i s = .next (eff s1)

/-! ## The window (R102, R103) -/

/-- The frame of a CALL with k, the new unit and the resident ones fit the 64 registers and the 16 units: nothing is spilled. -/
def State.callFits (s : State) (k : Nat) : Prop :=
  max s.t.win.n k + s.t.win.nres ≤ 64 ∧ s.t.win.units.length < 16

/-- The window after a CALL with k that spills nothing (R103): the unit holds the address of the next block; the registers that enter
the frame read zero. -/
def State.called (s : State) (k : Nat) : State :=
  let w := s.t.win
  let nc := max w.n k
  s.setT { s.t with win := { w with fb := (w.fb + k) % 2 ^ 64, n := nc - k, units := { ret := s.baseBlock + 64, k := k, nc := nc } :: w.units,
                                    ring := zeroRun w.ring (w.fb + w.n) (nc - w.n) } }

/-- The caller's frame and the older units fit. -/
def State.returnFits (s : State) (u : Link) (us : List Link) : Prop :=
  max u.nc (u.k + 4) + (us.map fun x => x.k).foldl (· + ·) 0 ≤ 64 ∧ us.length ≤ 16 ∧ s.t.win.units = u :: us

/-- The window after a return through u (R103). -/
def State.returned (s : State) (u : Link) (us : List Link) : State :=
  let w := s.t.win
  let n := max u.nc (u.k + 4)
  s.setT { s.t with win := { w with fb := (w.fb + (2 ^ 64 - u.k % 2 ^ 64)) % 2 ^ 64, n := n, units := us,
                                    ring := zeroRun w.ring (w.fb + w.n) (n - (u.k + w.n)) } }

/-- The address holds a bare ENTRY base word that may be fetched now (R140). -/
def State.entryAt (s : State) (t : Word) : Prop :=
  t.toNat % 64 = 0 ∧ ∃ l, s.fetchAccess s.cur t = .ok l ∧ s.dramReady l 2 = true ∧ s.readAt l 2 / 256 = 0xE8

end Sys2Proof.Machine
end

