-- ==== Sys2Proof/WellFormed.lean ====
section
/-! DEFINITION. The instructions that an encoding of R79 to R90 can express: what checks 2 to 10 of R88 leave of the operand
fields. -/

namespace Sys2Proof

/-- A field holds a value of its class (R80), and no bits where the format has none. -/
def Cls.wf (c : Cls) (fmt : Fmt) (ext : BitVec 6) (v : BitVec 6) : Bool :=
  match c with
  | .lack => v == 0
  | .raw | .zero | .sel _ => decide (v.toNat < if fmt = .D then 8 else 16) && !c.bad7 v.toNat
  | _ => decide (v.toNat < c.lim ext) && !c.bad7 v.toNat

/-- The predicate x is named only where the row lets a PXR name it (R84). -/
def Row.xWf (r : Row) (f : Fld) : Bool := r.xp || f.x == 0

/-- The guard needs a PXR, which format D refuses (R84). -/
def Row.guardWf (r : Row) (f : Fld) : Bool := r.fmt != .D || f.g == 0

/-- ext6 passes checks 4 and 9 (R86). -/
def Row.extWf (r : Row) (f : Fld) : Bool :=
  (r.page != 0 || f.ext == 0) && !r.ext.bad4 f.ext.toNat && r.ext.bad9 f.ext.toNat f.b.toNat == 0

/-- The PXH payload has no reserved bit and stands only where a layout allows it (R87). -/
def Row.hintWf (r : Row) (f : Fld) : Bool :=
  (r.hint != .none || f.h == 0) && f.h.toNat &&& r.hint.reserved == 0

/-- The immediate fits the field that its PXI words widen (R83). -/
def Row.immWf (r : Row) (f : Fld) : Bool :=
  if r.fmt.immBits = 0 then f.k == 0 && f.imm == 0 else decide (f.imm.toNat < 2 ^ (r.fmt.immBits + 10 * f.k))

/-- At most four prefix words (R82). -/
def Row.lenWf (r : Row) (f : Fld) : Bool := decide ((r.preWords f).length ≤ 4)

/-- The fields are ones that a chain can deliver to the row. -/
def Row.wf (r : Row) (f : Fld) : Bool :=
  r.ca.wf r.fmt f.ext f.a && r.cb.wf r.fmt f.ext f.b && r.cd.wf r.fmt f.ext f.d && r.xWf f && r.guardWf f &&
    r.extWf f && r.hintWf f && r.immWf f && !r.excl.bad f && r.lenWf f

/-- Well-formed instructions: those that have an encoding; an event has no encoding and no fields to restrict. -/
def Instr.wf (i : Instr) : Bool :=
  match rowOf i with
  | some (r, f) => r.wf f
  | none => true

end Sys2Proof
end

