-- ==== Sys2Proof/Certificates/Slice0/Obligations.lean ====
section
/-! DEFINITION. The statements of the model: completions with their effects, family by family; what the machine as a whole does; the
encodings. -/

open Sys2Proof Sys2Proof.Machine

/-! ## Scalar instructions -/

/-- The two-register instructions other than multiplications and divisions complete, W[a] takes the value of R127 or R132 computed
from the old W[a] and W[b], and the PC moves past the chain. -/
def Obligations.BinaryAluCompletes : Prop := ∀ f : Fld,
  Runs (.add f) (aluKind [f.a, f.b]) f (fun s => s.result f (s.W f.a + s.W f.b)) ∧
  Runs (.sub f) (aluKind [f.a, f.b]) f (fun s => s.result f (s.W f.a - s.W f.b)) ∧
  Runs (.and f) (aluKind [f.a, f.b]) f (fun s => s.result f (s.W f.a &&& s.W f.b)) ∧
  Runs (.or f) (aluKind [f.a, f.b]) f (fun s => s.result f (s.W f.a ||| s.W f.b)) ∧
  Runs (.xor f) (aluKind [f.a, f.b]) f (fun s => s.result f (s.W f.a ^^^ s.W f.b)) ∧
  Runs (.shl f) (aluKind [f.a, f.b]) f (fun s => s.result f (s.W f.a <<< ((s.W f.b).toNat % 64))) ∧
  Runs (.shr f) (aluKind [f.a, f.b]) f (fun s => s.result f (s.W f.a >>> ((s.W f.b).toNat % 64))) ∧
  Runs (.sra f) (aluKind [f.a, f.b]) f (fun s => s.result f ((s.W f.a).sshiftRight ((s.W f.b).toNat % 64))) ∧
  Runs (.min f) (aluKind [f.a, f.b]) f
    (fun s => s.result f (if (s.W f.a).toInt ≤ (s.W f.b).toInt then s.W f.a else s.W f.b)) ∧
  Runs (.max f) (aluKind [f.a, f.b]) f
    (fun s => s.result f (if (s.W f.a).toInt ≤ (s.W f.b).toInt then s.W f.b else s.W f.a)) ∧
  Runs (.minu f) (aluKind [f.a, f.b]) f
    (fun s => s.result f (if (s.W f.a).toNat ≤ (s.W f.b).toNat then s.W f.a else s.W f.b)) ∧
  Runs (.maxu f) (aluKind [f.a, f.b]) f
    (fun s => s.result f (if (s.W f.a).toNat ≤ (s.W f.b).toNat then s.W f.b else s.W f.a)) ∧
  Runs (.mov f) (aluKind [f.a, f.b]) f (fun s => s.result f (s.W f.b)) ∧
  Runs (.clz f) (aluKind [f.a, f.b]) f (fun s => s.result f (clzW (s.W f.b))) ∧
  Runs (.ctz f) (aluKind [f.a, f.b]) f (fun s => s.result f (ctzW (s.W f.b))) ∧
  Runs (.popc f) (aluKind [f.a, f.b]) f (fun s => s.result f (popcW (s.W f.b))) ∧
  Runs (.brev f) (aluKind [f.a, f.b]) f (fun s => s.result f (s.W f.b).reverse) ∧
  Runs (.sextb f) (aluKind [f.a, f.b]) f (fun s => s.result f (sextW (s.W f.b) 8)) ∧
  Runs (.sexth f) (aluKind [f.a, f.b]) f (fun s => s.result f (sextW (s.W f.b) 16)) ∧
  Runs (.sextw f) (aluKind [f.a, f.b]) f (fun s => s.result f (sextW (s.W f.b) 32)) ∧
  Runs (.zextb f) (aluKind [f.a, f.b]) f (fun s => s.result f (zextW (s.W f.b) 8)) ∧
  Runs (.zexth f) (aluKind [f.a, f.b]) f (fun s => s.result f (zextW (s.W f.b) 16)) ∧
  Runs (.zextw f) (aluKind [f.a, f.b]) f (fun s => s.result f (zextW (s.W f.b) 32)) ∧
  Runs (.abs f) (aluKind [f.a, f.b]) f (fun s => s.result f (if (s.W f.b).toInt < 0 then 0 - s.W f.b else s.W f.b)) ∧
  Runs (.neg f) (aluKind [f.a, f.b]) f (fun s => s.result f (0 - s.W f.b))

/-- What the counting and extending instructions compute, in the words of R132: the zero bits above the highest and below the lowest
set bit (64 for 0), the low bits sign- or zero-extended. -/
def Obligations.CountsAndExtensionsValues : Prop := ∀ y : Word,
  (y = 0 → clzW y = 64 ∧ ctzW y = 64) ∧
  (y ≠ 0 → (clzW y).toNat < 64 ∧ y.toNat < 2 ^ (64 - (clzW y).toNat) ∧ 2 ^ (63 - (clzW y).toNat) ≤ y.toNat) ∧
  (y ≠ 0 → (ctzW y).toNat < 64 ∧ y.toNat % 2 ^ (ctzW y).toNat = 0 ∧ y.getLsbD (ctzW y).toNat = true) ∧
  sextW y 8 = (y.setWidth 8).signExtend 64 ∧ sextW y 16 = (y.setWidth 16).signExtend 64 ∧
  sextW y 32 = (y.setWidth 32).signExtend 64 ∧ zextW y 8 = (y.setWidth 8).setWidth 64 ∧
  zextW y 16 = (y.setWidth 16).setWidth 64 ∧ zextW y 32 = (y.setWidth 32).setWidth 64

/-- Multiplications complete with the low or the high half of the product, usable from cycle c + 3; divisions with the values of R131,
the corners included: a divisor of 0 gives all ones and leaves the dividend as the remainder, and the least value divided by −1 gives
itself with remainder 0; the divider is held for 34 cycles (R123, R124, R127, R129, R131). -/
def Obligations.MultiplyAndDivideComplete : Prop := ∀ f : Fld,
  Runs (.mul f) (aluKind [f.a, f.b]) f (fun s => s.lateResult f 3 (s.W f.a * s.W f.b)) ∧
  Runs (.mulh f) (aluKind [f.a, f.b]) f
    (fun s => s.lateResult f 3 (((s.W f.a).signExtend 128 * (s.W f.b).signExtend 128).extractLsb' 64 64)) ∧
  Runs (.mulhu f) (aluKind [f.a, f.b]) f
    (fun s => s.lateResult f 3 (((s.W f.a).setWidth 128 * (s.W f.b).setWidth 128).extractLsb' 64 64)) ∧
  Runs (.muli f) (aluKind [f.a]) f (fun s => s.lateResult f 3 (s.W f.a * immS f (4 + 10 * f.k))) ∧
  Runs (.div f) (aluKind [f.a, f.b]) f (fun s =>
    (s.lateResult f 34 (if s.W f.b = 0 then BitVec.allOnes 64 else (s.W f.a).sdiv (s.W f.b))).holdDivider) ∧
  Runs (.divu f) (aluKind [f.a, f.b]) f (fun s =>
    (s.lateResult f 34 (if s.W f.b = 0 then BitVec.allOnes 64 else s.W f.a / s.W f.b)).holdDivider) ∧
  Runs (.rem f) (aluKind [f.a, f.b]) f (fun s =>
    (s.lateResult f 34 (if s.W f.b = 0 then s.W f.a else (s.W f.a).srem (s.W f.b))).holdDivider) ∧
  Runs (.remu f) (aluKind [f.a, f.b]) f (fun s =>
    (s.lateResult f 34 (if s.W f.b = 0 then s.W f.a else s.W f.a % s.W f.b)).holdDivider)

/-- The immediate instructions complete with the values of R128 and R129; the signed immediates are widened from 4 or 8 bits by 10
bits for each PXI, the unsigned ones zero-extended. -/
def Obligations.ImmediateAluCompletes : Prop := ∀ f : Fld,
  Runs (.addi f) (aluKind [f.a]) f (fun s => s.result f (s.W f.a + immS f (8 + 10 * f.k))) ∧
  Runs (.li f) (aluKind [f.a]) f (fun s => s.result f (immS f (8 + 10 * f.k))) ∧
  Runs (.shli f) (aluKind [f.a]) f (fun s => s.result f (s.W f.a <<< ((immZ f).toNat % 64))) ∧
  Runs (.shri f) (aluKind [f.a]) f (fun s => s.result f (s.W f.a >>> ((immZ f).toNat % 64))) ∧
  Runs (.srai f) (aluKind [f.a]) f (fun s => s.result f ((s.W f.a).sshiftRight ((immZ f).toNat % 64))) ∧
  Runs (.andi f) (aluKind [f.a]) f (fun s => s.result f (s.W f.a &&& immS f (4 + 10 * f.k))) ∧
  Runs (.ori f) (aluKind [f.a]) f (fun s => s.result f (s.W f.a ||| immZ f)) ∧
  Runs (.xori f) (aluKind [f.a]) f (fun s => s.result f (s.W f.a ^^^ immZ f)) ∧
  Runs (.prdw f) (aluKind [f.a]) f (fun s => s.result f ((s.t.pw ||| 1).setWidth 64)) ∧
  Runs (.cmov f) (aluKind [f.a, f.b]) f (fun s => if s.P (f.d.toNat % 8) = !f.d.getLsbD 3 then s.result f (s.W f.b) else s.advance) ∧
  Runs (.lpc f) (freeKind [f.a]) f (fun s => s.result f (s.baseBlock + immS f (4 + 10 * f.k) * 64)) ∧
  Runs (.gtime f) (freeKind [f.a]) f (fun s => s.result f (BitVec.ofNat 64 s.gtime)) ∧
  Runs (.tid f) (freeKind [f.a]) f (fun s => s.result f (BitVec.ofNat 64 s.t.tid))

/-- The compares complete: the predicate that x names (p1 where x is 0) takes the truth of the relation of R133 or R134, and no
register changes. The predicate instructions complete with the values of R136; a write to p0 is discarded (R111). -/
def Obligations.CompareAndPredicateComplete : Prop := ∀ f : Fld,
  Runs (.eq f) (aluKind [f.a, f.b]) f (fun s => (s.setP (destP f.x) (decide (s.W f.a = s.W f.b))).advance) ∧
  Runs (.ne f) (aluKind [f.a, f.b]) f (fun s => (s.setP (destP f.x) (decide (s.W f.a ≠ s.W f.b))).advance) ∧
  Runs (.lt f) (aluKind [f.a, f.b]) f (fun s => (s.setP (destP f.x) (decide ((s.W f.a).toInt < (s.W f.b).toInt))).advance) ∧
  Runs (.ge f) (aluKind [f.a, f.b]) f (fun s => (s.setP (destP f.x) (decide ((s.W f.b).toInt ≤ (s.W f.a).toInt))).advance) ∧
  Runs (.ltu f) (aluKind [f.a, f.b]) f (fun s => (s.setP (destP f.x) (decide (s.W f.a < s.W f.b))).advance) ∧
  Runs (.geu f) (aluKind [f.a, f.b]) f (fun s => (s.setP (destP f.x) (decide (s.W f.b ≤ s.W f.a))).advance) ∧
  Runs (.tst f) (aluKind [f.a, f.b]) f (fun s => (s.setP (destP f.x) (decide (s.W f.a &&& s.W f.b ≠ 0))).advance) ∧
  Runs (.tstn f) (aluKind [f.a, f.b]) f (fun s => (s.setP (destP f.x) (decide (s.W f.a &&& s.W f.b = 0))).advance) ∧
  Runs (.eqi f) (aluKind [f.a]) f (fun s => (s.setP (destP f.x) (decide (s.W f.a = immS f (4 + 10 * f.k)))).advance) ∧
  Runs (.nei f) (aluKind [f.a]) f (fun s => (s.setP (destP f.x) (decide (s.W f.a ≠ immS f (4 + 10 * f.k)))).advance) ∧
  Runs (.lti f) (aluKind [f.a]) f
    (fun s => (s.setP (destP f.x) (decide ((s.W f.a).toInt < (immS f (4 + 10 * f.k)).toInt))).advance) ∧
  Runs (.gei f) (aluKind [f.a]) f
    (fun s => (s.setP (destP f.x) (decide ((immS f (4 + 10 * f.k)).toInt ≤ (s.W f.a).toInt))).advance) ∧
  Runs (.ltui f) (aluKind [f.a]) f (fun s => (s.setP (destP f.x) (decide (s.W f.a < immZ f))).advance) ∧
  Runs (.geui f) (aluKind [f.a]) f (fun s => (s.setP (destP f.x) (decide (immZ f ≤ s.W f.a))).advance) ∧
  Runs (.pand f) (aluKind []) f (fun s => (s.setP f.a.toNat (s.P f.a.toNat && s.P f.b.toNat)).advance) ∧
  Runs (.por f) (aluKind []) f (fun s => (s.setP f.a.toNat (s.P f.a.toNat || s.P f.b.toNat)).advance) ∧
  Runs (.pxor f) (aluKind []) f (fun s => (s.setP f.a.toNat (s.P f.a.toNat ^^ s.P f.b.toNat)).advance) ∧
  Runs (.pnot f) (aluKind []) f (fun s => (s.setP f.a.toNat (!s.P f.b.toNat)).advance) ∧
  Runs (.pmov f) (aluKind []) f (fun s => (s.setP f.a.toNat (s.P f.b.toNat)).advance) ∧
  Runs (.pset f) (aluKind []) f (fun s => (s.setP f.a.toNat true).advance) ∧
  Runs (.pclr f) (aluKind []) f (fun s => (s.setP f.a.toNat false).advance) ∧
  Runs (.psel f) (aluKind []) f
    (fun s => (s.setP f.a.toNat (if s.P 1 then s.P f.a.toNat else s.P f.b.toNat)).advance) ∧
  Runs (.pwrw f) (aluKind [f.b]) f (fun s => (s.setT { s.t with pw := (s.W f.b).setWidth 8 ||| 1 }).advance)

/-! ## Control -/

/-- BR and BRN go to the block-relative target where their predicate holds (BR) or does not (BRN), and on to the next instruction
otherwise; NOP and VWAIT with no vector work only advance; YIELD keeps the next instruction back until cycle c + 4. -/
def Obligations.BranchCompletes : Prop := ∀ f : Fld,
  Runs (.br f) (freeKind []) f
    (fun s => if s.P f.a.toNat then s.jump (s.baseBlock + immS f (9 + 10 * f.k) * 64) else s.advance) ∧
  Runs (.brn f) (freeKind []) f
    (fun s => if s.P f.a.toNat then s.advance else s.jump (s.baseBlock + immS f (9 + 10 * f.k) * 64)) ∧
  Runs (.nop f) (freeKind []) f (fun s => s.advance) ∧
  Runs (.yield f) {} f (fun s => (s.setT { s.t with notBefore := s.gtime + 4 }).advance) ∧
  RunsWhen (.vwait f) {} f (fun s => (s.t.vec.seq.all fun e => e.page != 1) = true ∧ s.t.vec.under s.gtime = 0) (fun s => s.advance)

/-- CALL and CALLR push a unit with the address of the next block, move the frame by k and go to the target; where the frame, its
older units and the new one fit the 64 registers, nothing is spilled, and the registers that enter the frame read zero (R103, R139,
R142). JMPR goes to a checked target (R140, R141). -/
def Obligations.CallCompletes : Prop := ∀ f : Fld,
  RunsWhen (.call f) {} f (fun s => s.callFits f.a.toNat)
    (fun s => (s.called f.a.toNat).jump (s.baseBlock + immS f (8 + 10 * f.k) * 64)) ∧
  RunsWhen (.callr f) { names := [f.a] } f (fun s => s.callFits f.b.toNat ∧ s.entryAt (s.W f.a))
    (fun s => (s.called f.b.toNat).jump (s.W f.a)) ∧
  RunsWhen (.jmpr f) { names := [f.a] } f (fun s => s.entryAt (s.W f.a)) (fun s => s.jump (s.W f.a))

/-- RET through a resident unit whose address is aligned gives the frame back and goes to the unit's address; RET from the entry frame
of a thread that is not speculative and whose vector work and matrix jobs are done ends the thread (R103, R143, R185, R328). -/
def Obligations.ReturnCompletes : Prop := ∀ f : Fld,
  (∀ s s1 u us, Opens {} f s s1 → u.ret.toNat % 64 = 0 → s1.returnFits u us →
    exec (.ret f) s = .next ((s1.returned u us).jump u.ret)) ∧
  RunsWhen (.ret f) {} f (fun s => s.t.win.units = [] ∧ s.t.win.nspill = 0 ∧ s.speculative s.cur = false ∧
      s.t.vec.seq = [] ∧ s.t.vec.under s.gtime = 0 ∧ s.t.jobs = 0)
    (fun s => s.setT { s.t with st := .done })

/-- ENTRY sets the frame's size; QPUT appends to a queue with room, and notes the cycle, in which the vector stream cannot pop the entry
yet; QGET takes the oldest entry of one that is not empty (R112, R113, R145, R147). -/
def Obligations.FrameAndQueueCompletes : Prop := ∀ f : Fld,
  (∀ s s1 s2, Opens {} f s s1 → s1.resize (f.a.toNat * 16 + f.b.toNat) = .ok s2 → exec (.entry f) s = .next s2.advance) ∧
  RunsWhen (.qput f) { irrev := true, names := [f.b] } f (fun s => (s.t.queue f.a.toNat).length < 8)
    (fun s => let t := s.t.setQueue f.a.toNat (s.t.queue f.a.toNat ++ [s.W f.b])
      (s.setT { t with vec := { t.vec with fed := some (f.a.toNat, s.gtime) } }).advance) ∧
  (∀ s s1 v vs, Opens { irrev := true, names := [f.a] } f s s1 → s1.t.queue f.b.toNat = v :: vs →
    exec (.qget f) s = .next (((s1.setT (s1.t.setQueue f.b.toNat vs)).setW f.a v).advance))

/-! ## Memory -/

/-- A load's issue: the checks of R224 pass, and with sequential ordering every earlier access is performed; the access is under way
with the fields that its return needs (R225, R228, R229). -/
def Obligations.LoadIssueCompletes : Prop := ∀ (f : Fld) (s s1 : State) (l : Loc),
  (Opens { names := [f.a, f.d] } f s s1 →
    let va := s1.W f.a + immS f (4 + 10 * f.k) * 8
    s1.check va 8 { r := true } 0 = .ok l →
    exec (.ld f) s = .next (s1.startPend { s1.mkPend 1 0 l va 8 f s.t.win with sx := false, d := f.d.toNat, acq := false })) ∧
  (Opens { irrev := extOrd f != 0, names := [f.a, f.b, f.d] } f s s1 →
    let va := s1.W f.a + s1.W f.b
    s1.check va (extSize f) { r := true } 0 = .ok l → (extOrd f = 3 → s1.released s1.cur = true) →
    exec (.ldr f) s = .next (s1.startPend { s1.mkPend 1 (extOrd f) l va (extSize f) f s.t.win with
      sx := extSx f, d := f.d.toNat, acq := extOrd f != 0 })) ∧
  (Opens { irrev := extOrd f != 0, names := [f.a, f.d] } f s s1 →
    let va := s1.W f.a + immS f (4 + 10 * f.k) * BitVec.ofNat 64 (extSize f)
    s1.check va (extSize f) { r := true } 0 = .ok l → (extOrd f = 3 → s1.released s1.cur = true) →
    exec (.ldi f) s = .next (s1.startPend { s1.mkPend 1 (extOrd f) l va (extSize f) f s.t.win with
      sx := extSx f, d := f.d.toNat, acq := extOrd f != 0 }))

/-- A load's return: from the home of local memory, from a usable copy of the cluster L1, and from the home of global memory where
the read finds no uncorrectable error, the value is written to W[d], the PC moves past the chain, and an acquire sets RH (R210,
R220, R225). -/
def Obligations.LoadReturnCompletes : Prop := ∀ (s : State) (c lease : Nat) (p : Pend),
  (s.thread c).pend = some p → p.kind = 1 → p.op ≠ 3 → s.speculative c = false → (s.thread c).spec.sb = [] →
  (∀ k o, p.loc = .slice k o → s.loadServable c (p.path c) p.loc p.size p.cls p.sq p.sent false = true →
    exec (.loadDataReturn c lease) s = .next (s.finishLoad c p (s.valueAt p.loc p.size))) ∧
  (∀ pa x, p.loc = .phys pa → s.l1Usable (pclOf c) p.loc p.t0 p.rh.toNat = some x →
    exec (.loadDataReturn c lease) s = .next ((s.l1Use (pclOf c) x).finishLoad c p (x.value pa p.size))) ∧
  (∀ pa s1, p.loc = .phys pa → s.l1Usable (pclOf c) p.loc p.t0 p.rh.toNat = none →
    s.loadServable c (p.path c) p.loc p.size p.cls p.sq p.sent false = true →
    s.homeRead { code := 1, c := some c } p.loc p.size p.cls = (s1, false) →
    (s.asksLease c p.loc p.cls false = true →
      exec (.loadDataReturn c lease) s = .next ((s1.l1Fill (pclOf c) pa p.cls lease).finishLoad c p (s.valueAt p.loc p.size))) ∧
    (s.asksLease c p.loc p.cls false = false →
      exec (.loadDataReturn c lease) s = .next (s1.finishLoad c p (s.valueAt p.loc p.size))))

/-- A store's issue: the checks of R224 pass; outside speculation the store enters its path with its bytes, where a release waits for
every earlier access and a sequential store for its own write too; a speculative plain store goes to the store buffer while it has one
of its 64 places (R208, R224, R228, R229, R377). -/
def Obligations.StoreIssueCompletes : Prop := ∀ (f : Fld) (s s1 : State) (l : Loc),
  (s1.speculative s1.cur = false → s1.t.spec.sb = [] →
    (Opens { names := [f.a, f.d] } f s s1 →
      let va := s1.W f.a + immS f (4 + 10 * f.k) * 8
      s1.check va 8 { w := true } 1 = .ok l →
      exec (.st f) s = .next (s1.pushStore l 8 (s1.W f.d).toNat (temporal f) false (pathOf s1.cur va l)).advance) ∧
    (Opens { irrev := extOrd f != 0, names := [f.a, f.b, f.d] } f s s1 →
      let va := s1.W f.a + s1.W f.b
      s1.check va (extSize f) { w := true } 1 = .ok l → extOrd f ≠ 3 → (extOrd f = 2 → s1.released s1.cur = true) →
      exec (.str f) s = .next (s1.pushStore l (extSize f) (s1.W f.d).toNat (temporal f) false (pathOf s1.cur va l)).advance) ∧
    (Opens { irrev := extOrd f != 0, names := [f.a, f.d] } f s s1 →
      let va := s1.W f.a + immS f (4 + 10 * f.k) * BitVec.ofNat 64 (extSize f)
      s1.check va (extSize f) { w := true } 1 = .ok l → extOrd f ≠ 3 → (extOrd f = 2 → s1.released s1.cur = true) →
      exec (.sti f) s = .next (s1.pushStore l (extSize f) (s1.W f.d).toNat (temporal f) false (pathOf s1.cur va l)).advance)) ∧
  (Opens { names := [f.a, f.d] } f s s1 → s1.speculative s1.cur = true → s1.t.spec.sb.length < 64 →
    let va := s1.W f.a + immS f (4 + 10 * f.k) * 8
    s1.check va 8 { w := true } 1 = .ok l →
    exec (.st f) s = .next (s1.bufStore s1.cur { loc := l, va := va, size := 8, v := (s1.W f.d).toNat, cls := temporal f }).advance)

/-- A store is performed at its home: it leaves its path, and its bytes are written at its home (R207, R211). -/
def Obligations.StoreAtHomeCompletes : Prop := ∀ (s : State) (k p n : Nat) (o : PathOp),
  ((s.core k).path p)[n]? = some o → s.storeEnabled k p n = true → o.arel = false → o.vec = false → (s.thread o.c).pend = none →
  exec (.storeAtHome k p n) s =
    .next ((s.setCore k ((s.core k).setPath p (((s.core k).path p).eraseIdx n))).homeWrite { c := some o.c, vt := o.vt } o.loc
      (leBytes o.size o.v) o.cls)

/-- What the return of a load leaves: W[d] holds the value extended to 64 bits, the thread goes on after the chain, every other
register, predicate, vector register and queue and all of memory are as before; with an acquire, RH is GTIME. The frame of a store at
its home: every byte of memory outside the bytes it stores keeps its value, and the stored bytes take the bytes of its value, the least
significant first, where they lie in local memory (R4, R207, R212, R222, R225). -/
def Obligations.LoadAndStoreFrames : Prop :=
  (∀ (s : State) (c : Nat) (p : Pend) (v : Nat),
    let t := s.thread c
    let u := (s.finishLoad c p v).thread c
    u.w p.d = extend p.sx p.size v ∧ (∀ i, i < 64 → p.d < 64 → i ≠ p.d → u.w i = t.w i) ∧ u.pc = p.next ∧ u.pend = none ∧
    u.pw = t.pw ∧ u.vec = t.vec ∧ u.q = t.q ∧ u.win.n = t.win.n ∧ u.win.fb = t.win.fb ∧
    u.sys = (if p.acq then { t.sys with rh := BitVec.ofNat 64 s.gtime } else t.sys) ∧
    (∀ c', c' ≠ c → (s.finishLoad c p v).thread c' = s.thread c') ∧ (s.finishLoad c p v).mem = s.mem) ∧
  (∀ (s t : State) (k p n : Nat) (o : PathOp),
    ((s.core k).path p)[n]? = some o → exec (.storeAtHome k p n) s = .next t →
    (∀ key, key ∉ s.keys o.loc o.size → memGet t.mem key = memGet s.mem key) ∧
    (∀ c off i, o.loc = .slice c off → i < o.size → s.storeEnabled k p n = true →
      t.byteAt o.loc i = BitVec.ofNat 8 (o.v / 256 ^ i)))

/-- ARSV and the atomics start their access where the checks pass and no buffered store of the thread is left; the grant performs it (R230,
R233, R235, R380). -/
def Obligations.AtomicIssueCompletes : Prop := ∀ (f : Fld) (s s1 : State) (l : Loc), s1.t.spec.sb = [] →
  (Opens { irrev := true, names := [f.a, f.b, f.d] } f s s1 →
    let va := s1.W f.a + s1.W f.b
    (extOrd f = 3 → s1.released s1.cur = true) → s1.check va (extSize f) { r := true, w := true } 3 = .ok l → l.outside = false →
    exec (.arsv f) s = .next (s1.startPend { s1.mkPend 2 (extOrd f) l va (extSize f) f s.t.win with
      sx := extSx f, d := f.d.toNat, acq := extOrd f % 2 == 1 })) ∧
  (∀ i fn, (i, fn) ∈ [(Instr.aadd f, 0), (.aand f, 1), (.aor f, 2), (.axor f, 3), (.amin f, 4), (.amax f, 5), (.aminu f, 6),
      (.amaxu f, 7), (.aswap f, 8), (.acas f, 9), (.afadd f, 10), (.afmin f, 11)] →
    Opens { irrev := true, names := if fn = 9 then [f.a, f.b, f.b + 1] else [f.a, f.b] } f s s1 →
    (2 ≤ extOrd f → s1.released s1.cur = true) → s1.checkAmo fn (extSize f) (s1.W f.a) = .ok l →
    exec i s = .next ((s1.storeDrop s1.cur l).startPend { (s1.storeDrop s1.cur l).mkPend 3 fn l (s1.W f.a) (extSize f) f s.t.win with
      sx := extSx f, d := f.b.toNat, acq := extOrd f % 2 == 1, opnd := s1.W f.b, new := s1.Wn f.b 1 })) ∧
  (∀ i fn k, (i, fn) ∈ [(Instr.vamoAadd f, 0), (.vamoAand f, 1), (.vamoAor f, 2), (.vamoAxor f, 3), (.vamoAmin f, 4),
      (.vamoAmax f, 5), (.vamoAminu f, 6), (.vamoAmaxu f, 7), (.vamoAswap f, 8), (.vamoAcas f, 9), (.vamoAfadd f, 10),
      (.vamoAfmin f, 11)] →
    Opens { irrev := true, names := [f.a] } f s s1 → s1.t.vec.seq = [] → s1.t.vec.under s1.gtime = 0 →
    (2 ≤ extOrd f → s1.released s1.cur = true) → vamoLane s1.t.sys.tamask 4 0 = some k →
    let va := s1.W f.a + sextW (BitVec.ofNat 64 (lane 32 (s1.t.vr f.b.toNat) k)) 32
    s1.checkAmo fn (extSize f) va = .ok l →
    exec i s = .next ((s1.storeDrop s1.cur l).startPend { s1.mkPend 4 fn l va (extSize f) f s.t.win with
      sx := extSx f, d := f.b.toNat, acq := extOrd f % 2 == 1, rh := s1.W f.a, lane := k,
      opnd := BitVec.ofNat 64 (lane 32 (s1.t.vr (f.b.toNat + 1)) k),
      new := BitVec.ofNat 64 (lane 32 (s1.t.vr (f.b.toNat + 2)) k) }))

/-- AREL of the held word, outside sequential ordering, sends the word to its home and ends the thread's hold. The grant of a
reservation: an ARSV's thread holds the word and reads it; an atomic writes the new value of R233 and its thread reads the old one
(R230, R231, R233). -/
def Obligations.ReservationCompletes : Prop :=
  (∀ (f : Fld) (s s1 : State) (h : Hold),
    Opens { inHold := true, arel := true, irrev := true, names := [f.a, f.b, f.d] } f s s1 → s1.t.hold = some h →
    h.va = s1.W f.a + s1.W f.b → h.size = extSize f → s1.t.spec.sb = [] → extOrd f ≠ 3 → (extOrd f = 2 → s1.released s1.cur = true) →
    exec (.arel f) s =
      .next (let s2 := s1.pushStore h.loc h.size (s1.W f.d).toNat (temporal f) true 2
             (s2.setT { s2.t with hold := none }).advance)) ∧
  (∀ (s s1 : State) (c : Nat) (p : Pend),
    (s.thread c).pend = some p → s.rsvq.contains c = true → s.atHead c p = true → s.ready (some c) p.loc p.size true = true →
    s.complete c = true → s.atomicRefused p = false →
    ({ s with rsvq := s.rsvq.erase c } : State).homeRead { code := 1, c := some c } p.loc p.size p.cls = (s1, false) →
    let old := s.valueAt p.loc p.size
    (p.kind = 2 → exec (.reservationGrant c) s =
      .next (let s2 := { s1.storeDrop c p.loc with resv := s1.resv ++ [({ loc := p.loc, size := p.size, holder := c } : Resv)] }
             (s2.setThread c { (s2.thread c).setW p.d (extend p.sx p.size old) with
               hold := some { loc := p.loc, va := p.va, size := p.size, count := 0 } }).endPend c p)) ∧
    (p.kind = 3 → exec (.reservationGrant c) s =
      .next (let s2 := (s1.homeWrite { s1.writer c with request := false } p.loc (leBytes p.size (amoNew p.op p.size old p.opnd.toNat p.new.toNat)) p.cls).storeDrop
               c p.loc
             (s2.setThread c ((s2.thread c).setW p.d (extend p.sx p.size old))).endPend c p)))

/-- The fences complete where what they order is performed; those of cluster scope and wider set RH (R212, R216, R217, R237). LSYNC
sets RH (R239). -/
def Obligations.FenceCompletes : Prop := ∀ f : Fld,
  (∀ i, i ∈ [Instr.fenceCluster f, .fenceDie f, .fenceDevice f, .fenceSystem f] →
    RunsWhen i { irrev := true } f (fun s => s.released s.cur = true) (fun s => (s.acquire s.cur).advance)) ∧
  (∀ i, i ∈ [Instr.fenceCore f, .fenceLoop f] →
    RunsWhen i { irrev := true } f
      (fun s => s.ownIn s.cur 0 = false ∧ s.ownIn s.cur 1 = false ∧ s.t.spec.sb = [] ∧ s.t.vmemPending = false) (fun s => s.advance)) ∧
  Runs (.lsync f) {} f (fun s => (s.acquire s.cur).advance)

/-- PREF, CWB, CINV, PIN, UNPIN and MIGR complete with the effects of R239 to R241 and R252. -/
def Obligations.CacheControlCompletes : Prop := ∀ f : Fld,
  RunsWhen (.pref f) { names := [f.a] } f (fun s => s.prefAddr (s.W f.a) = none) (fun s => s.advance) ∧
  (∀ s s1 s2 pa, Opens { names := [f.a] } f s s1 → s1.prefAddr (s1.W f.a) = some pa → temporal f ≠ 3 → isSteward s1.cur = false →
    s1.ready (some s1.cur) (.phys (pa / 256 * 256)) 256 false = true →
    s1.l2ReadSector { code := 0 } (pa / 256 * 256) 256 (temporal f) true = (s2, false) →
    exec (.pref f) s = .next (s2.l1Fill (pclOf s1.cur) (pa / 256 * 256) (temporal f) 4095).advance) ∧
  (∀ s s1 pa, Opens { irrev := true, names := [f.a] } f s s1 → s1.cacheAddr (s1.W f.a) = .ok (some pa) →
    s1.ownToLine s1.cur (pa / 1024) = false → s1.t.vmemPending = false → s1.t.spec.sb = [] →
    exec (.cwb f) s = .next (({ s1 with l2 := s1.l2.map fun (x : L2Line) =>
      if x.line = pa / 1024 then { x with dirty := 0 } else x } : State).advance)) ∧
  (∀ s s1 pa, Opens { names := [f.a] } f s s1 → s1.prefAddr (s1.W f.a) = some pa →
    exec (.cinv f) s = .next (s1.l1Drop (pclOf s1.cur) (pa / 256)).advance) ∧
  (∀ s s1 p, Opens { irrev := true, names := [f.a, f.b] } f s s1 → pinSpan (s1.W f.a) (s1.W f.b) = false →
    s1.translate (s1.who s1.cur) (s1.W f.a).toNat = .ok p →
    exec (.pin f) s = .next (let r := s1.pin (s1.W f.a) (s1.W f.b) p; r.1.result f (BitVec.ofNat 64 r.2))) ∧
  (∀ s s1, Opens { irrev := true, names := [f.a] } f s s1 → bitsOf (s1.W f.a) 63 2 = 0 →
    let i := bitsOf (s1.W f.a) 1 0
    let r : Arr := mget {} s1.arrs i
    r.holder = some s1.t.lid →
    exec (.unpin f) s = .next (({ s1 with
      arrs := mset s1.arrs i { r with holder := none } } : State).result f 0)) ∧
  (∀ s s1 pa, Opens { irrev := true, names := [f.a, f.b] } f s s1 → s1.cacheAddr (s1.W f.a) = .ok pa →
    exec (.migr f) s = .next (let r := s1.migr pa (s1.W f.b); (r.1.setW f.b (BitVec.ofNat 64 r.2)).advance))

/-- Buffered stores drain in order once the thread is no longer speculative, a fetch block arrives, and a walk ends: its translation
enters the cluster's TLB of 1,024 entries, the misses that joined it end, and other clusters' TLBs keep theirs (R77, R380, R396, R398). -/
def Obligations.MemoryEventsHappen : Prop :=
  (∀ s c e es, s.speculative c = false → (s.thread c).spec.abort = false → (s.thread c).spec.sb = e :: es → es ≠ [] →
    s.moving c e.va e.size = false → s.ready (some c) e.loc e.size true = true → s.pathClear c (pathOf c e.va e.loc) e.loc = true →
    exec (.storeDrain c) s = .next
      ((s.setThread c { s.thread c with spec := { (s.thread c).spec with sb := es } }).storeNow c e.loc e.size e.v e.cls)) ∧
  (∀ s c l, (s.thread c).st = .run → (s.thread c).asyncReady = false → s.haveBlock c (s.thread c).pc = false →
    s.fetchAccess c (s.thread c).pc = .ok l → s.dramReady l 2 = true →
    ∀ s1, s.homeRead { code := 1, c := some c } l (64 - (s.thread c).pc.toNat % 64) 0 = (s1, false) →
    exec (.fetchBlockArrival c) s = .next (s1.setClu (pclOf c)
      { s1.clu (pclOf c) with fblocks := blockOf64 (s.thread c).pc :: (s1.clu (pclOf c)).fblocks })) ∧
  (∀ s pcl asid va p, s.walk (some pcl) asid va = .ok p → ∃ t, exec (.pageWalk pcl asid va) s = .next t ∧
    t.tlb.head? = some { pcl := pcl, asid := asid, va := p.va, size := p.size, pa := p.pa, k := p.k, x := p.x, w := p.w, r := p.r } ∧
    t.walks = s.walks.filter (fun m => m != { pcl := pcl, asid := asid, page := pageOf va }) ∧
    (∀ e ∈ s.tlb, e.pcl ≠ pcl → e ∈ t.tlb) ∧
    t.mem = s.mem ∧ t.thr = s.thr)

/-! ## The vector sequencer -/

/-- A page-1 instruction outside a VLOOP body is dispatched where one of the 16 entries is free; a member takes its reserved place
whatever its guard; VLOOP takes its own entry and reserves its body's (R173, R175, R187, R201). -/
def Obligations.VectorDispatchCompletes : Prop := ∀ f : Fld,
  (∀ i id, (i, id) ∈ [(Instr.vadd f, rowVadd.id), (.vsub f, rowVsub.id), (.vmul f, rowVmul.id), (.vmulh f, rowVmulh.id),
      (.vmin f, rowVmin.id), (.vmax f, rowVmax.id), (.vand f, rowVand.id), (.vor f, rowVor.id), (.vxor f, rowVxor.id),
      (.vshl f, rowVshl.id), (.vshr f, rowVshr.id), (.vsra f, rowVsra.id), (.vabs f, rowVabs.id), (.vneg f, rowVneg.id),
      (.vmov f, rowVmov.id), (.vavg f, rowVavg.id), (.vfma f, rowVfma.id), (.vfms f, rowVfms.id), (.veq f, rowVeq.id),
      (.vne f, rowVne.id), (.vlt f, rowVlt.id), (.vge f, rowVge.id), (.vle f, rowVle.id), (.vgt f, rowVgt.id),
      (.vunord f, rowVunord.id), (.vord f, rowVord.id), (.vsel f, rowVsel.id), (.vrcp f, rowVrcp.id), (.vrsq f, rowVrsq.id),
      (.vrcpr f, rowVrcpr.id), (.vrsqr f, rowVrsqr.id), (.vexp2 f, rowVexp2.id), (.vlog2 f, rowVlog2.id), (.vsqrt f, rowVsqrt.id),
      (.vdiv f, rowVdiv.id), (.vfloor f, rowVfloor.id), (.vceil f, rowVceil.id), (.vrndn f, rowVrndn.id), (.vtrunc f, rowVtrunc.id),
      (.vclass f, rowVclass.id), (.vcvt f, rowVcvt.id), (.vshuf f, rowVshuf.id), (.vbcast f, rowVbcast.id), (.vzipl f, rowVzipl.id),
      (.vziph f, rowVziph.id), (.vuzpl f, rowVuzpl.id), (.vuzph f, rowVuzph.id), (.vrsum f, rowVrsum.id), (.vrmin f, rowVrmin.id),
      (.vrmax f, rowVrmax.id), (.vdot f, rowVdot.id), (.vsplat f, rowVsplat.id), (.vputq f, rowVputq.id), (.vputqh f, rowVputqh.id),
      (.vgetq2 f, rowVgetq2.id), (.vld f, rowVld.id), (.vld1 f, rowVld1.id), (.vst f, rowVst.id), (.vst1 f, rowVst1.id),
      (.vlde f, rowVlde.id)] →
    (∀ s s1, Opens {} f s s1 → s.t.vec.bodyLeft = 0 → s1.entriesUsed < 16 →
      exec i s = .next (s1.enqueue 1 id f true false []).advance) ∧
    (∀ s s1, Opens {} f s s1 → 0 < s.t.vec.bodyLeft → exec i s = .next (s1.enqueue 1 id f true true []).advance) ∧
    (∀ s, s.P f.g.toNat = false → 0 < s.t.vec.bodyLeft → s.t.hold = none → (s.speculative s.cur = true → s.t.spec.spen = true) →
      exec i s = .next (s.enqueue 1 id f false true []).advance)) ∧
  RunsWhen (.vloop f) {} f (fun s => s.checkBody f.a.toNat 1 s.ir.next = .ok () ∧ s.entriesUsed + f.a.toNat + 1 ≤ 16)
    (fun s => let s1 := s.enqueue 1 rowVloop.id f true false [];
      (s1.setT { s1.t with vec := { s1.t.vec with bodyLeft := f.a.toNat } }).advance)

/-- The head entry of a vector stream issues in a cycle in which its core has issued none: a computing operation writes its
destination, ORs its flags into FPCSR and leaves the queue; nothing else of the machine's memory, of the thread's window, queues and
other vector registers, or of other threads changes (R164, R173, R176, R190). -/
def Obligations.VectorIssueHappens : Prop := ∀ (s : State) (c : Nat) (e : SeqEnt) (es : List SeqEnt),
  let u := s.thread c
  let dst := if e.maj = 1 ∨ e.maj = 2 ∨ e.maj = 4 then e.f.d.toNat else e.f.a.toNat
  let r := vecCompute e.maj e.fn (e.f.ext.toNat / 4) (e.f.ext.toNat % 4) e.rm ((e.vals.getD 0 0).toNat % 32) e.f.d.toNat e.f.b.toNat
    (u.vr e.f.d.toNat) (u.vr e.f.a.toNat) (u.vr e.f.b.toNat)
  u.st = .run → u.stopReq = false → u.vec.halted = false → u.vec.loop = none → u.vec.seq = e :: es →
  (s.core (coreId c)).vissued = false → e.page = 1 → e.maj < 8 → e.queueNeed = none → e.guard = true → s.vecReady c e = true →
  ∃ t, exec (.vectorIssue c) s = .next t ∧ (t.thread c).vr dst = r.1 ∧
    (t.thread c).sys = { u.sys with fpcsr := u.sys.fpcsr ||| r.2.word } ∧ (t.thread c).vec.seq = es ∧
    (∀ n, n ≠ dst → (t.thread c).vr n = u.vr n) ∧ (t.thread c).win = u.win ∧ (t.thread c).q = u.q ∧ (t.thread c).pc = u.pc ∧
    (∀ c', c' ≠ c → t.thread c' = s.thread c') ∧ t.mem = s.mem

/-- Integer lanes: with mode 0 a result wraps to the lane's width, whatever the sign of the type; unsigned saturation stops at the
type's bounds; the bitwise operations take whole registers (R152, R190). -/
def Obligations.IntegerLaneValues : Prop := ∀ (ty i : Nat) (a b : V128), ty < 8 → i < 128 / tyBits ty →
  let w := tyBits ty
  let x := lane w a i
  let y := lane w b i
  lane w (vAdd ty 0 a b).1 i = (x + y) % 2 ^ w ∧ lane w (vSub ty 0 a b).1 i = (x + 2 ^ w - y) % 2 ^ w ∧
  lane w (vMul ty 0 a b).1 i = x * y % 2 ^ w ∧
  (4 ≤ ty → lane w (vAdd ty 1 a b).1 i = min (x + y) (2 ^ w - 1) ∧ lane w (vSub ty 1 a b).1 i = x - y ∧
    lane w (vMin ty a b).1 i = min x y ∧ lane w (vMax ty a b).1 i = max x y) ∧
  lane w (vShr ty a b).1 i = x / 2 ^ (y % w) ∧
  (vAnd a b).1 = a &&& b ∧ (vOr a b).1 = a ||| b ∧ (vXor a b).1 = a ^^^ b ∧ (vMov a b).1 = b

/-! ## Copies and token queues -/

/-- A COPY instruction reads its request block and answers in W[b]: GTIME where a check fails, with the COPYDONE of the status posted
at once, and the promise of the command where it is accepted (R263 to R268). CFREE takes its cluster out of the record of a multicast
of its launch, and has no effect where no cluster is named (R279). -/
def Obligations.CopyIssueCompletes : Prop :=
  (∀ (f : Fld) (i : Instr) (fn : Nat),
    (i, fn) ∈ [(Instr.cfetch f, 0), (.cstore f, 1), (.csend f, 2), (.cmcast f, 3), (.cgath f, 4), (.cscat f, 5), (.cseal f, 7),
      (.copen f, 8)] →
    ∀ s s1 s2 raw, Opens { irrev := true, names := [f.a, f.b] } f s s1 → s1.storesOut s1.cur = false →
      (s1.clu (pclOf s1.cur)).cmds.length < 64 → s1.loadObj (s1.W f.a) 128 64 = .ok s2 raw →
    let va := s1.W f.a
    let b := parseBlk raw
    let c := s1.cur
    let refused (s : State) (st : Nat) : State :=
      ((s.postDone (s.clu (pclOf c)).vcl 64 s.t.lid s.t.tid b.tag 0 st va s.t.sys.vt).setW f.b (BitVec.ofNat 64 s.gtime)).advance
    (b.reserved fn = true → exec i s = .next (refused s2 12)) ∧
    (b.reserved fn = false → ∀ s3 obj, s2.loadObj (objOf fn b).1 (objOf fn b).2.1 (objOf fn b).2.2 = .ok s3 obj →
      let k := s3.clu (pclOf c)
      (∀ st, planOf fn b obj k.vcl (coreNo c) k.vValid = .error st → exec i s = .next (refused s3 st)) ∧
      (∀ p, planOf fn b obj k.vcl (coreNo c) k.vValid = .ok p →
        (lateCheck fn b p k s3.t.tid ≠ 0 → exec i s = .next (refused s3 (lateCheck fn b p k s3.t.tid))) ∧
        (lateCheck fn b p k s3.t.tid = 0 →
          exec i s = .next (let r := s3.acceptCopy fn f va b p; (r.1.setW f.b (BitVec.ofNat 64 r.2)).advance))))) ∧
  (∀ f : Fld,
    (∀ s s1 p, Opens { irrev := true, names := [f.a] } f s s1 → (s1.clu (pclOf s1.cur)).cmds.length < 64 →
      s1.released s1.cur = true → bitsOf (s1.W f.a) 63 20 = 0 →
      mfind (s1.launch s1.t.lid).pcls (bitsOf (s1.W f.a) 19 8) = some p →
      exec (.cfree f) s = .next (let k := s1.clu p;
        (s1.setClu p { k with mcasts := k.mcasts.map (fun (m : Mcast) =>
          if m.tag = bitsOf (s1.W f.a) 7 0 then { m with wait := m.wait.filter fun v => v != (s1.clu (pclOf s1.cur)).vcl } else m) }).advance)) ∧
    RunsWhen (.cfree f) { irrev := true, names := [f.a] } f
      (fun s => (s.clu (pclOf s.cur)).cmds.length < 64 ∧ s.released s.cur = true ∧ bitsOf (s.W f.a) 63 20 ≠ 0) (fun s => s.advance))

/-- The operations of the token queues on an active queue, their answers where they fail, and QINIT, QEXPECT and QSTAT with the word
each writes (R283, R286, R287, R289). -/
def Obligations.TokenQueueCompletes : Prop := ∀ f : Fld,
  (∀ i kind rel op, (i, kind, rel, op) ∈ [(Instr.qprod f, 3, false, tqProd), (.qarrive f, 3, true, tqArrive), (.qcons f, 2, false, tqCons),
      (.qretire f, 2, true, tqRetire), (.qdrop f, 3, true, tqDrop)] →
    ∀ s s1 c o, Opens { irrev := true, names := [f.a] } f s s1 → (rel = true → s1.released s1.cur = true) →
      s1.handle (s1.W f.a) = .ok (some (c, o)) →
    ((s1.core c).tqAt o = none → exec i s = .next (s1.answer kind (some (c, o)) none 3).advance) ∧
    (∀ q, (s1.core c).tqAt o = some q →
      (∀ e, op q s1.t.tid = .error e → exec i s = .next (s1.answer kind (some (c, o)) (some q) e).advance) ∧
      (∀ q1, op q s1.t.tid = .ok q1 → exec i s = .next (s1.putTq c q1).advance))) ∧
  (∀ s s1 c o, Opens { irrev := true, names := [f.a, f.b] } f s s1 → s1.handle (s1.W f.a) = .ok (some (c, o)) →
    let done (s : State) (st : Nat) : State := (s.setW f.b (BitVec.ofNat 64 st)).advance
    (c ≠ coreId s1.cur → exec (.qinit f) s = .next (done s1 4)) ∧
    (c = coreId s1.cur → 1 < (s1.W f.b).toNat → exec (.qinit f) s = .next (done s1 2)) ∧
    (c = coreId s1.cur → s1.W f.b = 0 → exec (.qinit f) s = .next (done (s1.activate c o).1 (s1.activate c o).2)) ∧
    (c = coreId s1.cur → s1.W f.b = 1 → (s1.core c).tqAt o = none → exec (.qinit f) s = .next (done s1 3)) ∧
    (∀ q, c = coreId s1.cur → s1.W f.b = 1 → (s1.core c).tqAt o = some q → exec (.qinit f) s =
      .next (let k := s1.core c
             let s2 := s1.setCore c { k with tq := k.tq.filter fun (x : Tq) => x.off != o }
             done { s2 with net := s2.net ++ q.turnedAway (s1.homeOf c) } 0)) ∧
    (∀ q q1 w, (s1.core c).tqAt o = some q → q.expect s1.t.tid (s1.W f.b) = some (q1, w) →
      exec (.qexpect f) s = .next ((s1.putTq c q1).setW f.b w).advance) ∧
    (∀ q, (s1.core c).tqAt o = some q → exec (.qstat f) s = .next (s1.setW f.b (BitVec.ofNat 64 (q.stat s1.t.tid))).advance) ∧
    ((s1.core c).tqAt o = none → exec (.qstat f) s = .next (s1.setW f.b 0).advance))

/-! ## Sparse streams -/

/-- The instructions on stream registers complete: opening and closing, saving and loading, the child of an element, the combinators,
the moves of a READ register (R310 to R319). -/
def Obligations.StreamCompletes : Prop := ∀ f : Fld,
  (∀ s s1 s2 s3 d r1, StrmOpens false [f.b, f.b + 1] [f.a.toNat] f s s1 → bitsOf (s1.W f.b) 63 60 = 1 → s1.released s1.cur = true →
    s1.loadObjAs 4 (temporal f) (zextW (s1.W f.b) 56) 256 64 = .ok s2 d → fibreOk d = true → bitsOf (s1.W f.b) 59 56 < fibLevels d →
    s2.openRead { mode := 1, level := bitsOf (s1.W f.b) 59 56, desc := zextW (s1.W f.b) 56, parent := s1.Wn f.b 1, cls := temporal f, dsc := d } d =
      .ok s3 r1 →
    exec (.sopen f) s = .next (s3.setSr f.a.toNat r1).advance) ∧
  (∀ s s1 s2 s3 d v, StrmOpens false [f.b, f.b + 1] [f.a.toNat] f s s1 → bitsOf (s1.W f.b) 63 60 = 4 → s1.speculative s1.cur = false →
    s1.released s1.cur = true → s1.loadObjAs 4 (temporal f) (zextW (s1.W f.b) 56) 256 64 = .ok s2 d → fibreOk d = true →
    bitsOf (s1.W f.b) 59 56 < fibLevels d →
    let x := levOf d (bitsOf (s1.W f.b) 59 56)
    let r : Strm := { mode := 4, level := bitsOf (s1.W f.b) 59 56, desc := zextW (s1.W f.b) 56, parent := s1.Wn f.b 1, cls := temporal f, dsc := d }
    x.kind = 1 → x.nu = false → s2.entry r (x.pos + 4 * (s1.Wn f.b 1).toNat) 4 = .ok s3 v →
    exec (.sopen f) s =
      .next (s3.setSr f.a.toNat { r with posn := BitVec.ofNat 64 v, send := BitVec.ofNat 64 v, crdv := ones64 }).advance) ∧
  (∀ s s1 l, StrmOpens true [f.b] [f.a.toNat] f s s1 → s1.check (s1.W f.b) 64 { w := true } 1 = .ok l → s1.t.spec.sb = [] →
    exec (.ssave f) s =
      .next (s1.pushStore l 64 (leVal (s1.sr f.a.toNat).image) (temporal f) false (pathOf s1.cur (s1.W f.b) l)).advance) ∧
  (∀ s s1 s2 b, StrmOpens false [f.b] [f.a.toNat] f s s1 → s1.released s1.cur = true → s1.loadObjAs 4 (temporal f) (s1.W f.b) 64 64 = .ok s2 b →
    badImage f.a.toNat b = false → exec (.sload f) s = .next (s2.setSr f.a.toNat (strmOfImage b)).advance) ∧
  (∀ s s1 s2 s3 d r1, StrmOpens false [] [f.a.toNat, f.b.toNat] f s s1 → s1.released s1.cur = true →
    let r := s1.sr f.b.toNat
    r.mode = 1 → r.done = false → s1.fibre r = .ok s2 d → r.level + 1 < fibLevels d →
    s2.openRead { mode := 1, level := r.level + 1, desc := r.desc, parent := r.posn, cls := if s1.hasPxh then temporal f else r.cls,
                   dsc := d, look := r.look } d =
      .ok s3 r1 →
    exec (.schild f) s = .next (s3.setSr f.a.toNat r1).advance) ∧
  (∀ i m, (i, m) ∈ [(Instr.sisect f, 2), (.sunion f, 3)] → ∀ s s1 s2, StrmOpens false [] [f.d.toNat, f.a.toNat, f.b.toNat] f s s1 →
    (s1.sr f.a.toNat).mode = 1 → (s1.sr f.b.toNat).mode = 1 →
    (s1.setSr f.d.toNat { mode := m, ina := f.a.toNat, inb := f.b.toNat }).settleReg f.d.toNat = .ok s2 →
    exec i s = .next s2.advance) ∧
  StrmRuns (.snext f) false [] [] f (fun s => (s.sr f.a.toNat).mode = 0) (fun s => s.advance) ∧
  (∀ s s1 s2 r1, StrmOpens false [] [] f s s1 → (s1.sr f.a.toNat).mode = 1 →
    s1.advanceBy (s1.sr f.a.toNat) 1 = .ok s2 r1 → exec (.snext f) s = .next (s2.setSr f.a.toNat r1).advance) ∧
  (∀ s s1 s2 r1, StrmOpens false [f.b] [f.a.toNat] f s s1 → (s1.sr f.a.toNat).mode = 1 →
    s1.gallop (s1.sr f.a.toNat) (s1.W f.b).toNat = .ok s2 r1 → exec (.sskip f) s = .next (s2.setSr f.a.toNat r1).advance) ∧
  (∀ s s1 s2 r1, StrmOpens false [f.b] [f.a.toNat] f s s1 → (s1.sr f.a.toNat).mode = 1 → s1.W f.b ≠ 0 →
    s1.advanceBy (s1.sr f.a.toNat) (s1.W f.b).toNat = .ok s2 r1 → exec (.sskipn f) s = .next (s2.setSr f.a.toNat r1).advance) ∧
  StrmRuns (.sskipn f) false [f.b] [f.a.toNat] f (fun s => (s.sr f.a.toNat).mode = 1 ∧ s.W f.b = 0) (fun s => s.advance)

/-- SCLOSE makes sa CLOSED. A WRITE register closed without SSEAL leaves its performed writes in memory and writes no position entry
(R312): no byte of memory changes, and nothing is sent to it. A speculative thread's SCLOSE of a WRITE register waits (R304). -/
def Obligations.StreamCloses : Prop := ∀ (f : Fld) (s s1 : State), StrmOpens false [] [f.a.toNat] f s s1 →
  ((s1.sr f.a.toNat).mode = 4 → s1.speculative s1.cur = false) →
  exec (.sclose f) s = .next (s1.setSr f.a.toNat {}).advance ∧
  let t := (s1.setSr f.a.toNat {}).advance
  t.sr f.a.toNat = {} ∧ (t.sr f.a.toNat).mode = 0 ∧ (∀ n, n ≠ f.a.toNat → t.sr n = s1.sr n) ∧ t.mem = s1.mem ∧ t.cores = s1.cores ∧
  t.t.pend = s1.t.pend ∧ t.t.spec.sb = s1.t.spec.sb

/-- The queries of a stream register that is no combinator, the pushes of a live element's value address and coordinate, and the
building of a fibre (R320 to R323). -/
def Obligations.StreamValuesComplete : Prop := ∀ f : Fld,
  StrmRuns (.scrd f) false [f.a] [f.b.toNat] f (fun s => (s.sr f.b.toNat).isComb = false)
    (fun s => let r := s.sr f.b.toNat;
      s.result f (if r.mode = 0 then ones64 else if r.mode = 1 then r.cur else r.crdv)) ∧
  StrmRuns (.spos f) false [f.a] [f.b.toNat] f (fun s => (s.sr f.b.toNat).isComb = false)
    (fun s => s.result f (if (s.sr f.b.toNat).mode = 0 then 0 else (s.sr f.b.toNat).posn)) ∧
  StrmRuns (.sdone f) false [] [f.a.toNat] f (fun s => (s.sr f.a.toNat).isComb = false)
    (fun s => let r := s.sr f.a.toNat;
      (s.setP (destP f.x) (r.mode == 0 || (r.mode == 1 && r.done))).advance) ∧
  StrmRuns (.slen f) false [f.a] [f.b.toNat] f (fun s => (s.sr f.b.toNat).isComb = false) (fun s => s.result f (s.sr f.b.toNat).len) ∧
  (∀ i kind, (i, kind) ∈ [(Instr.svalq f, 0), (.scrdq f, 1), (.svld f, 2)] →
    (StrmRuns i true [] [f.b.toNat] f (fun s => (s.sr f.b.toNat).isComb = false ∧ ((s.sr f.b.toNat).mode ≠ 1 ∨ (s.sr f.b.toNat).done = true))
      (fun s => (s.setT (s.t.setQueue f.a.toNat (s.t.queue f.a.toNat))).advance)) ∧
    (∀ s s1 s2 l, StrmOpens true [] [f.b.toNat] f s s1 → (s1.sr f.b.toNat).mode = 1 → (s1.sr f.b.toNat).done = false →
      (s1.t.queue f.a.toNat).length < 8 → State.liveVals kind (temporal f) [s1.sr f.b.toNat] s1 = .ok s2 l →
      exec i s = .next (s2.setT (s2.t.setQueue f.a.toNat (s2.t.queue f.a.toNat ++ l))).advance)) ∧
  StrmRuns (.sbatch f) true [f.a] [f.b.toNat] f (fun s => (s.sr f.b.toNat).mode ≠ 1 ∨ (s.sr f.b.toNat).done = true) (fun s => s.result f 0) ∧
  (∀ s s1 s2 s3 d r1 l, StrmOpens true [f.a] [f.b.toNat] f s s1 → (s1.sr f.b.toNat).mode = 1 → (s1.sr f.b.toNat).done = false →
    s1.W f.a ≠ 0 → (s1.t.queue 0).length < 8 → s1.fibre (s1.sr f.b.toNat) = .ok s2 d →
    State.batch d (min (s1.W f.a).toNat (8 - (s1.t.queue 0).length)) 0 { s1.sr f.b.toNat with dsc := d } [] s2 = .ok s3 (r1, l) →
    exec (.sbatch f) s = .next (let s4 := s3.setSr f.b.toNat r1;
      (s4.setT (s4.t.setQueue 0 (s4.t.queue 0 ++ l))).result f (BitVec.ofNat 64 l.length))) ∧
  (∀ s s1 s2 d l, StrmOpens true [f.b] [f.a.toNat] f s s1 → (s1.sr f.a.toNat).mode = 4 → s1.fibre (s1.sr f.a.toNat) = .ok s2 d →
    let r : Strm := { s1.sr f.a.toNat with dsc := d }
    let x := levOf d r.level
    let c := bitsOf (s2.W f.b) 31 0
    let q := r.posn.toNat
    c < x.size → (r.crdv = ones64 ∨ r.crdv.toNat < c) → q < x.ncrd → s2.t.spec.sb = [] →
    s2.check (BitVec.ofNat 64 (x.crd + 4 * q)) 4 { w := true } 1 = .ok l →
    exec (.sapp f) s = .next ((s2.pushStore l 4 c r.cls false 3).setSr f.a.toNat
      { r with crdv := BitVec.ofNat 64 c, posn := BitVec.ofNat 64 (q + 1) }).advance) ∧
  (∀ s s1 s2 d l, StrmOpens true [f.b] [f.a.toNat] f s s1 → (s1.sr f.a.toNat).mode = 4 → s1.fibre (s1.sr f.a.toNat) = .ok s2 d →
    let r : Strm := { s1.sr f.a.toNat with dsc := d }
    r.posn ≠ r.send → s2.t.spec.sb = [] →
    s2.check (BitVec.ofNat 64 (fibVals d) + (r.posn - 1) * BitVec.ofNat 64 (fibWidth d)) (fibWidth d) { w := true } 1 = .ok l →
    exec (.sappv f) s = .next ((s2.pushStore l (fibWidth d) ((s2.W f.b).toNat % 2 ^ (8 * fibWidth d)) r.cls false 3).setSr f.a.toNat
      r).advance) ∧
  (∀ s s1 s2 d l, StrmOpens true [] [f.a.toNat] f s s1 → (s1.sr f.a.toNat).mode = 4 → s1.fibre (s1.sr f.a.toNat) = .ok s2 d →
    s2.strmOut s2.cur = false → s2.t.spec.sb = [] →
    let r := s1.sr f.a.toNat
    let va := BitVec.ofNat 64 ((levOf d r.level).pos + 4 * (r.parent.toNat + 1))
    s2.check va 4 { w := true } 1 = .ok l →
    ∃ t p, exec (.sseal f) s = .next t ∧ t.t.pend = some p ∧ p.kind = 6 ∧ p.loc = l ∧ t.sr f.a.toNat = {})

/-! ## Matrix engines -/

/-- A job instruction is dispatched with the window registers it reads as they stand (R219, R328): it takes a sequencer entry, and
the thread counts one more job. -/
def Obligations.JobDispatchCompletes : Prop := ∀ (f : Fld) (i : Instr) (names : List (BitVec 6)),
  (i, names) ∈ [(Instr.msave f, [f.a]), (.mrest f, [f.a]), (.mucode f, [f.a, f.b]), (.msets f, [f.a]),
    (.mma f, (if f.ext.getLsbD 1 then [] else pairAt f.a) ++ if f.ext.getLsbD 0 then [] else pairAt f.b),
    (.mmas f, pairAt f.a ++ if f.ext.getLsbD 0 then [] else pairAt f.b), (.mmax f, pairAt f.a ++ pairAt f.b),
    (.mrec f, pairAt f.a ++ pairAt f.b), (.mzero f, []), (.mldt f, pairAt f.b), (.mstt f, pairAt f.b), (.mtrans f, []), (.mcvt f, []),
    (.mrsum f, []), (.mcopy f, []), (.mlup f, pairAt f.b), (.mchol f, pairAt f.b),
    (.mtrsm f, [f.b, f.b + 1, f.b + 2, f.b + 3, f.b + 4]), (.mfxchk f, [])] →
  RunsWhen i { names := names } f (fun s => s.entriesUsed < 16 ∧ s.storesOut s.cur = false)
    (fun s => let s1 := s.enqueue 5 0 f true false (names.map s.W);
      (s1.setT { s1.t with jobs := s1.t.jobs + 1 }).advance)

/-- MCONV, MLEAVE, MSTAT and MPLOG answer in a window register; MSTAT is an acquire where it finds a job of the
group completed (R325, R326, R332, R346). -/
def Obligations.GroupInstructionsComplete : Prop := ∀ f : Fld,
  Runs (.mconv f) { irrev := true, names := [f.a, f.b] } f
    (fun s => let r := s.mconv s.cur (s.W f.a); (r.1.setW f.b (BitVec.ofNat 64 r.2)).advance) ∧
  RunsWhen (.mleave f) { irrev := true, names := [f.a] } f (fun s => (s.t.vec.seq.any fun e => e.page == 5) = false ∧ s.t.jobs = 0)
    (fun s => let r := s.mleave s.cur; r.1.result f (BitVec.ofNat 64 r.2)) ∧
  RunsWhen (.mstat f) { irrev := true, names := [f.a] } f (fun s => s.myGroup s.cur = none)
    (fun s => (s.setW f.a 0).advance) ∧
  (∀ s s1 h n g, Opens { irrev := true, names := [f.a] } f s s1 → s1.myGroup s1.cur = some (h, n, g) →
    let s2 := s1.setW f.a (if f.b = 0 then g.word else g.tileWord (f.b.toNat - 8))
    (g.ran = true → exec (.mstat f) s = .next (s2.acquire s1.cur).advance) ∧
    (g.ran = false → exec (.mstat f) s = .next s2.advance)) ∧
  RunsWhen (.mplog f) { irrev := true, names := [f.a, f.b] } f (fun s => s.myGroup s.cur = none) (fun s => s.result f 0) ∧
  (∀ s s1 h n g, Opens { irrev := true, names := [f.a, f.b] } f s s1 → s1.myGroup s1.cur = some (h, n, g) →
    ((s1.W f.b).getLsbD 63 = true →
      exec (.mplog f) s = .next ((s1.setGrp (pclOf s1.cur) h n { g with ctx := g.ctx.clearLog, run := g.run.map fun r => { r with after := r.after.clearLog } }).result f g.ctx.count)) ∧
    ((s1.W f.b).toNat < 32 → exec (.mplog f) s = .next (s1.result f (g.ctx.log.getD (s1.W f.b).toNat 0))) ∧
    ((s1.W f.b).toNat = 32 → exec (.mplog f) s = .next (s1.result f g.ctx.count)))

/-! ## Messages, domains, tasks -/

/-- SEND and SENDS start a message where the send slot is free, the destination exists and no failed link cuts it off (SENDS: in a slot of
its schedule); RECV and RECVT take the chosen message as an acquire, RECVT with no message at its deadline clears its predicate; MPEEK and
MCOUNT look; ALARM sets or clears the alarm; SLOTRD reads the schedule (R353, R358 to R362, R364, R365). -/
def Obligations.MessageInstructionsComplete : Prop := ∀ f : Fld,
  (∀ i, i = Instr.send f ∨ i = Instr.sends f → ∀ s s1, Opens { irrev := true, names := [f.a, f.b, f.b + 1] } f s s1 →
    let m := s1.sendMsg (s1.W f.a) (s1.W f.b) (s1.Wn f.b 1)
    let k := s1.clu (pclOf s1.cur)
    s1.t.mail.slot = none → (m.dev = 0 → k.vValid (m.dst / 64) = true) → (m.dev ≠ 0 → mhas s1.outer.peerPort m.dev = true) →
    s1.msgCut m = false →
    (i = Instr.sends f → bitsOf (s1.W f.a) 36 32 = 0 ∧ k.log2f.isSome = true ∧
      ∃ e ∈ k.slots, e.core = coreNo s1.cur ∧ e.dstv = bitsOf (s1.W f.a) 17 6 ∧ e.start ≤ s1.slotPhase ∧ s1.slotPhase < e.start + e.len) →
    exec i s = .next ((s1.setT { s1.t with mail := { s1.t.mail with slot := some m } }).launchMsg m).advance) ∧
  (∀ s s1 n, Opens { irrev := true, names := [f.a, f.a + 1] } f s s1 → chosen (s1.W f.a) s1.t.mail.box = some n →
    exec (.recv f) s = .next (s1.takeMsg f.a n (s1.t.mail.box.getD n 0)).advance) ∧
  (∀ s s1 n, Opens { irrev := true, names := [f.a, f.a + 1, f.b] } f s s1 → chosen (s1.W f.a) s1.t.mail.box = some n →
    exec (.recvt f) s = .next ((s1.takeMsg f.a n (s1.t.mail.box.getD n 0)).setP (destP f.x) true).advance) ∧
  RunsWhen (.recvt f) { irrev := true, names := [f.a, f.a + 1, f.b] } f
    (fun s => chosen (s.W f.a) s.t.mail.box = none ∧ (s.W f.b).toNat ≤ s.gtime) (fun s => (s.setP (destP f.x) false).advance) ∧
  (∀ s s1 n, Opens { names := [f.a, f.a + 1] } f s s1 → chosen (s1.W f.a) s1.t.mail.box = some n →
    exec (.mpeek f) s = .next ((s1.setMsg f.a (s1.t.mail.box.getD n 0)).setP (destP f.x) true).advance) ∧
  RunsWhen (.mpeek f) { names := [f.a, f.a + 1] } f (fun s => chosen (s.W f.a) s.t.mail.box = none)
    (fun s => (s.setP (destP f.x) false).advance) ∧
  Runs (.mcount f) { names := [f.a] } f
    (fun s => s.result f (BitVec.ofNat 64 (s.t.mail.box.filter fun m => s.W f.a == 0 || (s.W f.a).getLsbD (kindOf m)).length)) ∧
  RunsWhen (.alarm f) { irrev := true, names := [f.a, f.b] } f (fun s => s.t.mail.alarmHeld = false)
    (fun s => ((s.setT { s.t with mail := { s.t.mail with alarm :=
        (if s.W f.a = 0 then none else some ((s.W f.a).toNat, (s.W f.b).toNat % 256)) } }).setW f.b
      (if s.t.mail.alarm.isSome then 1 else 0)).advance) ∧
  (∀ s s1, Opens { names := [f.a, f.b] } f s s1 →
    let k := s1.clu (pclOf s1.cur)
    let ph := s1.slotPhase
    let mine := k.slots.filter fun e => e.core == coreNo s1.cur && e.dstv == bitsOf (s1.W f.b) 11 0
    (k.log2f = none ∨ mine = [] → exec (.slotrd f) s = .next (s1.result f ones64)) ∧
    (∀ n e, k.log2f = some n → nextSlot ph (2 ^ n) mine = some e → exec (.slotrd f) s =
      .next (s1.result f (BitVec.ofNat 64 (e.wait ph (2 ^ n) +
        (if e.wait ph (2 ^ n) = 0 then e.start + e.len - ph else e.len) * 2 ^ 32)))))

/-- The instructions on domains: DSYNC and DSYNCW arrive unconditionally with VT advanced and a checkpoint, DCOMM conditionally or not
again, DPHASE, DPROBE and DLEVEL read, DLEVEL forms and dissolves; LAUNCH answers with its status (R366, R367, R371, R372, R374). -/
def Obligations.DomainInstructionsComplete : Prop := ∀ f : Fld,
  (∀ i w, (i, w) ∈ [(Instr.dsync f, false), (.dsyncw f, true)] → ∀ s s1, Opens { irrev := true } f s s1 →
    let l := s1.resolve s1.cur f.b.toNat
    s1.arrival l ≠ 2 → s1.entriesUsed = 0 → s1.released s1.cur = true →
    exec i s = .next
      (let s2 := s1.dropMarks s1.cur
       let s3 := s2.setT { s2.t with spec := { s2.t.spec with arr := mset s2.t.spec.arr l 2 } }
       ((s3.setT { s3.t with sys := { s3.t.sys with vt := barrierVt s3.t.sys.vt (s3.dom s3.cur l).gvt },
                             spec := { s3.t.spec with sdom := l, syncWait := w } }).takeCkpt).advance)) ∧
  (∀ s s1, Opens { irrev := true } f s s1 →
    let l := s1.resolve s1.cur f.b.toNat
    (s1.arrival l = 1 → exec (.dcomm f) s = .next s1.advance) ∧
    (s1.arrival l ≠ 1 → s1.arrival l ≠ 2 → s1.released s1.cur = true → exec (.dcomm f) s = .next
      (let s2 := s1.dropMarks s1.cur
       (s2.setT { s2.t with spec := { s2.t.spec with arr := mset s2.t.spec.arr l 1 } }).advance))) ∧
  Runs (.dphase f) { names := [f.a] } f (fun s =>
    let l := s.resolve s.cur f.b.toNat
    let a := s.arrival l
    s.result f (BitVec.ofNat 64 ((s.dom s.cur l).phase + b2n (a == 2) * 2 ^ 32 + b2n (a == 1) * 2 ^ 33))) ∧
  Runs (.dprobe f) { names := [f.a] } f (fun s => s.result f (s.dom s.cur (s.resolve s.cur f.b.toNat)).probe) ∧
  (∀ s s1, Opens { names := [f.a, f.b] } f s s1 →
    let o := s1.W f.b
    let level := bitsOf o 2 0
    (bitsOf o 5 4 = 0 → exec (.dlevel f) s =
      .next (s1.result f (if 4 < level then 0 else (s1.dom s1.cur (s1.resolve s1.cur level)).dinfo))) ∧
    (bitsOf o 5 4 = 1 → exec (.dlevel f) s =
      .next (s1.result f (if level = 2 ∨ level = 3 then mget 0 ((s1.clu (pclOf s1.cur)).dmap level) (bitsOf o 13 8) else 0))) ∧
    (∀ s2 b, bitsOf o 5 4 = 2 → s1.speculative s1.cur = false → s1.loadObj (s1.W f.a) 512 64 = .ok s2 b → s2.vcl0 s2.t.lid = true →
      let st := s2.formStatus s2.t.lid level (mapOf b)
      exec (.dlevel f) s = .next ((if st = 0 then s2.formDom s2.t.lid level (mapOf b) else s2).result f (BitVec.ofNat 64 st))) ∧
    (bitsOf o 5 4 = 3 → s1.speculative s1.cur = false → s1.vcl0 s1.t.lid = true →
      let k := s1.clu (pclOf s1.cur)
      (level = 2 ∨ level = 3 → k.formed level = true →
        exec (.dlevel f) s = .next ((s1.dissolve s1.t.lid level k.vcl).result f 0)) ∧
      (level ≠ 2 ∧ level ≠ 3 ∨ k.formed level = false → exec (.dlevel f) s = .next (s1.result f 4)))) ∧
  (∀ s s1 s2 b, Opens { irrev := true, names := [f.a, f.b] } f s s1 → s1.released s1.cur = true →
    s1.loadObj (s1.W f.a) 128 128 = .ok s2 b →
    let q := bitsOf (s2.W f.b) 11 0
    (bitsOf (s2.W f.b) 63 12 = 0 → s2.launchWaits q = false) →
    let st := if bitsOf (s2.W f.b) 63 12 ≠ 0 then 3 else s2.launchStatus q (s2.t.sys.asid.toNat % 2 ^ 16)
    exec (.launch f) s = .next ((if st = 0 then (s2.append q b).reachQueue q else s2).setW f.b (BitVec.ofNat 64 st)).advance)

/-- A level whose DINFO has FORMED = 0 acts as the next wider formed level (R27): an unformed level 3 is the root, an unformed level 2
is level 3 or, where that is unformed too, the root; an instruction that names the level acts there, and DLEVEL reports that domain's
DINFO. -/
def Obligations.UnformedLevelActsAsWider : Prop := ∀ (s : State) (c : Nat),
  let formed (l : Nat) : Prop := (mget {} (s.clu (pclOf c)).dom l).dinfo.getLsbD 31 = true
  (formed 3 → s.resolve c 3 = 3) ∧ (¬ formed 3 → s.resolve c 3 = 4) ∧
  (formed 2 → s.resolve c 2 = 2) ∧ (¬ formed 2 → s.resolve c 2 = s.resolve c 3) ∧ (∀ l, l = 0 ∨ l = 1 ∨ l = 4 → s.resolve c l = l) ∧
  (∀ (f : Fld) (s1 : State), Opens { names := [f.a, f.b] } f s s1 → c = s1.cur → (s1.clu (pclOf c)).dom = (s.clu (pclOf c)).dom →
    bitsOf (s1.W f.b) 5 4 = 0 → bitsOf (s1.W f.b) 2 0 ≤ 4 →
    exec (.dlevel f) s = .next (s1.result f (s1.dom c (s.resolve c (bitsOf (s1.W f.b) 2 0))).dinfo)) ∧
  (∀ (f : Fld) (s1 : State), Opens { names := [f.a] } f s s1 → c = s1.cur → (s1.clu (pclOf c)).dom = (s.clu (pclOf c)).dom →
    exec (.dprobe f) s = .next (s1.result f (s1.dom c (s.resolve c f.b.toNat)).probe) ∧
    exec (.gvtrd f) s = .next (s1.result f (s1.dom c (s.resolve c f.b.toNat)).gvt))

/-- The instructions on tasks and virtual time: TENQ answers its status and enqueues where it is OK, TNEXT takes the least task of the
domain or clears its predicate and leaves VT all ones, TDONE releases the held task, VTRD and GVTRD read, SPOFF and SPON switch speculation
(R381 to R384, R386). -/
def Obligations.TaskInstructionsComplete : Prop := ∀ f : Fld,
  (∀ s s1, Opens { irrev := true, names := [f.a, f.b, f.b + 1] } f s s1 →
    let x := s1.W f.a
    let bad := bitsOf x 63 51 ≠ 0 ∨ 4 < bitsOf x 50 48 ∨ bitsOf x 47 0 = 2 ^ 48 - 1
    let l := s1.resolve s1.cur (bitsOf x 50 48)
    let u := s1.leaderUnit s1.cur l
    let q := s1.vclu s1.t.lid (unitVc l u)
    let tie := q.nextTie l u (bitsOf x 47 0)
    let key := bitsOf x 47 0 * 65536 + tie
    let gvt := (s1.domOf s1.t.lid l u).gvt.toNat
    (bad → exec (.tenq f) s = .next (s1.result f 4)) ∧
    (¬ bad → mhas (s1.launch s1.t.lid).pcls (unitVc l u) = true →
      (512 ≤ q.tasks.length → exec (.tenq f) s = .next (s1.result f 1)) ∧
      (q.tasks.length < 512 → key ≤ gvt → exec (.tenq f) s = .next (s1.result f 2)) ∧
      (q.tasks.length < 512 → gvt < key → 65535 < tie → exec (.tenq f) s = .next (s1.result f 3)) ∧
      (q.tasks.length < 512 → gvt < key → tie ≤ 65535 → exec (.tenq f) s = .next
        ((s1.enqTask s1.t.lid l u { level := l, unit := u, key := key, pay0 := s1.W f.b, pay1 := s1.Wn f.b 1, last := tie }).result f 0)))) ∧
  (∀ s s1, Opens { irrev := true, names := [f.a, f.a + 1] } f s s1 → s1.t.spec.sb = [] →
    let s2 := (s1.dropMarks s1.cur).doneTask
    let l := s2.resolve s2.cur f.b.toNat
    let u := s2.leaderUnit s2.cur l
    s2.entriesUsed = 0 → mhas (s2.launch s2.t.lid).pcls (unitVc l u) = true →
    (leastTask l u (s2.vclu s2.t.lid (unitVc l u)).tasks = none → exec (.tnext f) s =
      .next ((s2.setT { s2.t with sys := { s2.t.sys with vt := ones64 } }).setP (destP f.x) false).advance) ∧
    (∀ k, leastTask l u (s2.vclu s2.t.lid (unitVc l u)).tasks = some k →
      exec (.tnext f) s = .next (s2.takeTask f.a (destP f.x) l u k).advance)) ∧
  RunsWhen (.tdone f) { irrev := true } f (fun s => s.t.spec.task = none) (fun s => s.advance) ∧
  RunsWhen (.tdone f) { irrev := true } f (fun s => s.t.spec.sb = []) (fun s => s.doneTask.advance) ∧
  Runs (.vtrd f) { names := [f.a] } f (fun s => s.result f (if f.b = 0 then s.t.sys.vt else s.specWord)) ∧
  Runs (.gvtrd f) { names := [f.a] } f (fun s => s.result f (s.dom s.cur (s.resolve s.cur f.b.toNat)).gvt) ∧
  Runs (.spoff f) {} f (fun s => (s.setT { s.t with spec := { s.t.spec with spen := false } }).advance) ∧
  Runs (.spon f) {} f (fun s => (s.setT { s.t with spec := { s.t.spec with spen := true } }).advance)

/-- TABORT of a speculative thread aborts it as R379 does: its buffered stores, tags, marks and entries with their late faults are
discarded, a pending PROMISE stays, and the checkpoint is restored; the thread then issues nothing while it is speculative, and next at
the checkpoint PC. Of a thread that is not speculative it has no effect (R385). -/
def Obligations.TaskAbortCompletes : Prop := ∀ (f : Fld) (s s1 : State), Opens {} f s s1 →
  (s1.speculative s1.cur = false → exec (.tabort f) s = .next s1.advance) ∧
  (s1.speculative s1.cur = true → ∃ t, exec (.tabort f) s = .next t ∧ t.cur = s1.cur ∧ t.t.spec.sb = [] ∧ t.t.vec.seq = [] ∧
    t.t.vec.late = s1.t.vec.late.filter (fun x => decide (16 ≤ x.sub)) ∧ t.t.pend = none ∧ t.t.promise = s1.t.promise ∧
    (∀ m ∈ t.marks, m.c ≠ s1.cur) ∧ (∀ m ∈ s1.marks, m.c ≠ s1.cur → m ∈ t.marks) ∧ t.mem = s1.mem ∧
    t.t.vec.dseq = s1.t.vec.dseq ∧ t.t.sys = s1.t.sys ∧ t.t.spec.arr = s1.t.spec.arr ∧
    (∀ k, s1.t.spec.ckpt = some k → t.t.pc = k.pc ∧ t.t.win = k.win ∧ t.t.pw = k.pw ∧ t.t.vec.v = k.v ∧ t.t.strm = k.strm ∧
      t.t.spec.spen = k.spen) ∧
    (t.speculative t.cur = true → t.mayIssue t.cur = false))

/-! ## The system -/

/-- RDSR reads a listed register and WRSR writes one; those from 0x100 on only in privileged mode; FPCSR waits for the thread's vector
work. What a register reads after a write of it: the written bits that are not reserved of a read-write register, the old value of a
read-only one; bit 0 of PW reads 1 (R6, R116, R164, R391, R415). -/
def Obligations.SystemRegistersComplete : Prop :=
  (∀ (f : Fld) (v : Word),
    let n := f.imm.toNat
    let listed (s : State) : Prop := s.sysReg n = some v ∧ (0x100 ≤ n → s.t.privileged = true) ∧
      (n = 0x20 → (s.t.vec.seq.any fun e => e.page == 1) = false ∧ s.t.vec.under s.gtime = 0)
    RunsWhen (.rdsr f) { irrev := true, names := [f.a] } f listed (fun s => s.result f v) ∧
    RunsWhen (.wrsr f) { irrev := true, names := [f.a] } f listed (fun s => (s.setT (s.t.setSysReg n (s.W f.a))).advance)) ∧
  (∀ (s : State) (n : Nat) (v old : Word), s.sysReg n = some old →
    (s.setT (s.t.setSysReg n v)).sysReg n = some (match n with
      | 0x002 | 0x003 => v &&& ~~~(7 : Word)
      | 0x004 => (v &&& 0xFF) ||| 1
      | 0x010 | 0x100 => v &&& 0x77FFF
      | 0x011 | 0x101 => v &&& ~~~(1 : Word)
      | 0x012 | 0x102 | 0x108 | 0x109 => v
      | 0x013 | 0x103 => v &&& 0xFFF
      | 0x014 => v &&& ~~~(0x3E : Word)
      | 0x015 => v &&& 0xF
      | 0x020 => v &&& 0x1F3
      | 0x105 => v &&& 1
      | _ => old))

/-- TRAP and EBRK enter their trap, once what precedes them is complete (R125): with its route bit set and no handler running, the thread's
own handler, with TCAUSE, TPC (the next instruction) and TVAL written; else the runtime's, with the K registers written too (R390, R392,
R414). -/
def Obligations.TrapInstructionsEnter : Prop := ∀ (f : Fld) (i : Instr) (cause : Nat) (val : Word),
  (i, cause, val) ∈ [(Instr.trap f, cSWTRAP, immZ f), (.ebrk f, cBRK, 0)] →
  ∀ s s1, Opens { irrev := true } f s s1 → s.t.mode = .user → s.t.act = false → s.t.completeAt ≤ s.gtime →
  let y := s.t.sys
  (y.tvec.getLsbD (32 + cause) = true → ∃ t, exec i s = .next t ∧ t.t.pc = y.ktext + BitVec.ofNat 64 (bitsOf y.tvec 31 6 * 64) ∧
    t.t.act = true ∧ t.t.mode = .user ∧ t.t.sys.tcause = causeWord cause 0 0 0 ∧ t.t.sys.tpc = s.ir.next &&& ~~~(1 : Word) ∧
    t.t.sys.tval = val ∧ t.t.sys.kcause = y.kcause ∧ t.t.win = s.t.win ∧ t.t.pw = s.t.pw ∧ t.mem = s.mem) ∧
  (y.tvec.getLsbD (32 + cause) = false → y.kvec ≠ 0 → ∃ t, exec i s = .next t ∧ t.t.pc = y.kvec ∧ t.t.mode = .runtime ∧
    t.t.act = false ∧ t.t.sys.kstat = 0 ∧ t.t.sys.tcause = causeWord cause 0 0 0 ∧ t.t.sys.kcause = causeWord cause 0 0 0 ∧
    t.t.sys.kpc = s.ir.next &&& ~~~(1 : Word) ∧ t.t.sys.tpc = s.ir.next &&& ~~~(1 : Word) ∧ t.t.sys.kval = val ∧ t.t.sys.tval = val ∧
    t.t.win = s.t.win ∧ t.t.pw = s.t.pw ∧ t.mem = s.mem)

/-- ERET leaves the innermost handler: from privileged mode with KPC and KSTAT, from the user handler with TPC; outside any handler it
raises ILLOP, subcode 6. A trap that is taken and then returned from leaves the PC at the recorded address and the mode and ACT as they
were, whether the thread's own handler or the runtime's takes it (R392, R394). -/
def Obligations.TrapReturnCompletes : Prop :=
  (∀ (f : Fld) (s s1 : State), Opens { irrev := true } f s s1 →
    (s1.t.mode = .user → s1.t.act = true →
      exec (.eret f) s = .next (s1.setT { s1.t.setAct false with pc := s1.t.sys.tpc &&& ~~~(1 : Word) })) ∧
    (s1.t.mode = .runtime → isSteward s1.cur = false → isHandler s1.cur = false →
      exec (.eret f) s = .next (s1.setT { s1.t.setAct (s1.t.sys.kstat.getLsbD 0) with
        mode := .user, pc := s1.t.sys.kpc &&& ~~~(1 : Word) })) ∧
    (s1.t.mode = .user → s1.t.act = false → exec (.eret f) s = .next (s.stopped s1.ill6 s))) ∧
  (∀ (s : State) (cause : Nat) (cw pc val : Word),
    let u := s.takeTrap s.cur cause cw pc val none
    s.t.mode = .user → s.t.hold = none → isSteward s.cur = false → isHandler s.cur = false → cause ≠ cPREEMPT → s.t.sys.kvec ≠ 0 →
    ∃ t, u.trapReturn = some t ∧ t.t.pc = pc &&& ~~~(1 : Word) ∧ t.t.mode = .user ∧ t.t.act = s.t.act ∧ t.t.win = s.t.win ∧
      t.t.pw = s.t.pw ∧ t.t.vec = s.t.vec ∧ t.t.q = s.t.q ∧ t.mem = s.mem)

/-- TLBINV and TLBINVA drop the entries they name once what was translated through them is performed, with a fence of device scope, in
privileged mode; RINGRD reads a word of the newest entry of a sequence number, or 0 (R416, R418). -/
def Obligations.PrivilegedReadsComplete : Prop := ∀ f : Fld,
  (∀ s s1, Opens { mode := 1, irrev := true, names := [f.a, f.b] } f s s1 → s1.released s1.cur = true →
    let va := (s1.W f.a).toNat
    let asid := bitsOf (s1.W f.b) 15 0
    s1.translatedOut (some asid) (s1.samePage asid va) = false → exec (.tlbinv f) s =
      .next (({ s1 with tlb := s1.tlb.filter fun (e : TlbEnt) =>
        !(e.asid == asid && decide (e.va ≤ va) && decide (va < e.va + e.size)) } : State).acquire s1.cur).advance) ∧
  (∀ s s1, Opens { mode := 1, irrev := true, names := [f.a] } f s s1 → s1.released s1.cur = true →
    ((s1.W f.a).getLsbD 63 = true → s1.translatedOut none (fun _ => true) = false → exec (.tlbinva f) s =
      .next (({ s1 with tlb := [] } : State).acquire s1.cur).advance) ∧
    ((s1.W f.a).getLsbD 63 = false → s1.translatedOut (some (bitsOf (s1.W f.a) 15 0)) (fun _ => true) = false → exec (.tlbinva f) s =
      .next (({ s1 with tlb := s1.tlb.filter fun (e : TlbEnt) => !(e.asid == bitsOf (s1.W f.a) 15 0) } : State).acquire s1.cur).advance)) ∧
  (∀ s s1, Opens { irrev := true, names := [f.a, f.b] } f s s1 → isHandler s1.cur = false →
    let w := s1.W f.b
    let x := if s1.t.privileged = true ∧ w.getLsbD 24 = true then bitsOf w 21 20 else s1.cur % 4
    let ring := (s1.core (coreId s1.cur)).cring
    ((∀ e ∈ ring, ¬ (e.ctx = x ∧ e.seqno.toNat = bitsOf w 11 0)) → exec (.ringrd f) s = .next (s1.result f 0)) ∧
    (∀ newer e older, ring = newer ++ e :: older → e.ctx = x → e.seqno.toNat = bitsOf w 11 0 →
      (∀ d ∈ newer, ¬ (d.ctx = x ∧ d.seqno.toNat = bitsOf w 11 0)) →
      exec (.ringrd f) s = .next (s1.result f (e.word (bitsOf w 17 16)))))

/-- CTXSAVE and CTXREST move a context of the handler's core to and from its record; a record that breaks R411 leaves the context EMPTY
with a steward record; THAW and KILL act on the master that an id names and answer their status (R405, R406, R417). -/
def Obligations.HandlerAndStewardComplete : Prop := ∀ f : Fld,
  (∀ s s1 s2, Opens { mode := 2, irrev := true, names := [f.a] } f s s1 → (s1.W f.a).toNat % 4096 = 0 →
    s1.saveCtx (coreId s1.cur * 4 + f.b.toNat) (s1.W f.a) = .ok s2 → exec (.ctxsave f) s = .next s2.advance) ∧
  (∀ s s1 s2 b, Opens { mode := 2, irrev := true, names := [f.a] } f s s1 → (s1.W f.a).toNat % 4096 = 0 →
    s1.restCtx (coreId s1.cur * 4 + f.b.toNat) (s1.W f.a) s1.gtime = (s2, .ok b) →
    exec (.ctxrest f) s = .next (if b then s2 else s2.handlerRec (coreId s1.cur) 0 (s1.W f.a)).advance) ∧
  (∀ s s1, Opens { mode := 3, irrev := true, names := [f.a, f.b] } f s s1 →
    (s1.masterOf (s1.W f.a) = none → exec (.thaw f) s = .next (s1.setW f.b 2).advance) ∧
    (∀ m, s1.masterOf (s1.W f.a) = some m → bitsOf (s1.W f.b) 63 1 = 0 → (s1.W f.b).getLsbD 0 = false → s1.isFrozen m = false →
      exec (.thaw f) s = .next (s1.setW f.b 1).advance) ∧
    (∀ c, s1.masterOf (s1.W f.a) = some (.thread c) → s1.W f.b = 0 → (s1.thread c).st = .frozen →
      exec (.thaw f) s = .next ((((s1.freeMaster (· == threadMaster c)).thawThread c).setW f.b 0)).advance)) ∧
  (∀ s s1, Opens { mode := 3, irrev := true, names := [f.a] } f s s1 →
    (s1.masterOf (s1.W f.a) = none → exec (.kill f) s = .next (s1.result f 2)) ∧
    (∀ c, s1.masterOf (s1.W f.a) = some (.thread c) → (s1.thread c).st = .empty → exec (.kill f) s = .next (s1.result f 4)) ∧
    (∀ c, s1.masterOf (s1.W f.a) = some (.thread c) → (s1.thread c).st ≠ .empty → isHandler c = false → exec (.kill f) s =
      .next (((s1.freeMaster (· == threadMaster c)).killCtx c).result f 0)))

/-! ## The events of the units

An event is a turn of a unit; the statements say what it does where the rule that names it lets it happen. -/

/-- The copy engine's completion with its COPYDONE and its PROMISE, a counted write's decrement, ALLFREE, and the unit that an engine
writes at its home (R214, R268, R269, R279, R288). -/
def Obligations.CopyEventsHappen : Prop :=
  (∀ s pcl slot k, (s.clu pcl).cmd slot = some k → k.state = 0 → k.prep = true → k.units = [] →
    (∀ d ∈ s.decs, ¬ (d.lid = k.lid ∧ d.cvcl = (s.clu pcl).vcl ∧ d.slot = slot)) →
    let s1 := s.setCmd pcl { k with state := 3 }
    let s2 := s1.postDone (s.clu pcl).vcl slot k.lid k.tid k.tag k.written k.status k.block k.vt
    let q := s2.clu pcl
    let s3 := if k.fn = 3 then
      s2.setClu pcl { q with mcasts := q.mcasts.map (fun (m : Mcast) => if m.tag = k.tag then { m with done := true } else m) } else s2
    (k.pen = false ∨ k.voided = true ∨ k.fin ≤ k.promise → exec (.copyComplete pcl slot) s = .next s3) ∧
    (k.pen = true → k.voided = false → k.promise < k.fin → ∀ c, s3.promiseTo k.lid k.tid = some c →
      exec (.copyComplete pcl slot) s =
        .next (s3.setThread c { s3.thread c with promise := (s3.thread c).promise ++ [k.block] }))) ∧
  (∀ s n d p q x, s.decs[n]? = some d → mfind (s.launch d.lid).pcls d.vcl = some p → (s.core (p * 16 + d.core)).tqAt d.off = some q →
    q.slots.find? (fun y => y.seq % 2 ^ 32 == d.qseq && !y.token) = some x →
    exec (.countedDecrement n) s =
      .next (({ s with decs := s.decs.eraseIdx n } : State).putTq (p * 16 + d.core) (q.mapSlot x.seq fun y => y.dec d.bytes d.err))) ∧
  (∀ s pcl tag m, (s.clu pcl).mcasts.find? (fun m => m.tag == tag && m.done && m.wait.isEmpty) = some m →
    (∀ x ∈ (s.clu pcl).cmds, ¬ (x.fn = 3 ∧ x.tag = tag)) →
    exec (.allfree pcl tag) s = .next ((s.setClu pcl { s.clu pcl with
      mcasts := (s.clu pcl).mcasts.filter (fun (x : Mcast) => x.tag != tag) }).launchMsg
        (unitMsg m.lid m.tid 7 tag (s.clu pcl).vcl tag ones64))) ∧
  (∀ s pcl slot n k u, (s.clu pcl).cmd slot = some k → k.state = 0 → k.prep = true → k.units[n]? = some u →
    s.cutFrom pcl u.loc = false → s.mayWrite pcl k n u = true →
    exec (.engineUnitWrite pcl 0 slot n) s =
      .next (let s1 := (s.writeUnit (s.engWriter k.lid k.tid 2 k.vt) u k.cls).disown pcl 0 k.slot u.loc
             let s2 := s1.setCmd pcl { k with units := k.units.eraseIdx n, written := k.written + u.n, fin := s.gtime }
             s2.sendDec pcl k (if k.fn = 3 then s.unitVcl u else none) u.n false)) ∧
  (∀ s pcl half slot n g r j u, s.grp pcl half slot = some g → g.run = some r → g.jobs.head? = some j → r.units[n]? = some u →
    g.frozen = false → g.wait = false → s.cutFrom pcl u.loc = false → s.unitDue u = true →
    exec (.engineUnitWrite pcl (1 + half) slot n) s =
      .next (((s.writeUnit (s.engWriter j.lid j.tid 3 j.vt) u j.cls).disown pcl (1 + half) (jobOwner slot j.num) u.loc).setGrp pcl half slot
        { g with run := some { r with units := r.units.eraseIdx n } }))

/-- The stream unit reads ahead the entry of a C level that follows the current one, once its interface has sent the request, and records
a coordinate that is not below SIZE; a context that is drained has its images and its mark in its record. A matrix job of a resident
group begins and completes, or leaves its units to be written; a solver reads its operands at its start, goes on by blocks of 16 columns
and writes at its end; a matrix context is drained into its area (R300, R302, R329, R331, R347). -/
def Obligations.StreamAndMatrixEventsHappen : Prop :=
  (∀ s pid n, s.mayLook pid n = true →
    let r := (s.thread pid).sr n
    let x := levOf r.dsc r.level
    let k := r.posn.toNat + 1
    let a := x.crd + 4 * k
    let s0 := s.setLook pid none
    x.kind = 1 → k < r.send.toNat → k < x.ncrd →
    (∀ v, r.known x k = some v → x.size ≤ v →
      exec (.streamLookahead pid n) s = .next (s.setThread pid ((s.thread pid).setSr n (r.record k 2 2 0 a)))) ∧
    (r.known x k = none → (s.core (coreId pid)).slook = none →
      exec (.streamLookahead pid n) s = .next (s.setLook pid (some (pid, n, false)))) ∧
    (∀ s1 l v, r.known x k = none → (s.core (coreId pid)).slook = some (pid, n, true) →
      s0.access (s0.who pid) (BitVec.ofNat 64 a) 4 4 { r := true } = .ok l →
      s0.loadAs 4 pid (BitVec.ofNat 64 a) l 4 r.cls 0 = .ok s1 v →
      exec (.streamLookahead pid n) s = .next (s1.setThread pid ((s1.thread pid).setSr n { r with look := r.look ++ [(a, v)] })))) ∧
  (∀ s pid us0 l us, s.mayDrain pid = true → s.engTarget (s.saveWho pid) (s.recBase pid + 0x800) (s.thread pid).images [] = .ok us0 →
    s.access (s.saveWho pid) (s.recBase pid + 0xCDD) 1 1 { r := true } = .ok l →
    s.engTarget (s.saveWho pid) (s.recBase pid + 0xCDD) [BitVec.ofNat 8 (s.readAt l 1 ||| 2)] us0 = .ok us →
    (∀ u ∈ us, s.reserved none u.loc (unitSize u.loc) = false ∧ s.leaseHolds u.loc = false ∧ s.dramReady u.loc (unitSize u.loc) = true ∧
      s.isOwned u.loc (unitSize u.loc) = false) →
    exec (.streamContextDrain pid) s =
      .next (let s1 := us.foldl (fun (a : State) u =>
               a.writeUnit (s.engWriter (s.thread pid).lid (s.thread pid).tid 4 (s.thread pid).sys.vt) u 0) s
             let k := s1.core (coreId pid)
             (s1.setThread pid { s1.thread pid with strm := (s1.thread pid).forgetStrm, drained := true }).setCore (coreId pid)
               { k with strms := k.strms.filter fun c => c != pid })) ∧
  (∀ s pcl half slot g j, s.grp pcl half slot = some g → g.jobs.head? = some j → g.place.isSome = true →
    ((s.clu pcl).eng half).turnOf slot g = true →
    let g1 := { g with lastStart := ((s.clu pcl).eng half).stamp }
    (j.solver = false →
      (∀ r, g.run = some r → r.units = [] →
        exec (.matrixJobComplete pcl half slot) s = .next (s.jobEnd pcl half slot g j r.after 0)) ∧
      (∀ s1 x, g.run = none → s.enginesHeld pcl = false → s.jobRun pcl j g.ctx = (s1, .ok (x, [])) →
        exec (.matrixJobComplete pcl half slot) s = .next (s1.jobEnd pcl half slot g1 j x 0)) ∧
      (∀ s1 x u us, g.run = none → s.enginesHeld pcl = false → s.jobRun pcl j g.ctx = (s1, .ok (x, u :: us)) →
        exec (.matrixJobComplete pcl half slot) s = .next ((s1.ownRest pcl half slot j (u :: us)).setGrp pcl half slot
          { g1 with run := some { units := u :: us, after := x } }))) ∧
    (j.solver = true →
      (∀ m f, g.run = none → s.enginesHeld pcl = false → s.solveCheck pcl j = none → s.readTarget pcl j = .ok m →
        s.readFactor pcl j = .ok f →
        exec (.matrixJobComplete pcl half slot) s = .next ((s.ownRest pcl half slot j (s.destUnits pcl j)).setGrp pcl half slot
          { g1 with run := some { rows := m, factor := f } })) ∧
      (∀ r, g.run = some r → 16 * r.step < j.n → s.enginesHeld pcl = false →
        let q := solveBlock j g.ctx r.factor r.step { rows := r.rows, flags := r.flags, events := r.events }
        let r1 := { r with step := r.step + 1, rows := q.rows, flags := q.flags, events := q.events }
        (16 * r1.step < j.n → exec (.matrixJobComplete pcl half slot) s = .next (s.setGrp pcl half slot { g with run := some r1 })) ∧
        (∀ us, j.n ≤ 16 * r1.step → s.solvedUnits pcl j q.rows = .ok us →
          exec (.matrixJobComplete pcl half slot) s = .next (s.setGrp pcl half slot { g with run := some { r1 with units := us } }))) ∧
      (∀ r, g.run = some r → j.n ≤ 16 * r.step → r.units = [] →
        exec (.matrixJobComplete pcl half slot) s = .next (s.jobEnd pcl half slot g j (r.solved g.ctx j) 0)))) ∧
  (∀ s pcl half slot g us, s.grp pcl half slot = some g → g.mayDrain = true → ((s.clu pcl).eng half).freePlace = none →
    (∃ p ∈ ((s.clu pcl).eng half).groups, p.2.place = none ∧ p.2.wants = true) →
    (∀ p ∈ ((s.clu pcl).eng half).groups, p.2.mayDrain = true → g.lastStart ≤ p.2.lastStart) → g.run = none →
    s.engTarget (s.groupWho pcl g) (s.groupArea pcl half g) g.area [] = .ok us → (us.all s.unitReady) = true →
    exec (.matrixContextDrain pcl half slot) s =
      .next ((us.foldl (fun (a : State) u => a.writeUnit { c := none, vt := 0, code := 3 } u 0) s).setGrp pcl half slot
        { g with place := none, drained := true, areaAt := g.areaNo half }))

/-- Messages: the delivery to a mailbox, the admission of a held message, the end of a RECVT, which names its registers (R103), and an
alarm, which comes behind the messages refused earlier (R354, R355, R360, R362). -/
def Obligations.MessageEventsHappen : Prop :=
  (∀ s n m c, s.net[n]? = some m → s.overtakes n m = false → s.sendReleased m = true → s.msgCut m = false → m.dev = 0 → s.ctxOf m.lid m.dst = some c →
    let t := s.thread c
    let s1 := { s with net := s.net.eraseIdx n }
    t.st ≠ .saved → s.heldBack m = false → t.mail.admissible = none →
    (t.st = .empty ∨ t.st = .done ∨ t.lid ≠ m.lid → exec (.messageDeliver n) s = .next (s1.delivered c m)) ∧
    (t.st ≠ .empty → t.st ≠ .done → t.lid = m.lid → t.mail.room m.kind = true →
      exec (.messageDeliver n) s = .next
        (((s1.setThread c ({ t with mail := { t.mail with box := t.mail.box ++ [m.msg] } } : Thread).wakeRecv)).delivered c m)) ∧
    (t.st ≠ .empty → t.st ≠ .done → t.lid = m.lid → t.mail.room m.kind = false → m.t0 ≠ 0 → m.kind ≠ 5 →
      exec (.messageDeliver n) s = .next (s1.setThread c { t with mail := { t.mail with held := holdMsg t.mail.held m } }))) ∧
  (∀ s c n m, (s.thread c).st ≠ .saved → (s.thread c).st ≠ .done → (s.thread c).mail.admissible = some n →
    (s.thread c).mail.held[n]? = some m →
    exec (.messageAdmit c) s = .next ((s.setThread c { s.thread c with
      mail := { (s.thread c).mail with held := (s.thread c).mail.held.eraseIdx n } }).enter c m)) ∧
  (∀ s c p d, (s.thread c).mail.park = some p → p.deadline = some d → (s.thread c).st = .parked → d ≤ s.gtime →
    chosen p.mask (s.thread c).mail.box = none →
    ∀ s1, ({ s with cur := c } : State).nameRegs [p.a, p.a + 1, p.b] = .ok s1 →
      exec (.recvtTimeout c) s = .next (s1.setT (({ s1.t with
        st := .run, pc := p.nextPc, mail := { s1.t.mail with park := none } } : Thread).setP p.x false))) ∧
  (∀ s c d tag, (s.thread c).mail.alarm = some (d, tag) → d ≤ s.gtime →
    (s.thread c).st ≠ .empty → (s.thread c).st ≠ .done → (s.thread c).st ≠ .saved →
    exec (.alarmFire c) s = .next (((s.setThread c { s.thread c with mail := { (s.thread c).mail with alarm := none } }).admitAll c
      (s.thread c).mail.held.length).arriveMsg c
      (unitMsg (s.thread c).lid (s.thread c).tid 5 tag c d (s.thread c).sys.vt)))

/-- A circuit of a formed domain that no save holds up: with a white and empty answer and every member arrived the phase ends, with one
that is not it only records; in both every interface takes the record of R369, with the least virtual time as GVT where the answer is
white (R369, R370). An abort that was found takes effect (R379). -/
def Obligations.CircuitAndAbortHappen : Prop :=
  (∀ (s : State) (lid level leader : Nat),
    let us := s.domUnits lid level leader
    let ts := (us.map (s.unitTids lid level)).flatten.filter fun t => (s.theThread lid t).st != .empty
    let items := s.outstanding lid (inUnits level us)
    let missing := (ts.filter fun t => !(s.theThread lid t).arrived level).length
    let white := us.all fun u => !(s.domOf lid level u).black
    let vts := ts.filterMap fun t =>
      let x := s.theThread lid t
      if x.isDone = true ∨ x.sys.vt = ones64 then none else some x.sys.vt
    let keys := ((us.map fun u => (s.vclu lid (if level = 0 then u / 16 else u)).tasks).flatten.filter fun k =>
      k.level == level && (level != 0 || us.contains k.unit)).map fun k => BitVec.ofNat 64 k.key
    let after (d : Dom) : Dom :=
      { d with black := false, white := white, sumZero := items.isEmpty, circuits := (d.circuits + 1) % 2 ^ 16,
               missing := missing, gvt := if white then (leastWord (vts ++ items ++ keys)).getD d.gvt else d.gvt }
    let s1 := us.foldl (fun (a : State) u => a.onDom lid level u after) s
    (s.launch lid).active = true → (s.domOf lid level leader).isFormed = true → us ≠ [] → (∀ u ∈ us, s.unitSaving lid level u = false) →
    (level < 2 → s.gtime % 64 = 0) →
    (white = false ∨ items ≠ [] → exec (.circuitComplete lid level leader) s = .next s1) ∧
    (white = true → items = [] → missing ≠ 0 → level ≠ 4 → exec (.circuitComplete lid level leader) s = .next s1) ∧
    (white = true → items = [] → missing = 0 → level ≠ 4 →
      exec (.circuitComplete lid level leader) s = .next (s1.phaseEnd lid level us ts)) ∧
    (white = true → items = [] → missing = 0 → level = 4 → (∀ t ∈ ts, (s.theThread lid t).st = .done) →
      exec (.circuitComplete lid level leader) s =
        .next ((s1.setLaunch lid { s1.launch lid with clean := true }).phaseEnd lid level us ts))) ∧
  (∀ s c, (s.thread c).spec.abort = true → exec (.specAbort c) s = .next (s.abortNow c)) ∧
  (∀ (s : State) c k, (s.thread c).spec.ckpt = some k →
    let u := (s.abortNow c).thread c
    u.pc = k.pc ∧ u.win = k.win ∧ u.pw = k.pw ∧ u.vec.v = k.v ∧ u.strm = k.strm ∧ u.spec.spen = k.spen ∧ u.spec.sb = [] ∧
    u.vec.seq = [] ∧ u.vec.dseq = (s.thread c).vec.dseq ∧ (s.abortNow c).mem = s.mem ∧
    ∀ c', c' ≠ c → (s.abortNow c).thread c' = s.thread c')

/-- What the events of the launch scheduler do when they come. A doorbell of a queue whose memory cannot be read yet is kept; else
TAIL is read, unless the queue is fed by LAUNCH alone, and where the queue does not exist nothing more happens, where it holds no more records than its ring RINGERR is cleared and its head examined, and
where it holds more RINGERR is set and LAUNCHERR posted with reason RING, with slot 0 and queue 0 if no slot maps or serves the queue
(R55, R62, R260). A write of QSCH_CTL sets EN and clears STANDBY unless the other scheduler reads EN = 1 (R53). A write of QS_CTL is
ignored while launches are placed, and one that maps, remaps or unmaps a queue clears the accounting and ends a marking (R61). A write of
QSCH_EVHEAD lets the waiting events in (R62). A periodic slot whose deadline is reached is replenished, its DEADLINE k whole periods on
for the least such k, and its first overrun of a budget is marked and posted (R63). Heads are examined every 65,536 cycles (R65). A slot
that is blocked for long enough is marked and takes the lowest lender as its borrower; it returns when its owner's head is ready (R66). A
head that has waited for the stall period posts DISPSTALL (R65). At its start time a launch's resident threads run (R69). -/
def Obligations.SchedulerEventsHappen : Prop :=
  (∀ s0 e q0, let q := q0 % 4096
    let read := if nbit (s0.descField q 9 1) 0 then s0.sched.tails else mset s0.sched.tails q (s0.descField q 0x10 4)
    let s : State := { s0 with sched := { s0.sched with tails := read } }
    let x := s.queue q
    let bells := s.sched.bells.filter (· != q)
    let s1 : State := { s with sched := { s.sched with bells := bells } }
    let ring (err : List Nat) : State := { s with sched := { s.sched with bells := bells, ringerr := err } }
    let tied := slotNos.find? fun n => s.slotMaps n && ((s.slot n).qnum == q || ((s.slot n).bv && (s.slot n).borrow == q))
    let err := if s.sched.ringerr.contains q then s.sched.ringerr else q :: s.sched.ringerr
    (s0.queueReady q = false → exec (.qschDoorbell e q0) s0 = .next { s0 with sched := { s0.sched with bells := q :: bells } }) ∧
    (s0.queueReady q = true → x.ring = 0 → exec (.qschDoorbell e q0) s0 = .next s1) ∧
    (s0.queueReady q = true → x.ring ≠ 0 → x.count ≤ x.cap →
      (s.sched.ringerr.contains q = false → exec (.qschDoorbell e q0) s0 = .next (s1.examineQueue q)) ∧
      (s.sched.ringerr.contains q = true → exec (.qschDoorbell e q0) s0 =
        .next (((ring (s.sched.ringerr.filter (· != q))).setDflag q 4 false).examineQueue q))) ∧
    (s0.queueReady q = true → x.ring ≠ 0 → x.cap < x.count →
      (∀ n, tied = some n → exec (.qschDoorbell e q0) s0 = .next (((ring err).setDflag q 4 true).post 3 n q (7 + x.head % 2 ^ 24 * 256))) ∧
      (tied = none → exec (.qschDoorbell e q0) s0 = .next (((ring err).setDflag q 4 true).post 3 0 0 (7 + x.head % 2 ^ 24 * 256))))) ∧
  (∀ s v, v % 2 = 1 →
    (s.sched.en1 = false → exec (.qschCtlWrite 0 v) s = .next { s with sched := { s.sched with en0 := true, standby0 := false } }) ∧
    (s.sched.en1 = true → exec (.qschCtlWrite 0 v) s = .next s) ∧
    (s.sched.en0 = false → exec (.qschCtlWrite 1 v) s = .next { s with sched := { s.sched with en1 := true, standby1 := false } }) ∧
    (s.sched.en0 = true → exec (.qschCtlWrite 1 v) s = .next s)) ∧
  (∀ s v, v % 2 = 0 → exec (.qschCtlWrite 0 v) s = .next { s with sched := { s.sched with en0 := false } } ∧
    exec (.qschCtlWrite 1 v) s = .next { s with sched := { s.sched with en1 := false } }) ∧
  (∀ s e n v, n < 64 → (s.slot n).nplaced ≠ 0 → exec (.qsCtlWrite e n v) s = .next s) ∧
  (∀ s e n v, n < 64 → (s.slot n).nplaced = 0 → (s.slot n).map ≠ nbit v 63 ∨ (s.slot n).qnum ≠ v % 4096 →
    let s1 := if (s.slot n).state = 3 then s.setDflag (s.slot n).qnum 2 false else s
    let y : QSlot := { s.slot n with
      map := nbit v 63, qnum := v % 4096, tspent := 0, espent := 0, tovr := false, eovr := false, bv := false, borrow := 0, state := 0,
      waitFrom := none }
    exec (.qsCtlWrite e n v) s = .next (((s1.setSlot n y).tdiCheck fun p => p.bnd.any fun b => b.1 == n).noteHead n)) ∧
  (∀ s e v, exec (.qschEvheadWrite e v) s =
    .next (({ s with sched := { s.sched with evhead := v % 256 } } : State).drainEvents s.sched.evbuf.length)) ∧
  (∀ s n k, let x := s.slot n
    x.period ≠ 0 → x.deadline ≤ s.gtime → s.gtime < x.deadline + k * x.period → x.deadline + k * x.period ≤ s.gtime + x.period →
    exec (.replenish n) s = .next ((s.setSlot n { x with
      deadline := (x.deadline + k * x.period) % 2 ^ 64, tspent := 0, espent := 0, tovr := false, eovr := false,
      replAt := some s.gtime }).examineSlot n)) ∧
  (∀ s n, (s.slot n).period ≠ 0 →
    ((s.slot n).tbud ≠ 0 → (s.slot n).tbud < (s.slot n).tspent → (s.slot n).tovr = false →
      exec (.overrun n 0) s = .next ((s.setSlot n { s.slot n with tovr := true }).post 1 n (s.slot n).qnum 0)) ∧
    ((s.slot n).ebud ≠ 0 → (s.slot n).ebud < (s.slot n).espent → (s.slot n).eovr = false →
      exec (.overrun n 1) s = .next ((s.setSlot n { s.slot n with eovr := true }).post 1 n (s.slot n).qnum 1))) ∧
  (∀ s n, s.gtime % 65536 = 0 → exec (.headReexamine n) s = .next (s.examineSlot n)) ∧
  (∀ s n, let s1 := s.noteHead n
    let x := s1.slot n
    let s2 := ((s1.setSlot n { x with state := 3 }).setDflag x.qnum 2 true).post 2 n x.qnum ((s1.headRec x.qnum).waitsem.toNat % 2 ^ 32)
    (x.state ≠ 3 → s1.headBlocked n = true → s1.waitedLong n = true →
      (s2.lender = none → exec (.blockMark n) s = .next s2) ∧
      (∀ q, s2.lender = some q → exec (.blockMark n) s = .next ((s2.setSlot n { s2.slot n with bv := true, borrow := q }).reach n q))) ∧
    (x.state = 3 → s1.slotMaps n = true → s1.headReady n x.qnum = true → exec (.blockMark n) s =
      .next (((s1.setSlot n { x with state := 1, bv := false, waitFrom := none }).setDflag x.qnum 2 false).noteHead n)) ∧
    (∀ q, x.state = 3 → x.bv = false → s1.headBlocked n = true → s1.headReady n x.qnum = false → s1.lender = some q →
      exec (.blockMark n) s = .next ((s1.setSlot n { x with bv := true, borrow := q }).reach n q))) ∧
  (∀ s x, s.sched.dispatches = true → s.sched.held = false → s.sched.stalls.filter s.stallLives = [x] →
    (x.since + s.sched.stallp ≤ s.gtime → exec .dispstall s = .next
      (({ s with sched := { s.sched with stalls := [{ x with since := x.since + s.sched.stallp }] } } : State).post 10 x.slot x.queue x.why)) ∧
    (s.gtime < x.since + s.sched.stallp → exec .dispstall s = .next { s with sched := { s.sched with stalls := [x] } })) ∧
  (∀ s l t, (s.launch l).start = some t → (s.launch l).active = true → t ≤ s.gtime → exec (.launchStart l) s =
    .next { s with thr := s.thr.map (fun (p : Nat × Thread) =>
      if p.2.lid = l ∧ p.2.st = .resident then (p.1, { p.2 with st := .run }) else p) })

/-- The dispatch decision takes the candidate with the least effective deadline, refuses a record that a check of R58 fails, stops for want
of credit or of clusters, and places the rest; the next turn decides again where one was placed or refused (R65). It waits for memory that
is not ONLINE (R260). A launch retires where every thread of it has ended and its root circuit came back clean: its clusters are free,
NPLACED is one less and its charge is given back, each modulo its width (R7, R67, R420, R421). -/
def Obligations.DispatchAndRetirementHappen : Prop :=
  (∀ (s : State) (n : Nat),
    s.sched.dispatches = true → s.sched.held = false → s.outer.retain.on = false → s.outer.retain.entering = false →
    s.servesLate = false → leastSlot s s.candidates = some n →
    (∀ m ∈ s.candidates, (s.slot n).effDeadline < (s.slot m).effDeadline ∨
      ((s.slot n).effDeadline = (s.slot m).effDeadline ∧ n ≤ m)) ∧ n ∈ s.candidates ∧
    (let q := (s.slot n).serving
     let s1 := s.schedRead q
     let asid := (s1.queue q).asid
     let s0 := s1.tdiCheck fun p => p.bnd.any fun b => b.1 == n && b.2.1 == q && b.2.2 != asid
     let lid := s0.launches.length
     (s0.checkRec lid n q ≠ 0 → exec .dispatchDecision s = .next (((s0.refuse n q (s0.checkRec lid n q)).reach n q).again)) ∧
     (∀ i o, s0.checkRec lid n q = 0 → s0.objAt asid (s0.headRec q).obj = some i → s0.objects[i]? = some o →
       (s0.sched.credit < s0.sched.eclaim * (s0.headRec q).ncl → exec .dispatchDecision s = .next (s0.stallAt n q 0)) ∧
       (s0.sched.eclaim * (s0.headRec q).ncl ≤ s0.sched.credit → s0.choose o (s0.headRec q).ncl = none →
         exec .dispatchDecision s = .next (s0.stallAt n q 1)) ∧
       (∀ pcls, s0.sched.eclaim * (s0.headRec q).ncl ≤ s0.sched.credit → s0.choose o (s0.headRec q).ncl = some pcls →
         s0.dataWaits o asid = false → exec .dispatchDecision s = .next (((s0.dispatch n q lid i o pcls).reach n q).again))))) ∧
  (∀ (s : State) (lid : Nat),
    let l := s.launch lid
    l.active = true → l.clean = true → (∀ p ∈ s.thr, p.2.lid = lid → p.2.st = .done ∨ p.2.st = .empty) →
    (∀ p ∈ s.saved, p.2.lid ≠ lid) → l.signal = false → s.retireWaits l = false →
    ∃ t, exec (.retire lid) s = .next t ∧ (t.launch lid).active = false ∧ (t.launch lid).pcls = [] ∧
      (t.slot l.slot).nplaced = ((s.slot l.slot).nplaced + 255) % 256 ∧ t.sched.credit = (s.sched.credit + l.charge) % 2 ^ 64 ∧
      (∀ m ∈ t.net, m.lid ≠ lid) ∧ (∀ d ∈ t.decs, d.lid ≠ lid) ∧ t.gtime = s.gtime)

/-- The steward's kernel events: a pre-emption is asked for and ends, a saved cluster is restored or discarded, an answer to an XFAULT
record, an asynchronous cause is taken (R393, R402, R408, R413). -/
def Obligations.PreemptionEventsHappen : Prop :=
  (∀ s pcl, (s.clu pcl).launch = none ∨ nbit s.kstat 0 = true →
    exec (.preemptCluster pcl) s = .next (s.setKstat 2 true) ∧ ∀ k, exec (.preemptCore pcl k) s = .next (s.setKstat 2 true)) ∧
  (∀ s pcl lid, (s.clu pcl).launch = some lid → nbit s.kstat 0 = false →
    let s1 := (s.setKstat 2 false).setKstat 0 true
    let all := (ctxsOf pcl none).foldl State.askStop s1
    exec (.preemptCluster pcl) s = .next ((all.setClu pcl { all.clu pcl with saving := true }).setEntry lid (s.clu pcl).vcl
      fun e => e ||| 0x4000) ∧
    ∀ k, exec (.preemptCore pcl k) s =
      .next (let one := (ctxsOf pcl (some k)).foldl State.askStop s1; one.setClu pcl { one.clu pcl with savingCore := some k })) ∧
  (∀ s pcl lid, (s.clu pcl).launch = some lid → (s.clu pcl).saving = true →
    let s1 := s.abortAll (ctxsOf pcl none)
    (∃ c ∈ ctxsOf pcl none, s1.ctxStopped c = false) → exec (.clusterSaved pcl) s = .next s1) ∧
  (∀ s pcl lid s2 s3, (s.clu pcl).launch = some lid → (s.clu pcl).saving = true →
    let s1 := s.abortAll (ctxsOf pcl none)
    (∀ c ∈ ctxsOf pcl none, s1.ctxStopped c = true) → (∀ i, i < 16 → (s1.thread (2 ^ 18 + pcl * 16 + i)).st ≠ .frozen) →
    (s1.clu pcl).enginesStopped = true → s1.slicesQuiet pcl = true →
    s1.saveCtxs (s1.saveBlock lid (s.clu pcl).vcl) (ctxsOf pcl none) = (s2, none) →
    s2.finishSave pcl lid (s.clu pcl).vcl = (s3, none) → exec (.clusterSaved pcl) s = .next s3) ∧
  (∀ s h pcl, s.rest = none → (mfind s.saved h = none → exec (.restore h pcl) s = .next (s.setKstat 2 true)) ∧
    (∀ x, mfind s.saved h = some x → x.single = none → (s.clu pcl).launch ≠ none ∨ s.mapped.contains pcl = true →
      exec (.restore h pcl) s = .next (s.setKstat 2 true)) ∧
    (∀ x, mfind s.saved h = some x → x.single = none → (s.clu pcl).launch = none → s.mapped.contains pcl = false →
      let s1 := { (s.setKstat 2 false).setKstat 1 true with rest := some (h, pcl) }
      (∀ i, i < 16 → (s1.thread (2 ^ 18 + pcl * 16 + i)).st ≠ .frozen) →
      ∀ s2 s3, (s1.reload h x pcl).restSlices pcl (s1.saveBlock x.lid x.vcl) (List.range 16) = (s2, none) →
      s2.restCtxs (s1.saveBlock x.lid x.vcl) x.time ((ctxsOf pcl none).filter fun c => !s1.saved.any fun (q : Nat × Saved) =>
        q.2.lid == x.lid && q.2.vcl == x.vcl && q.2.single == some (coreNo c)) = (s3, none) →
      ∀ s4 ms, s3.readMsgs pcl (s1.saveBlock x.lid x.vcl) 0 x.msgs = (s4, .ok ms) →
      exec (.restore h pcl) s = .next (((s4.moveRecs x.recs x.oldPcl pcl).release x ms pcl).endRestore h))) ∧
  (∀ s h, s.rest = none → (mfind s.saved h = none → exec (.restoreDiscard h) s = .next (s.setKstat 2 true)) ∧
    (∀ x, mfind s.saved h = some x → x.single = none →
      let s1 := s.setLaunch x.lid { s.launch x.lid with killed := true }
      exec (.restoreDiscard h) s = .next (x.recs.foldl State.freeRecord
        (x.msgs.foldl State.departed { s1.setKstat 2 false with saved := mdel s1.saved h })))) ∧
  (∀ s k fail, k < 256 → fail < 2 → let r : SRec := mget {} s.srec k
    (r.w1.getLsbD 63 = false → exec (.kctlReply k fail) s = .next s) ∧
    (∀ c, r.w1.getLsbD 63 = true → bitsOf r.w1 62 60 = 2 → bitsOf r.w0 63 60 = 1 →
      ((s.freeRecord k).clu (bitsOf r.w0 47 36)).cmd (bitsOf r.w0 5 0) = some c → c.state = 1 →
      exec (.kctlReply k fail) s = .next (if fail = 0 then (s.freeRecord k).setCmd (bitsOf r.w0 47 36) { c with state := 0 }
        else (s.freeRecord k).copyEnd (bitsOf r.w0 47 36) c 6))) ∧
  (∀ s c, s.asyncOpen c = true → let t := s.thread c
    (∀ l ls, t.vec.late = l :: ls → exec (.asyncTrapTake c) s = .next (s.raiseLate c l ls)) ∧
    (∀ b bs, t.vec.late = [] → t.promise = b :: bs → exec (.asyncTrapTake c) s =
      .next ((s.setThread c { t with promise := bs }).takeTrap c cPROMISE (causeWord cPROMISE 0 0 0) t.pc b none)) ∧
    (∀ g, t.vec.late = [] → t.promise = [] → t.preempt = some g → t.st = .run → exec (.asyncTrapTake c) s =
      .next ((s.setThread c { t with preempt := none }).takeTrap c cPREEMPT (causeWord cPREEMPT 0 0 0) t.pc (BitVec.ofNat 64 g) none)))

/-- What DRAM's own units do when their events come. A commit of the region matrices sets BUSY; when it ends it gives the first status that
fails, or makes the staged matrices active and leaves no L1 and no L2 copy of an HBM address (R248). A migration engine is done with a page
that stands in its tier; else it pops a frame and marks the page MOVING, copies sector after sector, copies the sectors written since, and
writes TIER and FRAME and pushes the old frame; on an uncorrectable error the entry is as it was and the new frame goes back (R252). A
map-out is refused or takes the die out, frees its REMAP entries and tells the host (R255). The patrol goes on by what is due, and a
channel that is not ONLINE keeps it (R256, R260). ELOG_CLR empties a log (R258). A write of HPHY_CHCTL, of HPHY_LREP and of HPHY_PAT_CTL,
and the end of a pattern run (R260, R261, R262). -/
def Obligations.DramEventsHappen : Prop :=
  (∀ s, exec .amapCommit s = .next { s with dram := { s.dram with amap := { s.dram.amap with busy := true } } }) ∧
  (∀ s, s.dram.amap.busy = true →
    (s.amapCheck ≠ 0 → exec .amapCommitDone s =
      .next { s with dram := { s.dram with amap := { s.dram.amap with busy := false, status := s.amapCheck } } }) ∧
    (s.amapCheck = 0 → ∃ t, exec .amapCommitDone s = .next t ∧ t.dram.amap.active = s.dram.amap.staged ∧ t.dram.amap.status = 0 ∧
      t.dram.amap.busy = false ∧ t.mem = s.mem ∧ (∀ x ∈ t.l2, 2 ^ 39 ≤ x.line * 1024) ∧
      (∀ k ∈ t.clus, ∀ y ∈ k.2.l1, 2 ^ 39 ≤ y.line * 256))) ∧
  (∀ s e k t q, let p := s.pmig e
    let ent := s.ppte k
    let old := b2n (nbit ent 62)
    let top := p.stack t + 8 * (p.free t - 1)
    let s1 := (s.readAtomAt { code := 5 } (s.rawKey (p.ppt + 8 * k) / 32) (p.ppt + 8 * k)).1
    p.en = true → p.queue = (k, t) :: q →
    (p.mov = none → s.rawOnline (p.ppt + 8 * k) = true →
      (old = t → exec (.migration e) s = .next (s1.setPmig e { p with queue := q })) ∧
      (k < p.npages → nbit ent 63 = true → old ≠ t → p.free t ≠ 0 → s.rawOnline top = true → exec (.migration e) s =
        .next ((((s1.readAtomAt { code := 5 } (s1.rawKey top / 32) top).1).setPmig e
          { (p.setFree t (p.free t - 1)) with mov := some { frame := frameOf (s.rawRead8 top) } }).rawWrite8 (p.ppt + 8 * k)
            (movingEntry ent)))) ∧
    (∀ m, p.mov = some m →
      (∀ s2, m.next < 256 → s.frameOnline old (frameOf ent + 256 * m.next) = true → s.frameOnline t (m.frame + 256 * m.next) = true →
        (s.copySector k t m.frame m.next = (s2, false) → exec (.migration e) s = .next (s2.setPmig e { (s2.pmig e) with
          mov := some { m with next := m.next + 1, dirty := m.dirty.filter fun i => i != m.next } })) ∧
        (s.copySector k t m.frame m.next = (s2, true) → exec (.migration e) s = .next (s2.migrFail e k t m.frame))) ∧
      (∀ s2, 256 ≤ m.next →
        (∀ i ∈ m.dirty, s.frameOnline old (frameOf ent + 256 * i) = true ∧ s.frameOnline t (m.frame + 256 * i) = true) →
        s.rawOnline (p.ppt + 8 * k) = true →
        (State.copySectors k t m.frame m.dirty s = (s2, false) → exec (.migration e) s = .next (s2.migrDone e k t m.frame)) ∧
        (State.copySectors k t m.frame m.dirty s = (s2, true) → exec (.migration e) s = .next (s2.migrFail e k t m.frame))))) ∧
  (∀ (s : State) e k t f, let p := s.pmig e
    let old := b2n (nbit (s.ppte k) 62)
    s.migrDone e k t f = ((s.setPmig e { (p.setFree old (p.free old + 1)) with queue := p.queue.drop 1, mov := none }).rawWrite8
      (p.ppt + 8 * k) (movedEntry (s.ppte k) t f)).rawWrite8 (p.stack old + 8 * p.free old) (frameOf (s.ppte k)) ∧
    s.migrFail e k t f = ((s.setPmig e { (p.setFree t (p.free t + 1)) with queue := p.queue.drop 1, mov := none }).rawWrite8
      (p.ppt + 8 * k) (stillEntry (s.ppte k))).rawWrite8 (p.stack t + 8 * p.free t) f) ∧
  (∀ s k d, k < 8 → d < 16 → let r := s.rmap k
    (r.mode < 2 ∨ nbit r.out d = true ∨ 2 ≤ r.outCount → exec (.rmapMapout k d) s = .next (s.setRmap k { r with refused := true })) ∧
    (2 ≤ r.mode → nbit r.out d = false → r.outCount < 2 → ∃ t, exec (.rmapMapout k d) s = .next t ∧ (t.rmap k).out = r.out + 2 ^ d ∧
      (t.rmap k).refused = false ∧ (t.rmap k).table = r.table.filter (fun x => locDie x.1 != d) ∧ t.mem = s.mem ∧
      ∀ e, e < 2 → (t.port e).event = (s.port e).event ||| 1)) ∧
  (∀ s k c, s.hasChannel k c = true → let p := s.phy k c
    let n := p.owed + if s.gtime % 2 ^ 20 = 0 then 1 else 0
    (k < 8 → p.online = false → exec (.patrolScrub k c) s = .next (s.setPhy k c { p with owed := n })) ∧
    (8 ≤ k ∨ p.online = true → exec (.patrolScrub k c) s =
      .next ((State.scrubSectors k c n p.scrub s).setPhy k c { p with scrub := (p.scrub + n) % 2 ^ 22, owed := 0 }))) ∧
  (∀ s b, exec (.elogClr b) s = .next (s.setElog b { s.elog b with ents := [], ovf := false })) ∧
  (∀ s k c v, k < 8 → c < 64 → let p := s.phy k c
    (exec (.hphyChctlWrite k c v) s = .next (s.setPhy k c { p with online := nbit v 0 })) ∧
    (p.online = true ∨ lrepOk v = false → exec (.hphyLrepWrite k c v) s = .next s) ∧
    (p.online = false → lrepOk v = true → exec (.hphyLrepWrite k c v) s = .next (s.setPhy k c { p with lrep := v &&& 0xBFBF })) ∧
    (nbit v 0 = false ∨ p.online = true ∨ p.running = true →
      exec (.hphyPatGo k c v) s = .next (s.setPhy k c { p with pat := v &&& patMask })) ∧
    (nbit v 0 = true → p.online = false → p.running = false →
      (4 ≤ patPat v ∨ patDir v = 3 → exec (.hphyPatGo k c v) s =
        .next (s.setPhy k c { p with pat := v &&& patMask, done := true, perr := BitVec.ofNat 64 (2 ^ 63) })) ∧
      (patPat v < 4 → patDir v ≠ 3 →
        let s1 := s.setPhy k c { p with pat := v &&& patMask, done := false, perr := 0, running := true, bursts := patBursts v }
        (patDir v < 2 → exec (.hphyPatGo k c v) s = .next s1) ∧
        (patDir v = 2 → exec (.hphyPatGo k c v) s = .next (s1.loopRun k c (patPc v)))))) ∧
  (∀ s k c lanes nbad, k < 8 → c < 64 → let p := s.phy k c
    let l := lanes &&& laneMask p.lrep
    p.running = true → ∃ n, (l = 0 → n = 0) ∧ (l ≠ 0 → 1 ≤ n) ∧ n ≤ 65535 ∧ exec (.hphyPatDone k c lanes nbad) s =
      .next (s.setPhy k c { p with running := false, done := true, perr := BitVec.ofNat 64 (n * 2 ^ 34 + l) }))

/-- Requests of the host and of peers, the HL registers, and failed links (R72, R424, R425, R426, R429). -/
def Obligations.HostEventsHappen : Prop :=
  (∀ s e (r : BusReq), e < 2 → (s.port e).held = [] → s.portOpen e r = true → r.stream = 0 → r.kind ≠ 2 → r.kind ≠ 3 →
    s.outer.bootfail = false →
    (s.freezesHost e r = true → exec (.hostRequest e r) s = .next (s.freezeHost e r)) ∧
    (s.freezesHost e r = false → r.kind = 1 → s.busReady r = true → r.data.length = r.size → exec (.hostRequest e r) s =
      .next (s.homeWrite { c := none, vt := 0, code := 0 } (.phys r.addr) r.data 0)) ∧
    (∀ s1 bs, s.freezesHost e r = false → r.kind = 0 → s.busReady r = true → s.busRead r.addr r.size = (s1, some bs) →
      exec (.hostRequest e r) s = .next (s1.portOut e 0 bs)) ∧
    (s.freezesHost e r = false → r.kind ≤ 1 ∨ atomicOk r = true → s.busReady r = false → exec (.hostRequest e r) s =
      .next (s.setPort e { s.port e with held := [r] }))) ∧
  (∀ s e (r : BusReq), e < 2 → (s.port e).held ≠ [] → (s.port e).frozen = true →
    exec (.hostRequest e r) s = .next (s.setPort e { s.port e with held := (s.port e).held ++ [r] })) ∧
  (∀ s e v, e < 2 → v < 2 ^ 64 → (s.port e).held = [] → (s.port e).frozen = false →
    exec (.hlDoorbell e v) s = .next (s.doorbell (v % 4096)) ∧
    exec (.hlEventClear e v) s = .next (s.setPort e { s.port e with event := (s.port e).event - ((s.port e).event &&& v) })) ∧
  (∀ s p (r : BusReq), mhas s.outer.peerPort p = false ∨ s.outer.linkDown.contains (mget 0 s.outer.peerPort p) = true ∨
    s.outer.retain.on = true → exec (.peerRequest p r) s = .next s) ∧
  (∀ s p (r : BusReq), mhas s.outer.peerPort p = true → s.outer.linkDown.contains (mget 0 s.outer.peerPort p) = false →
    s.outer.retain.on = false →
    (∀ q ∈ sectorPieces (r.size / 256 + 2) r.addr r.size, q.1 + q.2 ≤ 2 ^ 51 ∧
      (∃ x, s.backing q.1 = .hbm x ∨ ∃ y, s.backing q.1 = .lpddr x y)) → s.busReady r = true →
    (r.kind = 1 → r.data.length = r.size → exec (.peerRequest p r) s =
      .next (s.homeWrite { c := none, vt := 0, code := 0 } (.phys r.addr) r.data 0)) ∧
    (∀ s1 bs, r.kind = 0 → s.busRead r.addr r.size = (s1, some bs) → exec (.peerRequest p r) s = .next (s1.peerAnswer 0 bs))) ∧
  (∀ s n, n < 8 → s.outer.linkDown.contains n = false → exec (.linkdown n) s =
    .next (((((({ s with outer := { s.outer with linkDown := n :: s.outer.linkDown } } : State).hlEvent 0 4).hlEvent 1 4).post 9 0 0
      n).freezeStuck))) ∧
  (∀ s n, n < 8 → s.outer.dieDown.contains n = false → exec (.ucieLinkDown n) s =
    .next ((({ s with outer := { s.outer with dieDown := n :: s.outer.dieDown } } : State).post Config.linkCode 0 0 n).freezeStuck))

/-- What the device does with a message of trust that it serves. GET_VERSION answers SPDM 1.2 and GET_MEASUREMENTS a block's digest also
after BOOTFAIL (R430, R432). GET_CERTIFICATE answers the chain; NEGOTIATE_ALGORITHMS answers ERROR where no algorithm is common; then
KEY_EXCHANGE opens a session (R432). In a session IDE_KEY_PROGRAMMING keys one of the five streams (R427), LOCK_INTERFACE fixes the bindings
and extends block 5, START_INTERFACE_REQUEST moves a locked TDI to RUN, STOP_INTERFACE_REQUEST takes it to CONFIG_UNLOCKED, and KEY_INSTALL
of a locked or running TDI makes a key slot of the owner's cluster valid with LASTSEAL = LASTOPEN = 0 (R280, R428, R453). That an exchange
is one event, the numbers by which the model names an answer, the order of the streams, and what STOP leaves are the model's (log entries 37
and 38); digests, certificates and exchange values are open constants (log entry 18). -/
def Obligations.TrustEventsHappen : Prop := ∀ (s : State) (e : Nat),
  let p := s.port e
  (exec (.getVersion e) s = .next (s.portOut e 2 [0x12])) ∧
  (∀ i, 1 ≤ i → i ≤ 5 → exec (.getMeasurements e i) s = .next (s.portOut e 3 (s.digest e i))) ∧
  (s.outer.bootfail = false →
    exec (.getCertificate e) s = .next (s.portOut e 5 ((List.range Config.certSize).map Config.certByte)) ∧
    exec (.negotiateAlgorithms e 0) s = .next ((s.setPort e { p with negotiated := false }).portOut e 7 []) ∧
    (∀ n, n ≠ 0 → exec (.negotiateAlgorithms e n) s = .next ((s.setPort e { p with negotiated := true }).portOut e 4 [])) ∧
    (p.negotiated = true → ∃ bs, bs.length = 96 ∧ exec (.keyExchange e) s =
      .next (({ s.setPort e { p with session := true } with fresh := s.fresh + 1 } : State).portOut e 6 bs))) ∧
  (s.outer.bootfail = false → p.session = true →
    (∀ n, 1 ≤ n → n ≤ 5 → exec (.ideKeyProgramming e n) s =
      .next ((s.setPort e { p with ide := mset p.ide n true }).portOut e 8 [])) ∧
    (p.tdi = .unlocked → exec (.lockInterface e) s = .next ((s.setPort e { p with
      tdi := .locked, bndQt := s.sched.qtbase,
      bnd := (slotNos.filter fun n => (s.slot n).map).map fun n => (n, (s.slot n).qnum, (s.queue (s.slot n).qnum).asid),
      bound := (p.ide.filter fun (x : Nat × Bool) => x.2).map (·.1), locks := p.locks + 1 }).portOut e 8 [])) ∧
    (p.tdi = .locked → exec (.startInterfaceRequest e) s = .next ((s.setPort e { p with tdi := .run }).portOut e 8 [])) ∧
    (exec (.stopInterfaceRequest e) s = .next ((s.setPort e { p with tdi := .unlocked, bnd := [], bound := [] }).portOut e 8 [])) ∧
    (∀ pcl slot owner sid key l, p.tdi = .locked ∨ p.tdi = .run → slot < 16 → (s.clu pcl).launch = some l → (s.launch l).active = true →
      (∃ b ∈ p.bnd, b.2.2 = (s.launch l).asid) → (s.clu pcl).vcl = owner / 64 → owner % 4 < (s.launch l).ectx →
      owner < 2 ^ 18 → sid < 2 ^ 32 → key < 2 ^ 256 →
      exec (.keyInstall e pcl slot owner sid key) s = .next ((s.setClu pcl { s.clu pcl with
        keys := mset (s.clu pcl).keys slot
          { valid := true, owner := owner, sid := sid, lastSeal := 0, lastOpen := 0, key := key, tdi := some e } }).portOut e 8 [])))

/-- What the meters, the governor, retention, power and boot do when their events come. Each cluster's meter adds its increment, an open
value (R433, log entry 18). The governor adds RATE up to CMAX (R433). Where no launch is placed and no commit, pre-emption or restore is
under way, a request for RETAIN and the power warning lead into it at once: no L1 copy is left, GTIME stands at G_x, RETAINED is set at both
ports, memory and L2 keep what they hold (R435). A request in RETAIN has no effect. Resumption waits while the warning lasts; it sets GTIME
to G_x + 65,536 (n + 1), makes every promise void, replenishes the slots and posts BROWNOUT (R437); where the warning ends outside RETAIN
only the input changes. A cut of power in RETAIN, and a reset, leave the state of reset; a reset whose fourth step does not come sets
BOOTFAIL, else the configuration image decides, and the stewards run (R430). The counter of open values is the model's own (log entry 2). -/
def Obligations.EnergyEventsHappen : Prop := ∀ s : State,
  (∃ t, exec .meterUpdate s = .next t ∧ (∀ p, p < 4096 → (t.clu p).meter = ((s.clu p).meter + Config.energyOf p s.fresh) % 2 ^ 64) ∧
    t.mem = s.mem ∧ t.thr = s.thr ∧ t.gtime = s.gtime) ∧
  (s.egov.auto = true → s.sched.credit < s.egov.cmax → exec .creditReplenish s =
    .next { s with sched := { s.sched with credit := min s.egov.cmax (s.sched.credit + s.egov.rate) } }) ∧
  (s.egov.auto = false ∨ s.egov.cmax ≤ s.sched.credit → exec .creditReplenish s = .next s) ∧
  (s.outer.retain.on = false → s.dram.amap.busy = false → nbit s.kstat 0 = false → s.rest = none → (∀ p ∈ s.clus, p.2.launch = none) →
    ∀ i, i = Instr.retainEnter ∨ i = .powerWarning → ∃ t, exec i s = .next t ∧ t.outer.retain.on = true ∧
      t.outer.retain.entering = false ∧ t.outer.retain.gx = s.gtime ∧ t.outer.retain.ticks = 0 ∧ t.mem = s.mem ∧ t.l2 = s.l2 ∧
      (∀ p ∈ t.clus, p.2.l1 = []) ∧ (∀ e, e < 2 → (t.port e).event = (s.port e).event ||| 2) ∧
      (i = .powerWarning → t.outer.retain.warning = true)) ∧
  (s.outer.retain.on = true → s.outer.retain.entering = false → exec .retainEnter s = .next s ∧
    exec .powerWarning s = .next { s with outer := { s.outer with retain := { s.outer.retain with warning := true } } }) ∧
  (s.outer.retain.on = true → s.outer.retain.resuming = false → s.outer.retain.warning = true → exec .retainResume s = .next s) ∧
  (s.outer.retain.on = true → s.outer.retain.resuming = false → ∀ i, (i = Instr.retainResume ∧ s.outer.retain.warning = false) ∨
    i = .powerWarningClear → ∃ s1, exec i s = .next ((slotNos.foldl (fun (a : State) k => a.replenish k) s1).post 8 0 0
        ((slotNos.map s1.passed).foldl (· + ·) 0)) ∧
      s1.gtime = (s.outer.retain.gx + 65536 * (s.outer.retain.ticks + 1)) % 2 ^ 64 ∧ s1.outer.retain.resuming = true ∧
      s1.outer.retain.warning = false ∧
      ∀ x ∈ s1.saved, (∀ p ∈ x.2.thr, p.2.promise = []) ∧ ∀ k ∈ x.2.clu.cmds, k.voided = true) ∧
  (s.outer.retain.on = false → exec .powerWarningClear s =
    .next { s with outer := { s.outer with retain := { s.outer.retain with warning := false } } }) ∧
  (s.outer.retain.on = true → exec .powerLoss s = .next { State.reset with form := s.form, fresh := s.fresh + 1 }) ∧
  (∀ n, n < 4 ∨ imgOk = false → ∃ t, exec (.reset n) s = .next t ∧ t.outer.bootfail = true ∧ t.mem = [] ∧ t.thr = [] ∧ t.gtime = 0 ∧
    ∀ e, e < 2 → (t.port e).event = 8) ∧
  (∀ n, 4 ≤ n → imgOk = true → ∃ t, exec (.reset n) s = .next t ∧ t.outer.booted = true ∧ t.outer.bootfail = false ∧ t.gtime = 0 ∧
    ∀ c, c < 8 → t.thread (2 ^ 19 + c) = stewardThread (2 ^ 19 + c))

/-- A steward's register write (R423): one that is not aligned to its size has no effect; a whole aligned one gives the register its
value; what a write of each block does is the block's own rule. -/
def Obligations.RegisterWriteHappens : Prop := ∀ (s : State) (pa size v : Nat) (b : Block) (o : Nat), blockOf pa = some (b, o) →
  (o % size ≠ 0 ∨ (size ≠ 1 ∧ size ≠ 2 ∧ size ≠ 4 ∧ size ≠ 8) → exec (.registerWrite pa size v) s = .next s) ∧
  (size = 8 → o % 8 = 0 → v < 2 ^ 64 → s.regAt b o < 2 ^ 64 → exec (.registerWrite pa size v) s = .next (s.regWrite b o v v)) ∧
  (∀ e, b = .qsch e → o = 0x20 → size = 8 → v < 2 ^ 64 → s.regAt b o < 2 ^ 64 →
    exec (.registerWrite pa size v) s = .next { s with sched := { s.sched with credit := v } }) ∧
  (b = .egov → o = 8 → size = 8 → v < 2 ^ 64 → s.regAt b o < 2 ^ 64 →
    exec (.registerWrite pa size v) s = .next { s with egov := { s.egov with rate := v } }) ∧
  (∀ k, b = .elog k → o = 0x808 → size = 8 → v % 2 = 1 → v < 2 ^ 64 → s.regAt b o < 2 ^ 64 →
    exec (.registerWrite pa size v) s = exec (.elogClr k) s)

/-! ## The machine and its encodings -/

/-- Decoding the encoding of a well-formed instruction, with anything after it, gives the instruction and its length: no bit of an
encoding is dropped (R79 to R90). -/
def Obligations.EncodingRoundTrip : Prop := ∀ (i : Instr) (tail : List Half), (rowOf i).isSome = true → i.wf = true →
  decodeChain (encode i ++ tail) = .ok i (encode i).length

/-- Words written out from the encodings of the spec decode to the instructions they stand for, and the chains of the spec's table of
traps to their subcode, word and position (R79 to R90, R127, R128, R137 to R139, R143, R189, R193, R222, R288 to R290). -/
def Obligations.SpecWordsDecode : Prop :=
  decodeChain [0xF500, 0xF3FE, 0xF36C, 0x2420] = .ok (.li { a := 20, k := 2, imm := 0xFFB6C20 }) 4 ∧
  decodeChain [0xF442, 0x0031, 0x5034] = .ok (.add { g := 2, a := 3, b := 17 }) 2 ∧
  decodeChain [0x5034, 0xD201] = .ok (.eq { a := 3, b := 4 }) 1 ∧
  decodeChain [0xD201] = .ok (.brn { a := 1, imm := 1 }) 1 ∧
  decodeChain [0xB802] = .ok (.call { a := 8, imm := 2 }) 1 ∧
  decodeChain [0xE000] = .ok (.nop {}) 1 ∧
  decodeChain [0xE300] = .ok (.ret {}) 1 ∧
  decodeChain [0xF800, 0x0031] = .ok (.add { a := 3, b := 1 }) 2 ∧
  decodeChain [0xF848, 0x4312] = .ok (.vsel { d := 3, a := 1, b := 2, ext := 8 }) 2 ∧
  decodeChain [0xF8B0, 0x0312] = .ok (.ldr { d := 3, a := 1, b := 2, ext := 0x30 }) 2 ∧
  decodeChain [0xF880, 0x8400] = .ok (.fenceSystem {}) 2 ∧
  decodeChain [0xF8C0, 0x1150] = .ok (.qprod { a := 5 }) 2 ∧
  decodeChain [0xF900, 0x1201] = .ok (.sisect { d := 2, a := 0, b := 1 }) 2 ∧
  decodeChain [0xF940, 0x0110] = .ok (.mleave { a := 1 }) 2 ∧
  decodeChain [0xF980, 0x0140] = .ok (.recv { a := 4 }) 2 ∧
  decodeChain [0xF9C0, 0x0100] = .ok (.eret {}) 2 ∧
  decodeChain [0xF801, 0x0031] = .bad 3 0xF801 0 ∧
  decodeChain [0xFA00, 0x0031] = .bad 4 0xFA00 0 ∧
  decodeChain [0xF442, 0xF500, 0x0031] = .bad 2 0xF500 1 ∧
  decodeChain [0xF000, 0xF000, 0xF000, 0xF000, 0xF000, 0x2420] = .bad 1 0xF000 4 ∧
  decodeChain [0xF001, 0x0031] = .bad 8 0xF001 0 ∧
  decodeChain [0xF401, 0xC200] = .bad 8 0xF401 0 ∧
  decodeChain [0xD003] = .bad 6 0xD003 0 ∧
  decodeChain [0xE00F] = .bad 6 0xE00F 0 ∧
  decodeChain [0xF402, 0xF000] = .bad 7 0xF000 1

/-- A step runs the decoded instruction: where the next turn lets a context issue, the halfwords at its PC are fetched, and they decode to
an instruction whose operands are ready, the step is the instruction's meaning in the state that the fetch left, with the core's pointer
moved on where it issued; a chain that fails a check traps with its subcode, word and position, and a fetch that fails traps with the
access's own cause. Where the context may not issue, or an operand is not ready, the turn changes nothing (R15, R77, R88, R123). The turn
of a cycle in which a context is chosen is this same turn, but for a request that its unit takes in an order of its own: that one is put
among the requests of the cycle, and is this same turn when its place comes (R28, R291, R381). -/
def Obligations.StepRunsTheDecoded : Prop :=
  (∀ (s : State) (c : Nat) (rest : List Turn), s.agenda = .choose c :: rest →
    let s1 := { s with agenda := rest }
    (s1.asyncNow c = true ∨ s1.mayIssue c = false ∨ s1.lateKey c = none → step s = step { s with agenda := .issue c :: rest }) ∧
    (∀ key, s1.asyncNow c = false → s1.mayIssue c = true → s1.lateKey c = some key →
      step s = .next { s with agenda := deferTurn key c rest })) ∧
  (∀ (s : State) (key c : Nat) (cs : List Nat) (q : List (Nat × List Nat)) (rest : List Turn),
    s.agenda = .lates ((key, c :: cs) :: q) :: rest →
    step s = step { s with agenda := .issue c :: (cs.map .choose ++ .lates q :: rest) }) ∧
  ∀ (s : State) (c : Nat) (rest : List Turn), s.agenda = .issue c :: rest →
  let s1 := { s with agenda := rest }
  let pc := (s.thread c).pc
  s1.asyncNow c = false →
  (s1.mayIssue c = false → step s = .next s1) ∧
  (∀ ws i len, s1.mayIssue c = true → s1.fetchWords c pc = .ok ws → decodeChain ws = .ok i len →
    (s1.operandsReady c i = false → step s = .next s1) ∧
    (∀ t, s1.operandsReady c i = true → exec i (s1.fetched c pc (ws.take len)) = .next t →
      step s = .next (if t.waited then t else t.noteIssue c))) ∧
  (s1.mayIssue c = true →
    let u := s1.fetched c pc []
    (∀ ws sub w p, s1.fetchWords c pc = .ok ws → decodeChain ws = .bad sub w p →
      let t := u.stopped (illop sub w p 0) u
      step s = .next (if t.waited then t else t.noteIssue c)) ∧
    (∀ e, s1.fetchWords c pc = .error e → step s = .next (u.stopped (e.stop 2 pc) u)))

/-- No step faults and none refuses: whatever the state, the machine goes on. -/
def Obligations.EveryStepGoesOn : Prop := ∀ s : State, StepsOn s

/-- Every step keeps the canonical form of memory: addresses strictly rising, and none listed that reads as an unlisted one. -/
def Obligations.MemoryStaysCanonical : Prop := ∀ s t : State, Safe s → step s = .next t → Safe t

/-- What reset leaves, where the spec states it: no launch, no thread, the registers of the blocks at their reset values, the predicates
and window of a context, memory in canonical form (R53, R59, R60, R63, R70, R109 to R118, R246, R247, R251, R257, R258, R260, R400, R424,
R430, R433). -/
def Obligations.ResetValues : Prop :=
  let s := State.reset
  Safe s ∧ s.launches = [] ∧ (∀ c, (s.thread c).st = .empty) ∧
  s.regAt (.qsch 0) 0 = 0 ∧ s.regAt (.qsch 1) 0 = 4 ∧ s.regAt (.qsch 0) 8 = 0 ∧ s.regAt (.qsch 0) 0x18 = 0 ∧
  s.regAt (.qsch 0) 0x20 = 0 ∧ s.regAt (.qsch 0) 0x28 = 0 ∧ s.regAt (.qsch 0) 0x30 = 0 ∧ s.regAt (.qsch 0) 0x38 = 0 ∧
  s.regAt (.qsch 0) 0x40 = 0x1C9C380 ∧ (∀ o, 0x100 ≤ o → o < 0x1100 → o % 8 = 0 → s.regAt (.qsch 0) o = 0) ∧
  s.regAt .amap 0 = 0 ∧ s.regAt .amap 8 = 2 ^ 63 + 39 ∧ (∀ n, 1 ≤ n → n < 8 → s.regAt .amap (8 + 8 * n) = 0) ∧
  (∀ i, i < 34 → s.regAt .amap (0x200 + 8 * i) = 2 ^ i ∧ s.regAt .amap (0x2200 + 8 * i) = 2 ^ i) ∧
  (∀ e o, o < 0x40 → o % 8 = 0 → s.regAt (.pmig e) o = 0) ∧
  s.regAt .kctl 0 = 0 ∧ s.regAt .kctl 0x18 = 0 ∧ (∀ o, 0x100 ≤ o → o < 0x2100 → o % 8 = 0 → s.regAt .kctl o = 0) ∧
  s.regAt .egov 0 = 0 ∧ s.regAt .egov 8 = 0 ∧ s.regAt .egov 0x10 = 0 ∧ s.regAt .egov 0x18 = 0 ∧ s.regAt .egov 0x20 = 0 ∧
  (∀ k, s.regAt (.elog k) 0x800 = 0 ∧ s.regAt (.elog k) 0x810 = 1) ∧
  (∀ k, s.regAt (.rmap k) 8 = 0 ∧ s.regAt (.rmap k) 0x10 = 16) ∧
  (∀ k c l, c < 64 → l < 34 → s.regAt (.hphy k) (0x400 * c + 8 * l) = 0x20 ∧ s.regAt (.hphy k) (0x400 * c + 0x110 + 8 * l) = 0x20) ∧
  (∀ k c, c < 64 → s.regAt (.hphy k) (0x400 * c + 0x230) = 0 ∧ s.regAt (.hphy k) (0x400 * c + 0x238) = 0 ∧
    s.regAt (.hphy k) (0x400 * c + 0x240) = 0 ∧ s.regAt (.hphy k) (0x400 * c + 0x248) = 0) ∧
  (∀ e, e < 2 → s.regAt (.hl e) 8 = 0 ∧ s.regAt (.hl e) 0x10 = 512 ∧ s.regAt (.hl e) 0x20 = 0) ∧
  (∀ c, (s.thread c).pw = 1 ∧ (s.thread c).win.fb = 0 ∧ (s.thread c).win.n = 8 ∧ (s.thread c).wstat = 8 ∧
    (s.thread c).sys.rh = 0 ∧ (s.thread c).sys.vt = 0 ∧ (s.thread c).sys.tcause = 0 ∧ (s.thread c).sys.tvec = 0 ∧
    (s.thread c).sys.fpcsr = 0 ∧ (s.thread c).sys.tamask = 0 ∧ (s.thread c).sys.kcause = 0 ∧ (s.thread c).sys.kstat = 0)

/-- A false guard: the instruction only moves the PC on, whatever it is (R85). The checks of the mode come first: in the wrong mode a
privileged instruction takes the trap PRIV with its guard unread (R88, R417). -/
def Obligations.FalseGuardSkips : Prop := ∀ s : State, (s.speculative s.cur = true → s.t.spec.spen = true) →
  (∀ i r f, rowOf i = some (r, f) → r.page ≠ 7 → s.P f.g.toNat = false → s.t.hold = none → s.t.vec.bodyLeft = 0 →
    exec i s = .next (s.setT s.t).advance) ∧
  (∀ i m f, (i, m) ∈ [(Instr.tlbinv f, 1), (.tlbinva f, 1), (.ctxsave f, 2), (.ctxrest f, 2), (.thaw f, 3), (.kill f, 3)] →
    ({ mode := m } : Kind).allowed s.t = false → s.speculative s.cur = false → s.t.completeAt ≤ s.gtime →
    exec i s = .next (s.takeTrap s.cur cPRIV (causeWord cPRIV 0 0 0) s.t.pc 0 none))

/-- p0 reads 1, and a write to p0 is discarded; p1 to p7 are single bits: a write of one is what it reads next, and no other predicate
changes; a callee reads and writes the same ones as its caller. Bit i of PW is p(i); bit 0 always reads 1 and a write of it is ignored,
and at reset the others are 0 (R111). -/
def Obligations.PredicatesHold : Prop := ∀ (s : State) (p q : Nat) (v : Bool),
  s.P 0 = true ∧ s.setP 0 v = s.setT s.t ∧
  (0 < p → p < 8 → (s.setP p v).P p = v ∧ (s.setP p v).t.pw.getLsbD p = v ∧ (q ≠ p → (s.setP p v).P q = s.P q)) ∧
  (0 < p → p < 8 → s.P p = s.t.pw.getLsbD p) ∧ (s.sysReg 4 = some ((s.t.pw ||| 1).setWidth 64)) ∧
  (∀ k, (s.called k).P q = s.P q) ∧ (∀ u us, (s.returned u us).P q = s.P q) ∧
  (∀ w, (s.setT (s.t.setSysReg 4 w)).sysReg 4 = some ((w &&& 0xFF) ||| 1) ∧
    (0 < p → p < 8 → (s.setT (s.t.setSysReg 4 w)).P p = w.getLsbD p)) ∧
  (∀ c, (State.reset.thread c).p 0 = true ∧ (0 < p → (State.reset.thread c).p p = false))

/-- The frame of the scalar instructions that write W[a], one predicate, or nothing: outside a hold, with the registers they name within
the frame, every other window register, every predicate they do not name, the queue and vector registers, the special registers, the
link stack, every other context and all of memory keep their values, and the PC moves past the chain. -/
def Obligations.ScalarFrame : Prop := ∀ (s t : State) (f : Fld) (i : Instr),
  s.t.hold = none → s.speculative s.cur = false → s.t.win.n ≤ 64 → f.a.toNat < s.t.win.n → f.b.toNat < s.t.win.n →
  exec i s = .next t →
  (i ∈ [Instr.add f, .sub f, .and f, .or f, .xor f, .shl f, .shr f, .sra f, .mul f, .mulh f, .mulhu f, .div f, .divu f, .rem f, .remu f,
      .min f, .max f, .minu f, .maxu f, .mov f, .clz f, .ctz f, .popc f, .brev f, .sextb f, .sexth f, .sextw f, .zextb f, .zexth f,
      .zextw f, .abs f, .neg f, .addi f, .li f, .shli f, .shri f, .srai f, .andi f, .ori f, .xori f, .muli f, .prdw f, .cmov f, .lpc f,
      .gtime f, .tid f] →
    (∀ n, n < s.t.win.n → n ≠ f.a.toNat → t.t.w n = s.t.w n) ∧ t.t.pw = s.t.pw ∧ t.t.win.n = s.t.win.n ∧ t.t.win.fb = s.t.win.fb ∧
    t.t.win.units = s.t.win.units ∧ t.t.vec = s.t.vec ∧ t.t.q = s.t.q ∧ t.t.sys = s.t.sys ∧ t.t.pc = s.ir.next ∧ t.mem = s.mem ∧
    ∀ c, c ≠ s.cur → t.thread c = s.thread c) ∧
  (i ∈ [Instr.eq f, .ne f, .lt f, .ge f, .ltu f, .geu f, .tst f, .tstn f, .eqi f, .nei f, .lti f, .gei f, .ltui f, .geui f] →
    t.t.win = s.t.win ∧ (∀ p, p < 8 → p ≠ destP f.x → t.P p = s.P p) ∧ t.t.vec = s.t.vec ∧ t.t.q = s.t.q ∧ t.t.sys = s.t.sys ∧
    t.t.pc = s.ir.next ∧ t.mem = s.mem ∧ ∀ c, c ≠ s.cur → t.thread c = s.thread c)
end

