-- ==== Sys2Proof/Laws/Maps.lean ====
section
/-! SUPPORT. Laws of the finite maps and of memory's list of cells: read after write, what a write leaves alone, and the canonical
form, which every write keeps. -/

namespace Sys2Proof.Machine

/-! ## Maps -/

@[simp] theorem mget_mset_same {α : Type} (d v : α) (m : SMap α) (k : Nat) : mget d (mset m k v) k = v := by
  induction m with
  | nil => simp [mset, mget]
  | cons p m ih =>
    obtain ⟨j, w⟩ := p
    simp only [mset]
    split
    · simp_all [mget]
    · split <;> simp [mget]

theorem mget_mset_other {α : Type} (d v : α) (m : SMap α) {k k' : Nat} (h : k' ≠ k) : mget d (mset m k v) k' = mget d m k' := by
  induction m with
  | nil =>
    simp only [mset, mget]
    split
    · rfl
    · simp [Ne.symm h]
  | cons p m ih =>
    obtain ⟨j, w⟩ := p
    simp only [mset]
    split
    · simp only [mget, ih]
    · split
      · subst_vars
        simp only [mget]
        split
        · rfl
        · simp [Ne.symm h]
      · simp only [mget]
        split
        · rfl
        · have hk : ¬ k = k' := Ne.symm h
          have : ¬ j < k' := by omega
          have h2 : ¬ j = k' := by omega
          simp [hk, this, h2]

theorem mget_mset {α : Type} (d v : α) (m : SMap α) (k k' : Nat) :
    mget d (mset m k v) k' = if k' = k then v else mget d m k' := by
  split
  · subst_vars; simp
  · exact mget_mset_other d v m ‹_›

/-! ## Cells -/

theorem memGet_memDel_same (m : List (Nat × Byte)) (k : Nat) : memGet (memDel m k) k = 0 := by
  induction m with
  | nil => rfl
  | cons p m ih =>
    obtain ⟨j, w⟩ := p
    simp only [memDel, List.filter_cons] at ih ⊢
    by_cases h : j = k
    · subst h; simpa using ih
    · simp only [bne_iff_ne, ne_eq, h, not_false_eq_true, ↓reduceIte, memGet]
      exact ih

theorem memGet_memDel_other (m : List (Nat × Byte)) {k k' : Nat} (h : k' ≠ k) : memGet (memDel m k) k' = memGet m k' := by
  induction m with
  | nil => rfl
  | cons p m ih =>
    obtain ⟨j, w⟩ := p
    simp only [memDel, List.filter_cons] at ih ⊢
    by_cases hj : j = k
    · subst hj; simp only [bne_self_eq_false, Bool.false_eq_true, ↓reduceIte, memGet, Ne.symm h]; exact ih
    · simp only [bne_iff_ne, ne_eq, hj, not_false_eq_true, ↓reduceIte, memGet]
      split
      · rfl
      · exact ih

theorem memGet_memPut_same (m : List (Nat × Byte)) (k : Nat) (v : Byte) (h : ∀ p ∈ m, p.1 ≠ k) : memGet (memPut m k v) k = v := by
  induction m with
  | nil => simp [memPut, memGet]
  | cons p m ih =>
    obtain ⟨j, w⟩ := p
    have hj : j ≠ k := h (j, w) (by simp)
    simp only [memPut]
    split
    · simp only [memGet, hj, ↓reduceIte]
      exact ih fun q hq => h q (by simp [hq])
    · simp [memGet]

theorem memGet_memPut_other (m : List (Nat × Byte)) {k k' : Nat} (v : Byte) (h : k' ≠ k) :
    memGet (memPut m k v) k' = memGet m k' := by
  induction m with
  | nil => simp [memPut, memGet, Ne.symm h]
  | cons p m ih =>
    obtain ⟨j, w⟩ := p
    simp only [memPut]
    split
    · simp only [memGet, ih]
    · simp [memGet, Ne.symm h]

@[simp] theorem memGet_memSet_same (m : List (Nat × Byte)) (k : Nat) (v : Byte) : memGet (memSet m k v) k = v := by
  unfold memSet
  split
  · subst_vars; exact memGet_memDel_same m k
  · exact memGet_memPut_same _ k v (by simp [memDel])

theorem memGet_memSet_other (m : List (Nat × Byte)) {k k' : Nat} (v : Byte) (h : k' ≠ k) :
    memGet (memSet m k v) k' = memGet m k' := by
  unfold memSet
  split
  · exact memGet_memDel_other m h
  · rw [memGet_memPut_other _ v h, memGet_memDel_other m h]

theorem memGet_memWrite_other (ks : List Nat) : ∀ (m : List Host.Cell) (bs : List Byte) {k' : Nat}, k' ∉ ks →
    memGet (memWrite m ks bs) k' = memGet m k' := by
  induction ks with
  | nil => intro m bs k' _; cases bs <;> rfl
  | cons k ks ih =>
    intro m bs k' h
    cases bs with
    | nil => rfl
    | cons b bs =>
      simp only [List.mem_cons, not_or] at h
      rw [memWrite, ih _ _ h.2, memGet_memSet_other _ _ h.1]

/-! ## The canonical form -/

/-- The canonical form as a property of the list: keys strictly rising, no listed zero. -/
theorem Memory.wf_iff (m : List (Nat × Byte)) :
    Memory.wf m = true ↔ m.Pairwise (fun a b => a.1 < b.1) ∧ ∀ p ∈ m, p.2 ≠ 0 := by
  induction m with
  | nil => simp [Memory.wf]
  | cons p m ih =>
    obtain ⟨j, v⟩ := p
    cases m with
    | nil => simp [Memory.wf]
    | cons q m =>
      obtain ⟨k, w⟩ := q
      simp only [Memory.wf, Bool.and_eq_true, bne_iff_ne, ne_eq, decide_eq_true_eq, ih]
      constructor
      · rintro ⟨⟨hv, hk⟩, hp, hz⟩
        refine ⟨?_, ?_⟩
        · refine List.pairwise_cons.2 ⟨?_, hp⟩
          intro a ha
          rcases List.mem_cons.1 ha with rfl | ha
          · exact hk
          · exact Nat.lt_trans hk ((List.pairwise_cons.1 hp).1 a ha)
        · intro p hm
          rcases List.mem_cons.1 hm with rfl | hm
          · exact hv
          · exact hz p hm
      · rintro ⟨hp, hz⟩
        have h := List.pairwise_cons.1 hp
        exact ⟨⟨hz (j, v) (by simp), h.1 (k, w) (by simp)⟩, h.2, fun p hm => hz p (by simp [hm])⟩

theorem memDel_wf (m : List (Nat × Byte)) (k : Nat) (h : Memory.wf m = true) : Memory.wf (memDel m k) = true := by
  rw [Memory.wf_iff] at h ⊢
  exact ⟨h.1.filter _, fun p hp => h.2 p (List.mem_filter.1 hp).1⟩

theorem mem_memPut {m : List (Nat × Byte)} {k : Nat} {v : Byte} {p : Nat × Byte} (h : p ∈ memPut m k v) : p = (k, v) ∨ p ∈ m := by
  induction m with
  | nil => simpa [memPut] using h
  | cons q m ih =>
    obtain ⟨j, w⟩ := q
    simp only [memPut] at h
    split at h
    · rcases List.mem_cons.1 h with rfl | h
      · exact .inr (by simp)
      · rcases ih h with h | h
        · exact .inl h
        · exact .inr (by simp [h])
    · rcases List.mem_cons.1 h with rfl | h
      · exact .inl rfl
      · exact .inr h

theorem memPut_wf (m : List (Nat × Byte)) (k : Nat) (v : Byte) (hk : ∀ p ∈ m, p.1 ≠ k) (hv : v ≠ 0) (h : Memory.wf m = true) :
    Memory.wf (memPut m k v) = true := by
  rw [Memory.wf_iff] at h ⊢
  refine ⟨?_, fun p hp => ?_⟩
  · have h1 := h.1
    clear h
    induction m with
    | nil => simp [memPut]
    | cons q m ih =>
      obtain ⟨j, w⟩ := q
      have hp := List.pairwise_cons.1 h1
      simp only [memPut]
      split
      · refine List.pairwise_cons.2 ⟨fun a ha => ?_, ih (fun p hm => hk p (by simp [hm])) hp.2⟩
        rcases mem_memPut ha with rfl | ha
        · assumption
        · exact hp.1 a ha
      · have hj : j ≠ k := hk (j, w) (by simp)
        refine List.pairwise_cons.2 ⟨fun a ha => ?_, h1⟩
        rcases List.mem_cons.1 ha with rfl | ha
        · show k < j; omega
        · have := hp.1 a ha; show k < a.1; simp only at this; omega
  · rcases mem_memPut hp with rfl | hp
    · exact hv
    · exact h.2 p hp

/-- A byte's write keeps the canonical form. -/
theorem memSet_wf (m : List (Nat × Byte)) (k : Nat) (v : Byte) (h : Memory.wf m = true) : Memory.wf (memSet m k v) = true := by
  unfold memSet
  split
  · exact memDel_wf m k h
  · exact memPut_wf _ k v (by simp [memDel]) ‹_› (memDel_wf m k h)

/-- A run of bytes keeps the canonical form: every change of memory goes through this operation. -/
theorem memWrite_wf (ks : List Nat) : ∀ (m : List Host.Cell) (bs : List Byte), Memory.wf m = true → Memory.wf (memWrite m ks bs) = true := by
  induction ks with
  | nil => intro m bs h; cases bs <;> exact h
  | cons k ks ih =>
    intro m bs h
    cases bs with
    | nil => exact h
    | cons b bs => exact ih _ _ (memSet_wf m k b h)

theorem State.writeAt_wf (s : State) (l : Loc) (bs : List Byte) (h : Memory.wf s.mem = true) : Memory.wf (s.writeAt l bs).mem = true :=
  memWrite_wf _ _ _ h

theorem State.reset_mem_wf : Memory.wf State.reset.mem = true := rfl

end Sys2Proof.Machine
end

