-- ==== Sys2Proof/Laws/State.lean ====
section
/-! SUPPORT. What each update of the state leaves alone, one lemma for each field, and what it puts in place: the accessors after the
updates. -/

namespace Sys2Proof.Machine

/-! ## The machine's fields -/

@[simp] theorem State.setThread_gtime (s : State) (c : Nat) (x : Thread) : (s.setThread c x).gtime = s.gtime := rfl
@[simp] theorem State.setThread_form (s : State) (c : Nat) (x : Thread) : (s.setThread c x).form = s.form := rfl
@[simp] theorem State.setThread_mem (s : State) (c : Nat) (x : Thread) : (s.setThread c x).mem = s.mem := rfl
@[simp] theorem State.setThread_cores (s : State) (c : Nat) (x : Thread) : (s.setThread c x).cores = s.cores := rfl
@[simp] theorem State.setThread_clus (s : State) (c : Nat) (x : Thread) : (s.setThread c x).clus = s.clus := rfl
@[simp] theorem State.setThread_launches (s : State) (c : Nat) (x : Thread) : (s.setThread c x).launches = s.launches := rfl
@[simp] theorem State.setThread_objects (s : State) (c : Nat) (x : Thread) : (s.setThread c x).objects = s.objects := rfl
@[simp] theorem State.setThread_net (s : State) (c : Nat) (x : Thread) : (s.setThread c x).net = s.net := rfl
@[simp] theorem State.setThread_decs (s : State) (c : Nat) (x : Thread) : (s.setThread c x).decs = s.decs := rfl
@[simp] theorem State.setThread_tlb (s : State) (c : Nat) (x : Thread) : (s.setThread c x).tlb = s.tlb := rfl
@[simp] theorem State.setThread_walks (s : State) (c : Nat) (x : Thread) : (s.setThread c x).walks = s.walks := rfl
@[simp] theorem State.setThread_l2 (s : State) (c : Nat) (x : Thread) : (s.setThread c x).l2 = s.l2 := rfl
@[simp] theorem State.setThread_leases (s : State) (c : Nat) (x : Thread) : (s.setThread c x).leases = s.leases := rfl
@[simp] theorem State.setThread_marks (s : State) (c : Nat) (x : Thread) : (s.setThread c x).marks = s.marks := rfl
@[simp] theorem State.setThread_resv (s : State) (c : Nat) (x : Thread) : (s.setThread c x).resv = s.resv := rfl
@[simp] theorem State.setThread_rsvq (s : State) (c : Nat) (x : Thread) : (s.setThread c x).rsvq = s.rsvq := rfl
@[simp] theorem State.setThread_wts (s : State) (c : Nat) (x : Thread) : (s.setThread c x).wts = s.wts := rfl
@[simp] theorem State.setThread_leaseq (s : State) (c : Nat) (x : Thread) : (s.setThread c x).leaseq = s.leaseq := rfl
@[simp] theorem State.setThread_owned (s : State) (c : Nat) (x : Thread) : (s.setThread c x).owned = s.owned := rfl
@[simp] theorem State.setThread_arrs (s : State) (c : Nat) (x : Thread) : (s.setThread c x).arrs = s.arrs := rfl
@[simp] theorem State.setThread_saved (s : State) (c : Nat) (x : Thread) : (s.setThread c x).saved = s.saved := rfl
@[simp] theorem State.setThread_srec (s : State) (c : Nat) (x : Thread) : (s.setThread c x).srec = s.srec := rfl
@[simp] theorem State.setThread_srecWait (s : State) (c : Nat) (x : Thread) : (s.setThread c x).srecWait = s.srecWait := rfl
@[simp] theorem State.setThread_astab (s : State) (c : Nat) (x : Thread) : (s.setThread c x).astab = s.astab := rfl
@[simp] theorem State.setThread_kstat (s : State) (c : Nat) (x : Thread) : (s.setThread c x).kstat = s.kstat := rfl
@[simp] theorem State.setThread_rest (s : State) (c : Nat) (x : Thread) : (s.setThread c x).rest = s.rest := rfl
@[simp] theorem State.setThread_sched (s : State) (c : Nat) (x : Thread) : (s.setThread c x).sched = s.sched := rfl
@[simp] theorem State.setThread_dram (s : State) (c : Nat) (x : Thread) : (s.setThread c x).dram = s.dram := rfl
@[simp] theorem State.setThread_egov (s : State) (c : Nat) (x : Thread) : (s.setThread c x).egov = s.egov := rfl
@[simp] theorem State.setThread_outer (s : State) (c : Nat) (x : Thread) : (s.setThread c x).outer = s.outer := rfl
@[simp] theorem State.setThread_mapped (s : State) (c : Nat) (x : Thread) : (s.setThread c x).mapped = s.mapped := rfl
@[simp] theorem State.setThread_cur (s : State) (c : Nat) (x : Thread) : (s.setThread c x).cur = s.cur := rfl
@[simp] theorem State.setThread_ir (s : State) (c : Nat) (x : Thread) : (s.setThread c x).ir = s.ir := rfl
@[simp] theorem State.setThread_waited (s : State) (c : Nat) (x : Thread) : (s.setThread c x).waited = s.waited := rfl
@[simp] theorem State.setThread_agenda (s : State) (c : Nat) (x : Thread) : (s.setThread c x).agenda = s.agenda := rfl
@[simp] theorem State.setThread_fresh (s : State) (c : Nat) (x : Thread) : (s.setThread c x).fresh = s.fresh := rfl

@[simp] theorem State.setT_gtime (s : State) (x : Thread) : (s.setT x).gtime = s.gtime := rfl
@[simp] theorem State.setT_form (s : State) (x : Thread) : (s.setT x).form = s.form := rfl
@[simp] theorem State.setT_mem (s : State) (x : Thread) : (s.setT x).mem = s.mem := rfl
@[simp] theorem State.setT_cores (s : State) (x : Thread) : (s.setT x).cores = s.cores := rfl
@[simp] theorem State.setT_clus (s : State) (x : Thread) : (s.setT x).clus = s.clus := rfl
@[simp] theorem State.setT_launches (s : State) (x : Thread) : (s.setT x).launches = s.launches := rfl
@[simp] theorem State.setT_objects (s : State) (x : Thread) : (s.setT x).objects = s.objects := rfl
@[simp] theorem State.setT_net (s : State) (x : Thread) : (s.setT x).net = s.net := rfl
@[simp] theorem State.setT_decs (s : State) (x : Thread) : (s.setT x).decs = s.decs := rfl
@[simp] theorem State.setT_tlb (s : State) (x : Thread) : (s.setT x).tlb = s.tlb := rfl
@[simp] theorem State.setT_walks (s : State) (x : Thread) : (s.setT x).walks = s.walks := rfl
@[simp] theorem State.setT_l2 (s : State) (x : Thread) : (s.setT x).l2 = s.l2 := rfl
@[simp] theorem State.setT_leases (s : State) (x : Thread) : (s.setT x).leases = s.leases := rfl
@[simp] theorem State.setT_marks (s : State) (x : Thread) : (s.setT x).marks = s.marks := rfl
@[simp] theorem State.setT_resv (s : State) (x : Thread) : (s.setT x).resv = s.resv := rfl
@[simp] theorem State.setT_rsvq (s : State) (x : Thread) : (s.setT x).rsvq = s.rsvq := rfl
@[simp] theorem State.setT_wts (s : State) (x : Thread) : (s.setT x).wts = s.wts := rfl
@[simp] theorem State.setT_leaseq (s : State) (x : Thread) : (s.setT x).leaseq = s.leaseq := rfl
@[simp] theorem State.setT_owned (s : State) (x : Thread) : (s.setT x).owned = s.owned := rfl
@[simp] theorem State.setT_arrs (s : State) (x : Thread) : (s.setT x).arrs = s.arrs := rfl
@[simp] theorem State.setT_saved (s : State) (x : Thread) : (s.setT x).saved = s.saved := rfl
@[simp] theorem State.setT_srec (s : State) (x : Thread) : (s.setT x).srec = s.srec := rfl
@[simp] theorem State.setT_srecWait (s : State) (x : Thread) : (s.setT x).srecWait = s.srecWait := rfl
@[simp] theorem State.setT_astab (s : State) (x : Thread) : (s.setT x).astab = s.astab := rfl
@[simp] theorem State.setT_kstat (s : State) (x : Thread) : (s.setT x).kstat = s.kstat := rfl
@[simp] theorem State.setT_rest (s : State) (x : Thread) : (s.setT x).rest = s.rest := rfl
@[simp] theorem State.setT_sched (s : State) (x : Thread) : (s.setT x).sched = s.sched := rfl
@[simp] theorem State.setT_dram (s : State) (x : Thread) : (s.setT x).dram = s.dram := rfl
@[simp] theorem State.setT_egov (s : State) (x : Thread) : (s.setT x).egov = s.egov := rfl
@[simp] theorem State.setT_outer (s : State) (x : Thread) : (s.setT x).outer = s.outer := rfl
@[simp] theorem State.setT_mapped (s : State) (x : Thread) : (s.setT x).mapped = s.mapped := rfl
@[simp] theorem State.setT_cur (s : State) (x : Thread) : (s.setT x).cur = s.cur := rfl
@[simp] theorem State.setT_ir (s : State) (x : Thread) : (s.setT x).ir = s.ir := rfl
@[simp] theorem State.setT_waited (s : State) (x : Thread) : (s.setT x).waited = s.waited := rfl
@[simp] theorem State.setT_agenda (s : State) (x : Thread) : (s.setT x).agenda = s.agenda := rfl
@[simp] theorem State.setT_fresh (s : State) (x : Thread) : (s.setT x).fresh = s.fresh := rfl

@[simp] theorem State.setCore_gtime (s : State) (k : Nat) (x : Core) : (s.setCore k x).gtime = s.gtime := rfl
@[simp] theorem State.setCore_form (s : State) (k : Nat) (x : Core) : (s.setCore k x).form = s.form := rfl
@[simp] theorem State.setCore_mem (s : State) (k : Nat) (x : Core) : (s.setCore k x).mem = s.mem := rfl
@[simp] theorem State.setCore_thr (s : State) (k : Nat) (x : Core) : (s.setCore k x).thr = s.thr := rfl
@[simp] theorem State.setCore_clus (s : State) (k : Nat) (x : Core) : (s.setCore k x).clus = s.clus := rfl
@[simp] theorem State.setCore_launches (s : State) (k : Nat) (x : Core) : (s.setCore k x).launches = s.launches := rfl
@[simp] theorem State.setCore_objects (s : State) (k : Nat) (x : Core) : (s.setCore k x).objects = s.objects := rfl
@[simp] theorem State.setCore_net (s : State) (k : Nat) (x : Core) : (s.setCore k x).net = s.net := rfl
@[simp] theorem State.setCore_decs (s : State) (k : Nat) (x : Core) : (s.setCore k x).decs = s.decs := rfl
@[simp] theorem State.setCore_tlb (s : State) (k : Nat) (x : Core) : (s.setCore k x).tlb = s.tlb := rfl
@[simp] theorem State.setCore_walks (s : State) (k : Nat) (x : Core) : (s.setCore k x).walks = s.walks := rfl
@[simp] theorem State.setCore_l2 (s : State) (k : Nat) (x : Core) : (s.setCore k x).l2 = s.l2 := rfl
@[simp] theorem State.setCore_leases (s : State) (k : Nat) (x : Core) : (s.setCore k x).leases = s.leases := rfl
@[simp] theorem State.setCore_marks (s : State) (k : Nat) (x : Core) : (s.setCore k x).marks = s.marks := rfl
@[simp] theorem State.setCore_resv (s : State) (k : Nat) (x : Core) : (s.setCore k x).resv = s.resv := rfl
@[simp] theorem State.setCore_rsvq (s : State) (k : Nat) (x : Core) : (s.setCore k x).rsvq = s.rsvq := rfl
@[simp] theorem State.setCore_wts (s : State) (k : Nat) (x : Core) : (s.setCore k x).wts = s.wts := rfl
@[simp] theorem State.setCore_leaseq (s : State) (k : Nat) (x : Core) : (s.setCore k x).leaseq = s.leaseq := rfl
@[simp] theorem State.setCore_owned (s : State) (k : Nat) (x : Core) : (s.setCore k x).owned = s.owned := rfl
@[simp] theorem State.setCore_arrs (s : State) (k : Nat) (x : Core) : (s.setCore k x).arrs = s.arrs := rfl
@[simp] theorem State.setCore_saved (s : State) (k : Nat) (x : Core) : (s.setCore k x).saved = s.saved := rfl
@[simp] theorem State.setCore_srec (s : State) (k : Nat) (x : Core) : (s.setCore k x).srec = s.srec := rfl
@[simp] theorem State.setCore_srecWait (s : State) (k : Nat) (x : Core) : (s.setCore k x).srecWait = s.srecWait := rfl
@[simp] theorem State.setCore_astab (s : State) (k : Nat) (x : Core) : (s.setCore k x).astab = s.astab := rfl
@[simp] theorem State.setCore_kstat (s : State) (k : Nat) (x : Core) : (s.setCore k x).kstat = s.kstat := rfl
@[simp] theorem State.setCore_rest (s : State) (k : Nat) (x : Core) : (s.setCore k x).rest = s.rest := rfl
@[simp] theorem State.setCore_sched (s : State) (k : Nat) (x : Core) : (s.setCore k x).sched = s.sched := rfl
@[simp] theorem State.setCore_dram (s : State) (k : Nat) (x : Core) : (s.setCore k x).dram = s.dram := rfl
@[simp] theorem State.setCore_egov (s : State) (k : Nat) (x : Core) : (s.setCore k x).egov = s.egov := rfl
@[simp] theorem State.setCore_outer (s : State) (k : Nat) (x : Core) : (s.setCore k x).outer = s.outer := rfl
@[simp] theorem State.setCore_mapped (s : State) (k : Nat) (x : Core) : (s.setCore k x).mapped = s.mapped := rfl
@[simp] theorem State.setCore_cur (s : State) (k : Nat) (x : Core) : (s.setCore k x).cur = s.cur := rfl
@[simp] theorem State.setCore_ir (s : State) (k : Nat) (x : Core) : (s.setCore k x).ir = s.ir := rfl
@[simp] theorem State.setCore_waited (s : State) (k : Nat) (x : Core) : (s.setCore k x).waited = s.waited := rfl
@[simp] theorem State.setCore_agenda (s : State) (k : Nat) (x : Core) : (s.setCore k x).agenda = s.agenda := rfl
@[simp] theorem State.setCore_fresh (s : State) (k : Nat) (x : Core) : (s.setCore k x).fresh = s.fresh := rfl

@[simp] theorem State.setClu_gtime (s : State) (p : Nat) (x : Cluster) : (s.setClu p x).gtime = s.gtime := rfl
@[simp] theorem State.setClu_form (s : State) (p : Nat) (x : Cluster) : (s.setClu p x).form = s.form := rfl
@[simp] theorem State.setClu_mem (s : State) (p : Nat) (x : Cluster) : (s.setClu p x).mem = s.mem := rfl
@[simp] theorem State.setClu_thr (s : State) (p : Nat) (x : Cluster) : (s.setClu p x).thr = s.thr := rfl
@[simp] theorem State.setClu_cores (s : State) (p : Nat) (x : Cluster) : (s.setClu p x).cores = s.cores := rfl
@[simp] theorem State.setClu_launches (s : State) (p : Nat) (x : Cluster) : (s.setClu p x).launches = s.launches := rfl
@[simp] theorem State.setClu_objects (s : State) (p : Nat) (x : Cluster) : (s.setClu p x).objects = s.objects := rfl
@[simp] theorem State.setClu_net (s : State) (p : Nat) (x : Cluster) : (s.setClu p x).net = s.net := rfl
@[simp] theorem State.setClu_decs (s : State) (p : Nat) (x : Cluster) : (s.setClu p x).decs = s.decs := rfl
@[simp] theorem State.setClu_tlb (s : State) (p : Nat) (x : Cluster) : (s.setClu p x).tlb = s.tlb := rfl
@[simp] theorem State.setClu_walks (s : State) (p : Nat) (x : Cluster) : (s.setClu p x).walks = s.walks := rfl
@[simp] theorem State.setClu_l2 (s : State) (p : Nat) (x : Cluster) : (s.setClu p x).l2 = s.l2 := rfl
@[simp] theorem State.setClu_leases (s : State) (p : Nat) (x : Cluster) : (s.setClu p x).leases = s.leases := rfl
@[simp] theorem State.setClu_marks (s : State) (p : Nat) (x : Cluster) : (s.setClu p x).marks = s.marks := rfl
@[simp] theorem State.setClu_resv (s : State) (p : Nat) (x : Cluster) : (s.setClu p x).resv = s.resv := rfl
@[simp] theorem State.setClu_rsvq (s : State) (p : Nat) (x : Cluster) : (s.setClu p x).rsvq = s.rsvq := rfl
@[simp] theorem State.setClu_wts (s : State) (p : Nat) (x : Cluster) : (s.setClu p x).wts = s.wts := rfl
@[simp] theorem State.setClu_leaseq (s : State) (p : Nat) (x : Cluster) : (s.setClu p x).leaseq = s.leaseq := rfl
@[simp] theorem State.setClu_owned (s : State) (p : Nat) (x : Cluster) : (s.setClu p x).owned = s.owned := rfl
@[simp] theorem State.setClu_arrs (s : State) (p : Nat) (x : Cluster) : (s.setClu p x).arrs = s.arrs := rfl
@[simp] theorem State.setClu_saved (s : State) (p : Nat) (x : Cluster) : (s.setClu p x).saved = s.saved := rfl
@[simp] theorem State.setClu_srec (s : State) (p : Nat) (x : Cluster) : (s.setClu p x).srec = s.srec := rfl
@[simp] theorem State.setClu_srecWait (s : State) (p : Nat) (x : Cluster) : (s.setClu p x).srecWait = s.srecWait := rfl
@[simp] theorem State.setClu_astab (s : State) (p : Nat) (x : Cluster) : (s.setClu p x).astab = s.astab := rfl
@[simp] theorem State.setClu_kstat (s : State) (p : Nat) (x : Cluster) : (s.setClu p x).kstat = s.kstat := rfl
@[simp] theorem State.setClu_rest (s : State) (p : Nat) (x : Cluster) : (s.setClu p x).rest = s.rest := rfl
@[simp] theorem State.setClu_sched (s : State) (p : Nat) (x : Cluster) : (s.setClu p x).sched = s.sched := rfl
@[simp] theorem State.setClu_dram (s : State) (p : Nat) (x : Cluster) : (s.setClu p x).dram = s.dram := rfl
@[simp] theorem State.setClu_egov (s : State) (p : Nat) (x : Cluster) : (s.setClu p x).egov = s.egov := rfl
@[simp] theorem State.setClu_outer (s : State) (p : Nat) (x : Cluster) : (s.setClu p x).outer = s.outer := rfl
@[simp] theorem State.setClu_mapped (s : State) (p : Nat) (x : Cluster) : (s.setClu p x).mapped = s.mapped := rfl
@[simp] theorem State.setClu_cur (s : State) (p : Nat) (x : Cluster) : (s.setClu p x).cur = s.cur := rfl
@[simp] theorem State.setClu_ir (s : State) (p : Nat) (x : Cluster) : (s.setClu p x).ir = s.ir := rfl
@[simp] theorem State.setClu_waited (s : State) (p : Nat) (x : Cluster) : (s.setClu p x).waited = s.waited := rfl
@[simp] theorem State.setClu_agenda (s : State) (p : Nat) (x : Cluster) : (s.setClu p x).agenda = s.agenda := rfl
@[simp] theorem State.setClu_fresh (s : State) (p : Nat) (x : Cluster) : (s.setClu p x).fresh = s.fresh := rfl

@[simp] theorem State.setLaunch_gtime (s : State) (l : Nat) (x : Launch) : (s.setLaunch l x).gtime = s.gtime := rfl
@[simp] theorem State.setLaunch_form (s : State) (l : Nat) (x : Launch) : (s.setLaunch l x).form = s.form := rfl
@[simp] theorem State.setLaunch_mem (s : State) (l : Nat) (x : Launch) : (s.setLaunch l x).mem = s.mem := rfl
@[simp] theorem State.setLaunch_thr (s : State) (l : Nat) (x : Launch) : (s.setLaunch l x).thr = s.thr := rfl
@[simp] theorem State.setLaunch_cores (s : State) (l : Nat) (x : Launch) : (s.setLaunch l x).cores = s.cores := rfl
@[simp] theorem State.setLaunch_clus (s : State) (l : Nat) (x : Launch) : (s.setLaunch l x).clus = s.clus := rfl
@[simp] theorem State.setLaunch_objects (s : State) (l : Nat) (x : Launch) : (s.setLaunch l x).objects = s.objects := rfl
@[simp] theorem State.setLaunch_net (s : State) (l : Nat) (x : Launch) : (s.setLaunch l x).net = s.net := rfl
@[simp] theorem State.setLaunch_decs (s : State) (l : Nat) (x : Launch) : (s.setLaunch l x).decs = s.decs := rfl
@[simp] theorem State.setLaunch_tlb (s : State) (l : Nat) (x : Launch) : (s.setLaunch l x).tlb = s.tlb := rfl
@[simp] theorem State.setLaunch_walks (s : State) (l : Nat) (x : Launch) : (s.setLaunch l x).walks = s.walks := rfl
@[simp] theorem State.setLaunch_l2 (s : State) (l : Nat) (x : Launch) : (s.setLaunch l x).l2 = s.l2 := rfl
@[simp] theorem State.setLaunch_leases (s : State) (l : Nat) (x : Launch) : (s.setLaunch l x).leases = s.leases := rfl
@[simp] theorem State.setLaunch_marks (s : State) (l : Nat) (x : Launch) : (s.setLaunch l x).marks = s.marks := rfl
@[simp] theorem State.setLaunch_resv (s : State) (l : Nat) (x : Launch) : (s.setLaunch l x).resv = s.resv := rfl
@[simp] theorem State.setLaunch_rsvq (s : State) (l : Nat) (x : Launch) : (s.setLaunch l x).rsvq = s.rsvq := rfl
@[simp] theorem State.setLaunch_wts (s : State) (l : Nat) (x : Launch) : (s.setLaunch l x).wts = s.wts := rfl
@[simp] theorem State.setLaunch_leaseq (s : State) (l : Nat) (x : Launch) : (s.setLaunch l x).leaseq = s.leaseq := rfl
@[simp] theorem State.setLaunch_owned (s : State) (l : Nat) (x : Launch) : (s.setLaunch l x).owned = s.owned := rfl
@[simp] theorem State.setLaunch_arrs (s : State) (l : Nat) (x : Launch) : (s.setLaunch l x).arrs = s.arrs := rfl
@[simp] theorem State.setLaunch_saved (s : State) (l : Nat) (x : Launch) : (s.setLaunch l x).saved = s.saved := rfl
@[simp] theorem State.setLaunch_srec (s : State) (l : Nat) (x : Launch) : (s.setLaunch l x).srec = s.srec := rfl
@[simp] theorem State.setLaunch_srecWait (s : State) (l : Nat) (x : Launch) : (s.setLaunch l x).srecWait = s.srecWait := rfl
@[simp] theorem State.setLaunch_astab (s : State) (l : Nat) (x : Launch) : (s.setLaunch l x).astab = s.astab := rfl
@[simp] theorem State.setLaunch_kstat (s : State) (l : Nat) (x : Launch) : (s.setLaunch l x).kstat = s.kstat := rfl
@[simp] theorem State.setLaunch_rest (s : State) (l : Nat) (x : Launch) : (s.setLaunch l x).rest = s.rest := rfl
@[simp] theorem State.setLaunch_sched (s : State) (l : Nat) (x : Launch) : (s.setLaunch l x).sched = s.sched := rfl
@[simp] theorem State.setLaunch_dram (s : State) (l : Nat) (x : Launch) : (s.setLaunch l x).dram = s.dram := rfl
@[simp] theorem State.setLaunch_egov (s : State) (l : Nat) (x : Launch) : (s.setLaunch l x).egov = s.egov := rfl
@[simp] theorem State.setLaunch_outer (s : State) (l : Nat) (x : Launch) : (s.setLaunch l x).outer = s.outer := rfl
@[simp] theorem State.setLaunch_mapped (s : State) (l : Nat) (x : Launch) : (s.setLaunch l x).mapped = s.mapped := rfl
@[simp] theorem State.setLaunch_cur (s : State) (l : Nat) (x : Launch) : (s.setLaunch l x).cur = s.cur := rfl
@[simp] theorem State.setLaunch_ir (s : State) (l : Nat) (x : Launch) : (s.setLaunch l x).ir = s.ir := rfl
@[simp] theorem State.setLaunch_waited (s : State) (l : Nat) (x : Launch) : (s.setLaunch l x).waited = s.waited := rfl
@[simp] theorem State.setLaunch_agenda (s : State) (l : Nat) (x : Launch) : (s.setLaunch l x).agenda = s.agenda := rfl
@[simp] theorem State.setLaunch_fresh (s : State) (l : Nat) (x : Launch) : (s.setLaunch l x).fresh = s.fresh := rfl

@[simp] theorem State.setPc_gtime (s : State) (pc : Word) : (s.setPc pc).gtime = s.gtime := rfl
@[simp] theorem State.setPc_form (s : State) (pc : Word) : (s.setPc pc).form = s.form := rfl
@[simp] theorem State.setPc_mem (s : State) (pc : Word) : (s.setPc pc).mem = s.mem := rfl
@[simp] theorem State.setPc_cores (s : State) (pc : Word) : (s.setPc pc).cores = s.cores := rfl
@[simp] theorem State.setPc_clus (s : State) (pc : Word) : (s.setPc pc).clus = s.clus := rfl
@[simp] theorem State.setPc_launches (s : State) (pc : Word) : (s.setPc pc).launches = s.launches := rfl
@[simp] theorem State.setPc_objects (s : State) (pc : Word) : (s.setPc pc).objects = s.objects := rfl
@[simp] theorem State.setPc_net (s : State) (pc : Word) : (s.setPc pc).net = s.net := rfl
@[simp] theorem State.setPc_decs (s : State) (pc : Word) : (s.setPc pc).decs = s.decs := rfl
@[simp] theorem State.setPc_tlb (s : State) (pc : Word) : (s.setPc pc).tlb = s.tlb := rfl
@[simp] theorem State.setPc_walks (s : State) (pc : Word) : (s.setPc pc).walks = s.walks := rfl
@[simp] theorem State.setPc_l2 (s : State) (pc : Word) : (s.setPc pc).l2 = s.l2 := rfl
@[simp] theorem State.setPc_leases (s : State) (pc : Word) : (s.setPc pc).leases = s.leases := rfl
@[simp] theorem State.setPc_marks (s : State) (pc : Word) : (s.setPc pc).marks = s.marks := rfl
@[simp] theorem State.setPc_resv (s : State) (pc : Word) : (s.setPc pc).resv = s.resv := rfl
@[simp] theorem State.setPc_rsvq (s : State) (pc : Word) : (s.setPc pc).rsvq = s.rsvq := rfl
@[simp] theorem State.setPc_wts (s : State) (pc : Word) : (s.setPc pc).wts = s.wts := rfl
@[simp] theorem State.setPc_leaseq (s : State) (pc : Word) : (s.setPc pc).leaseq = s.leaseq := rfl
@[simp] theorem State.setPc_owned (s : State) (pc : Word) : (s.setPc pc).owned = s.owned := rfl
@[simp] theorem State.setPc_arrs (s : State) (pc : Word) : (s.setPc pc).arrs = s.arrs := rfl
@[simp] theorem State.setPc_saved (s : State) (pc : Word) : (s.setPc pc).saved = s.saved := rfl
@[simp] theorem State.setPc_srec (s : State) (pc : Word) : (s.setPc pc).srec = s.srec := rfl
@[simp] theorem State.setPc_srecWait (s : State) (pc : Word) : (s.setPc pc).srecWait = s.srecWait := rfl
@[simp] theorem State.setPc_astab (s : State) (pc : Word) : (s.setPc pc).astab = s.astab := rfl
@[simp] theorem State.setPc_kstat (s : State) (pc : Word) : (s.setPc pc).kstat = s.kstat := rfl
@[simp] theorem State.setPc_rest (s : State) (pc : Word) : (s.setPc pc).rest = s.rest := rfl
@[simp] theorem State.setPc_sched (s : State) (pc : Word) : (s.setPc pc).sched = s.sched := rfl
@[simp] theorem State.setPc_dram (s : State) (pc : Word) : (s.setPc pc).dram = s.dram := rfl
@[simp] theorem State.setPc_egov (s : State) (pc : Word) : (s.setPc pc).egov = s.egov := rfl
@[simp] theorem State.setPc_outer (s : State) (pc : Word) : (s.setPc pc).outer = s.outer := rfl
@[simp] theorem State.setPc_mapped (s : State) (pc : Word) : (s.setPc pc).mapped = s.mapped := rfl
@[simp] theorem State.setPc_cur (s : State) (pc : Word) : (s.setPc pc).cur = s.cur := rfl
@[simp] theorem State.setPc_ir (s : State) (pc : Word) : (s.setPc pc).ir = s.ir := rfl
@[simp] theorem State.setPc_waited (s : State) (pc : Word) : (s.setPc pc).waited = s.waited := rfl
@[simp] theorem State.setPc_agenda (s : State) (pc : Word) : (s.setPc pc).agenda = s.agenda := rfl
@[simp] theorem State.setPc_fresh (s : State) (pc : Word) : (s.setPc pc).fresh = s.fresh := rfl

@[simp] theorem State.jump_gtime (s : State) (pc : Word) : (s.jump pc).gtime = s.gtime := rfl
@[simp] theorem State.jump_form (s : State) (pc : Word) : (s.jump pc).form = s.form := rfl
@[simp] theorem State.jump_mem (s : State) (pc : Word) : (s.jump pc).mem = s.mem := rfl
@[simp] theorem State.jump_cores (s : State) (pc : Word) : (s.jump pc).cores = s.cores := rfl
@[simp] theorem State.jump_clus (s : State) (pc : Word) : (s.jump pc).clus = s.clus := rfl
@[simp] theorem State.jump_launches (s : State) (pc : Word) : (s.jump pc).launches = s.launches := rfl
@[simp] theorem State.jump_objects (s : State) (pc : Word) : (s.jump pc).objects = s.objects := rfl
@[simp] theorem State.jump_net (s : State) (pc : Word) : (s.jump pc).net = s.net := rfl
@[simp] theorem State.jump_decs (s : State) (pc : Word) : (s.jump pc).decs = s.decs := rfl
@[simp] theorem State.jump_tlb (s : State) (pc : Word) : (s.jump pc).tlb = s.tlb := rfl
@[simp] theorem State.jump_walks (s : State) (pc : Word) : (s.jump pc).walks = s.walks := rfl
@[simp] theorem State.jump_l2 (s : State) (pc : Word) : (s.jump pc).l2 = s.l2 := rfl
@[simp] theorem State.jump_leases (s : State) (pc : Word) : (s.jump pc).leases = s.leases := rfl
@[simp] theorem State.jump_marks (s : State) (pc : Word) : (s.jump pc).marks = s.marks := rfl
@[simp] theorem State.jump_resv (s : State) (pc : Word) : (s.jump pc).resv = s.resv := rfl
@[simp] theorem State.jump_rsvq (s : State) (pc : Word) : (s.jump pc).rsvq = s.rsvq := rfl
@[simp] theorem State.jump_wts (s : State) (pc : Word) : (s.jump pc).wts = s.wts := rfl
@[simp] theorem State.jump_leaseq (s : State) (pc : Word) : (s.jump pc).leaseq = s.leaseq := rfl
@[simp] theorem State.jump_owned (s : State) (pc : Word) : (s.jump pc).owned = s.owned := rfl
@[simp] theorem State.jump_arrs (s : State) (pc : Word) : (s.jump pc).arrs = s.arrs := rfl
@[simp] theorem State.jump_saved (s : State) (pc : Word) : (s.jump pc).saved = s.saved := rfl
@[simp] theorem State.jump_srec (s : State) (pc : Word) : (s.jump pc).srec = s.srec := rfl
@[simp] theorem State.jump_srecWait (s : State) (pc : Word) : (s.jump pc).srecWait = s.srecWait := rfl
@[simp] theorem State.jump_astab (s : State) (pc : Word) : (s.jump pc).astab = s.astab := rfl
@[simp] theorem State.jump_kstat (s : State) (pc : Word) : (s.jump pc).kstat = s.kstat := rfl
@[simp] theorem State.jump_rest (s : State) (pc : Word) : (s.jump pc).rest = s.rest := rfl
@[simp] theorem State.jump_sched (s : State) (pc : Word) : (s.jump pc).sched = s.sched := rfl
@[simp] theorem State.jump_dram (s : State) (pc : Word) : (s.jump pc).dram = s.dram := rfl
@[simp] theorem State.jump_egov (s : State) (pc : Word) : (s.jump pc).egov = s.egov := rfl
@[simp] theorem State.jump_outer (s : State) (pc : Word) : (s.jump pc).outer = s.outer := rfl
@[simp] theorem State.jump_mapped (s : State) (pc : Word) : (s.jump pc).mapped = s.mapped := rfl
@[simp] theorem State.jump_cur (s : State) (pc : Word) : (s.jump pc).cur = s.cur := rfl
@[simp] theorem State.jump_ir (s : State) (pc : Word) : (s.jump pc).ir = s.ir := rfl
@[simp] theorem State.jump_waited (s : State) (pc : Word) : (s.jump pc).waited = s.waited := rfl
@[simp] theorem State.jump_agenda (s : State) (pc : Word) : (s.jump pc).agenda = s.agenda := rfl
@[simp] theorem State.jump_fresh (s : State) (pc : Word) : (s.jump pc).fresh = s.fresh := rfl

@[simp] theorem State.advance_gtime (s : State) : (s.advance).gtime = s.gtime := rfl
@[simp] theorem State.advance_form (s : State) : (s.advance).form = s.form := rfl
@[simp] theorem State.advance_mem (s : State) : (s.advance).mem = s.mem := rfl
@[simp] theorem State.advance_cores (s : State) : (s.advance).cores = s.cores := rfl
@[simp] theorem State.advance_clus (s : State) : (s.advance).clus = s.clus := rfl
@[simp] theorem State.advance_launches (s : State) : (s.advance).launches = s.launches := rfl
@[simp] theorem State.advance_objects (s : State) : (s.advance).objects = s.objects := rfl
@[simp] theorem State.advance_net (s : State) : (s.advance).net = s.net := rfl
@[simp] theorem State.advance_decs (s : State) : (s.advance).decs = s.decs := rfl
@[simp] theorem State.advance_tlb (s : State) : (s.advance).tlb = s.tlb := rfl
@[simp] theorem State.advance_walks (s : State) : (s.advance).walks = s.walks := rfl
@[simp] theorem State.advance_l2 (s : State) : (s.advance).l2 = s.l2 := rfl
@[simp] theorem State.advance_leases (s : State) : (s.advance).leases = s.leases := rfl
@[simp] theorem State.advance_marks (s : State) : (s.advance).marks = s.marks := rfl
@[simp] theorem State.advance_resv (s : State) : (s.advance).resv = s.resv := rfl
@[simp] theorem State.advance_rsvq (s : State) : (s.advance).rsvq = s.rsvq := rfl
@[simp] theorem State.advance_wts (s : State) : (s.advance).wts = s.wts := rfl
@[simp] theorem State.advance_leaseq (s : State) : (s.advance).leaseq = s.leaseq := rfl
@[simp] theorem State.advance_owned (s : State) : (s.advance).owned = s.owned := rfl
@[simp] theorem State.advance_arrs (s : State) : (s.advance).arrs = s.arrs := rfl
@[simp] theorem State.advance_saved (s : State) : (s.advance).saved = s.saved := rfl
@[simp] theorem State.advance_srec (s : State) : (s.advance).srec = s.srec := rfl
@[simp] theorem State.advance_srecWait (s : State) : (s.advance).srecWait = s.srecWait := rfl
@[simp] theorem State.advance_astab (s : State) : (s.advance).astab = s.astab := rfl
@[simp] theorem State.advance_kstat (s : State) : (s.advance).kstat = s.kstat := rfl
@[simp] theorem State.advance_rest (s : State) : (s.advance).rest = s.rest := rfl
@[simp] theorem State.advance_sched (s : State) : (s.advance).sched = s.sched := rfl
@[simp] theorem State.advance_dram (s : State) : (s.advance).dram = s.dram := rfl
@[simp] theorem State.advance_egov (s : State) : (s.advance).egov = s.egov := rfl
@[simp] theorem State.advance_outer (s : State) : (s.advance).outer = s.outer := rfl
@[simp] theorem State.advance_mapped (s : State) : (s.advance).mapped = s.mapped := rfl
@[simp] theorem State.advance_cur (s : State) : (s.advance).cur = s.cur := rfl
@[simp] theorem State.advance_ir (s : State) : (s.advance).ir = s.ir := rfl
@[simp] theorem State.advance_waited (s : State) : (s.advance).waited = s.waited := rfl
@[simp] theorem State.advance_agenda (s : State) : (s.advance).agenda = s.agenda := rfl
@[simp] theorem State.advance_fresh (s : State) : (s.advance).fresh = s.fresh := rfl

@[simp] theorem State.setW_gtime (s : State) (a : BitVec 6) (v : Word) : (s.setW a v).gtime = s.gtime := rfl
@[simp] theorem State.setW_form (s : State) (a : BitVec 6) (v : Word) : (s.setW a v).form = s.form := rfl
@[simp] theorem State.setW_mem (s : State) (a : BitVec 6) (v : Word) : (s.setW a v).mem = s.mem := rfl
@[simp] theorem State.setW_cores (s : State) (a : BitVec 6) (v : Word) : (s.setW a v).cores = s.cores := rfl
@[simp] theorem State.setW_clus (s : State) (a : BitVec 6) (v : Word) : (s.setW a v).clus = s.clus := rfl
@[simp] theorem State.setW_launches (s : State) (a : BitVec 6) (v : Word) : (s.setW a v).launches = s.launches := rfl
@[simp] theorem State.setW_objects (s : State) (a : BitVec 6) (v : Word) : (s.setW a v).objects = s.objects := rfl
@[simp] theorem State.setW_net (s : State) (a : BitVec 6) (v : Word) : (s.setW a v).net = s.net := rfl
@[simp] theorem State.setW_decs (s : State) (a : BitVec 6) (v : Word) : (s.setW a v).decs = s.decs := rfl
@[simp] theorem State.setW_tlb (s : State) (a : BitVec 6) (v : Word) : (s.setW a v).tlb = s.tlb := rfl
@[simp] theorem State.setW_walks (s : State) (a : BitVec 6) (v : Word) : (s.setW a v).walks = s.walks := rfl
@[simp] theorem State.setW_l2 (s : State) (a : BitVec 6) (v : Word) : (s.setW a v).l2 = s.l2 := rfl
@[simp] theorem State.setW_leases (s : State) (a : BitVec 6) (v : Word) : (s.setW a v).leases = s.leases := rfl
@[simp] theorem State.setW_marks (s : State) (a : BitVec 6) (v : Word) : (s.setW a v).marks = s.marks := rfl
@[simp] theorem State.setW_resv (s : State) (a : BitVec 6) (v : Word) : (s.setW a v).resv = s.resv := rfl
@[simp] theorem State.setW_rsvq (s : State) (a : BitVec 6) (v : Word) : (s.setW a v).rsvq = s.rsvq := rfl
@[simp] theorem State.setW_wts (s : State) (a : BitVec 6) (v : Word) : (s.setW a v).wts = s.wts := rfl
@[simp] theorem State.setW_leaseq (s : State) (a : BitVec 6) (v : Word) : (s.setW a v).leaseq = s.leaseq := rfl
@[simp] theorem State.setW_owned (s : State) (a : BitVec 6) (v : Word) : (s.setW a v).owned = s.owned := rfl
@[simp] theorem State.setW_arrs (s : State) (a : BitVec 6) (v : Word) : (s.setW a v).arrs = s.arrs := rfl
@[simp] theorem State.setW_saved (s : State) (a : BitVec 6) (v : Word) : (s.setW a v).saved = s.saved := rfl
@[simp] theorem State.setW_srec (s : State) (a : BitVec 6) (v : Word) : (s.setW a v).srec = s.srec := rfl
@[simp] theorem State.setW_srecWait (s : State) (a : BitVec 6) (v : Word) : (s.setW a v).srecWait = s.srecWait := rfl
@[simp] theorem State.setW_astab (s : State) (a : BitVec 6) (v : Word) : (s.setW a v).astab = s.astab := rfl
@[simp] theorem State.setW_kstat (s : State) (a : BitVec 6) (v : Word) : (s.setW a v).kstat = s.kstat := rfl
@[simp] theorem State.setW_rest (s : State) (a : BitVec 6) (v : Word) : (s.setW a v).rest = s.rest := rfl
@[simp] theorem State.setW_sched (s : State) (a : BitVec 6) (v : Word) : (s.setW a v).sched = s.sched := rfl
@[simp] theorem State.setW_dram (s : State) (a : BitVec 6) (v : Word) : (s.setW a v).dram = s.dram := rfl
@[simp] theorem State.setW_egov (s : State) (a : BitVec 6) (v : Word) : (s.setW a v).egov = s.egov := rfl
@[simp] theorem State.setW_outer (s : State) (a : BitVec 6) (v : Word) : (s.setW a v).outer = s.outer := rfl
@[simp] theorem State.setW_mapped (s : State) (a : BitVec 6) (v : Word) : (s.setW a v).mapped = s.mapped := rfl
@[simp] theorem State.setW_cur (s : State) (a : BitVec 6) (v : Word) : (s.setW a v).cur = s.cur := rfl
@[simp] theorem State.setW_ir (s : State) (a : BitVec 6) (v : Word) : (s.setW a v).ir = s.ir := rfl
@[simp] theorem State.setW_waited (s : State) (a : BitVec 6) (v : Word) : (s.setW a v).waited = s.waited := rfl
@[simp] theorem State.setW_agenda (s : State) (a : BitVec 6) (v : Word) : (s.setW a v).agenda = s.agenda := rfl
@[simp] theorem State.setW_fresh (s : State) (a : BitVec 6) (v : Word) : (s.setW a v).fresh = s.fresh := rfl

@[simp] theorem State.setWn_gtime (s : State) (a : BitVec 6) (i : Nat) (v : Word) : (s.setWn a i v).gtime = s.gtime := rfl
@[simp] theorem State.setWn_form (s : State) (a : BitVec 6) (i : Nat) (v : Word) : (s.setWn a i v).form = s.form := rfl
@[simp] theorem State.setWn_mem (s : State) (a : BitVec 6) (i : Nat) (v : Word) : (s.setWn a i v).mem = s.mem := rfl
@[simp] theorem State.setWn_cores (s : State) (a : BitVec 6) (i : Nat) (v : Word) : (s.setWn a i v).cores = s.cores := rfl
@[simp] theorem State.setWn_clus (s : State) (a : BitVec 6) (i : Nat) (v : Word) : (s.setWn a i v).clus = s.clus := rfl
@[simp] theorem State.setWn_launches (s : State) (a : BitVec 6) (i : Nat) (v : Word) : (s.setWn a i v).launches = s.launches := rfl
@[simp] theorem State.setWn_objects (s : State) (a : BitVec 6) (i : Nat) (v : Word) : (s.setWn a i v).objects = s.objects := rfl
@[simp] theorem State.setWn_net (s : State) (a : BitVec 6) (i : Nat) (v : Word) : (s.setWn a i v).net = s.net := rfl
@[simp] theorem State.setWn_decs (s : State) (a : BitVec 6) (i : Nat) (v : Word) : (s.setWn a i v).decs = s.decs := rfl
@[simp] theorem State.setWn_tlb (s : State) (a : BitVec 6) (i : Nat) (v : Word) : (s.setWn a i v).tlb = s.tlb := rfl
@[simp] theorem State.setWn_walks (s : State) (a : BitVec 6) (i : Nat) (v : Word) : (s.setWn a i v).walks = s.walks := rfl
@[simp] theorem State.setWn_l2 (s : State) (a : BitVec 6) (i : Nat) (v : Word) : (s.setWn a i v).l2 = s.l2 := rfl
@[simp] theorem State.setWn_leases (s : State) (a : BitVec 6) (i : Nat) (v : Word) : (s.setWn a i v).leases = s.leases := rfl
@[simp] theorem State.setWn_marks (s : State) (a : BitVec 6) (i : Nat) (v : Word) : (s.setWn a i v).marks = s.marks := rfl
@[simp] theorem State.setWn_resv (s : State) (a : BitVec 6) (i : Nat) (v : Word) : (s.setWn a i v).resv = s.resv := rfl
@[simp] theorem State.setWn_rsvq (s : State) (a : BitVec 6) (i : Nat) (v : Word) : (s.setWn a i v).rsvq = s.rsvq := rfl
@[simp] theorem State.setWn_wts (s : State) (a : BitVec 6) (i : Nat) (v : Word) : (s.setWn a i v).wts = s.wts := rfl
@[simp] theorem State.setWn_leaseq (s : State) (a : BitVec 6) (i : Nat) (v : Word) : (s.setWn a i v).leaseq = s.leaseq := rfl
@[simp] theorem State.setWn_owned (s : State) (a : BitVec 6) (i : Nat) (v : Word) : (s.setWn a i v).owned = s.owned := rfl
@[simp] theorem State.setWn_arrs (s : State) (a : BitVec 6) (i : Nat) (v : Word) : (s.setWn a i v).arrs = s.arrs := rfl
@[simp] theorem State.setWn_saved (s : State) (a : BitVec 6) (i : Nat) (v : Word) : (s.setWn a i v).saved = s.saved := rfl
@[simp] theorem State.setWn_srec (s : State) (a : BitVec 6) (i : Nat) (v : Word) : (s.setWn a i v).srec = s.srec := rfl
@[simp] theorem State.setWn_srecWait (s : State) (a : BitVec 6) (i : Nat) (v : Word) : (s.setWn a i v).srecWait = s.srecWait := rfl
@[simp] theorem State.setWn_astab (s : State) (a : BitVec 6) (i : Nat) (v : Word) : (s.setWn a i v).astab = s.astab := rfl
@[simp] theorem State.setWn_kstat (s : State) (a : BitVec 6) (i : Nat) (v : Word) : (s.setWn a i v).kstat = s.kstat := rfl
@[simp] theorem State.setWn_rest (s : State) (a : BitVec 6) (i : Nat) (v : Word) : (s.setWn a i v).rest = s.rest := rfl
@[simp] theorem State.setWn_sched (s : State) (a : BitVec 6) (i : Nat) (v : Word) : (s.setWn a i v).sched = s.sched := rfl
@[simp] theorem State.setWn_dram (s : State) (a : BitVec 6) (i : Nat) (v : Word) : (s.setWn a i v).dram = s.dram := rfl
@[simp] theorem State.setWn_egov (s : State) (a : BitVec 6) (i : Nat) (v : Word) : (s.setWn a i v).egov = s.egov := rfl
@[simp] theorem State.setWn_outer (s : State) (a : BitVec 6) (i : Nat) (v : Word) : (s.setWn a i v).outer = s.outer := rfl
@[simp] theorem State.setWn_mapped (s : State) (a : BitVec 6) (i : Nat) (v : Word) : (s.setWn a i v).mapped = s.mapped := rfl
@[simp] theorem State.setWn_cur (s : State) (a : BitVec 6) (i : Nat) (v : Word) : (s.setWn a i v).cur = s.cur := rfl
@[simp] theorem State.setWn_ir (s : State) (a : BitVec 6) (i : Nat) (v : Word) : (s.setWn a i v).ir = s.ir := rfl
@[simp] theorem State.setWn_waited (s : State) (a : BitVec 6) (i : Nat) (v : Word) : (s.setWn a i v).waited = s.waited := rfl
@[simp] theorem State.setWn_agenda (s : State) (a : BitVec 6) (i : Nat) (v : Word) : (s.setWn a i v).agenda = s.agenda := rfl
@[simp] theorem State.setWn_fresh (s : State) (a : BitVec 6) (i : Nat) (v : Word) : (s.setWn a i v).fresh = s.fresh := rfl

@[simp] theorem State.setP_gtime (s : State) (n : Nat) (b : Bool) : (s.setP n b).gtime = s.gtime := rfl
@[simp] theorem State.setP_form (s : State) (n : Nat) (b : Bool) : (s.setP n b).form = s.form := rfl
@[simp] theorem State.setP_mem (s : State) (n : Nat) (b : Bool) : (s.setP n b).mem = s.mem := rfl
@[simp] theorem State.setP_cores (s : State) (n : Nat) (b : Bool) : (s.setP n b).cores = s.cores := rfl
@[simp] theorem State.setP_clus (s : State) (n : Nat) (b : Bool) : (s.setP n b).clus = s.clus := rfl
@[simp] theorem State.setP_launches (s : State) (n : Nat) (b : Bool) : (s.setP n b).launches = s.launches := rfl
@[simp] theorem State.setP_objects (s : State) (n : Nat) (b : Bool) : (s.setP n b).objects = s.objects := rfl
@[simp] theorem State.setP_net (s : State) (n : Nat) (b : Bool) : (s.setP n b).net = s.net := rfl
@[simp] theorem State.setP_decs (s : State) (n : Nat) (b : Bool) : (s.setP n b).decs = s.decs := rfl
@[simp] theorem State.setP_tlb (s : State) (n : Nat) (b : Bool) : (s.setP n b).tlb = s.tlb := rfl
@[simp] theorem State.setP_walks (s : State) (n : Nat) (b : Bool) : (s.setP n b).walks = s.walks := rfl
@[simp] theorem State.setP_l2 (s : State) (n : Nat) (b : Bool) : (s.setP n b).l2 = s.l2 := rfl
@[simp] theorem State.setP_leases (s : State) (n : Nat) (b : Bool) : (s.setP n b).leases = s.leases := rfl
@[simp] theorem State.setP_marks (s : State) (n : Nat) (b : Bool) : (s.setP n b).marks = s.marks := rfl
@[simp] theorem State.setP_resv (s : State) (n : Nat) (b : Bool) : (s.setP n b).resv = s.resv := rfl
@[simp] theorem State.setP_rsvq (s : State) (n : Nat) (b : Bool) : (s.setP n b).rsvq = s.rsvq := rfl
@[simp] theorem State.setP_wts (s : State) (n : Nat) (b : Bool) : (s.setP n b).wts = s.wts := rfl
@[simp] theorem State.setP_leaseq (s : State) (n : Nat) (b : Bool) : (s.setP n b).leaseq = s.leaseq := rfl
@[simp] theorem State.setP_owned (s : State) (n : Nat) (b : Bool) : (s.setP n b).owned = s.owned := rfl
@[simp] theorem State.setP_arrs (s : State) (n : Nat) (b : Bool) : (s.setP n b).arrs = s.arrs := rfl
@[simp] theorem State.setP_saved (s : State) (n : Nat) (b : Bool) : (s.setP n b).saved = s.saved := rfl
@[simp] theorem State.setP_srec (s : State) (n : Nat) (b : Bool) : (s.setP n b).srec = s.srec := rfl
@[simp] theorem State.setP_srecWait (s : State) (n : Nat) (b : Bool) : (s.setP n b).srecWait = s.srecWait := rfl
@[simp] theorem State.setP_astab (s : State) (n : Nat) (b : Bool) : (s.setP n b).astab = s.astab := rfl
@[simp] theorem State.setP_kstat (s : State) (n : Nat) (b : Bool) : (s.setP n b).kstat = s.kstat := rfl
@[simp] theorem State.setP_rest (s : State) (n : Nat) (b : Bool) : (s.setP n b).rest = s.rest := rfl
@[simp] theorem State.setP_sched (s : State) (n : Nat) (b : Bool) : (s.setP n b).sched = s.sched := rfl
@[simp] theorem State.setP_dram (s : State) (n : Nat) (b : Bool) : (s.setP n b).dram = s.dram := rfl
@[simp] theorem State.setP_egov (s : State) (n : Nat) (b : Bool) : (s.setP n b).egov = s.egov := rfl
@[simp] theorem State.setP_outer (s : State) (n : Nat) (b : Bool) : (s.setP n b).outer = s.outer := rfl
@[simp] theorem State.setP_mapped (s : State) (n : Nat) (b : Bool) : (s.setP n b).mapped = s.mapped := rfl
@[simp] theorem State.setP_cur (s : State) (n : Nat) (b : Bool) : (s.setP n b).cur = s.cur := rfl
@[simp] theorem State.setP_ir (s : State) (n : Nat) (b : Bool) : (s.setP n b).ir = s.ir := rfl
@[simp] theorem State.setP_waited (s : State) (n : Nat) (b : Bool) : (s.setP n b).waited = s.waited := rfl
@[simp] theorem State.setP_agenda (s : State) (n : Nat) (b : Bool) : (s.setP n b).agenda = s.agenda := rfl
@[simp] theorem State.setP_fresh (s : State) (n : Nat) (b : Bool) : (s.setP n b).fresh = s.fresh := rfl

@[simp] theorem State.writeAt_gtime (s : State) (l : Loc) (bs : List Byte) : (s.writeAt l bs).gtime = s.gtime := rfl
@[simp] theorem State.writeAt_form (s : State) (l : Loc) (bs : List Byte) : (s.writeAt l bs).form = s.form := rfl
@[simp] theorem State.writeAt_thr (s : State) (l : Loc) (bs : List Byte) : (s.writeAt l bs).thr = s.thr := rfl
@[simp] theorem State.writeAt_cores (s : State) (l : Loc) (bs : List Byte) : (s.writeAt l bs).cores = s.cores := rfl
@[simp] theorem State.writeAt_clus (s : State) (l : Loc) (bs : List Byte) : (s.writeAt l bs).clus = s.clus := rfl
@[simp] theorem State.writeAt_launches (s : State) (l : Loc) (bs : List Byte) : (s.writeAt l bs).launches = s.launches := rfl
@[simp] theorem State.writeAt_objects (s : State) (l : Loc) (bs : List Byte) : (s.writeAt l bs).objects = s.objects := rfl
@[simp] theorem State.writeAt_net (s : State) (l : Loc) (bs : List Byte) : (s.writeAt l bs).net = s.net := rfl
@[simp] theorem State.writeAt_decs (s : State) (l : Loc) (bs : List Byte) : (s.writeAt l bs).decs = s.decs := rfl
@[simp] theorem State.writeAt_tlb (s : State) (l : Loc) (bs : List Byte) : (s.writeAt l bs).tlb = s.tlb := rfl
@[simp] theorem State.writeAt_walks (s : State) (l : Loc) (bs : List Byte) : (s.writeAt l bs).walks = s.walks := rfl
@[simp] theorem State.writeAt_l2 (s : State) (l : Loc) (bs : List Byte) : (s.writeAt l bs).l2 = s.l2 := rfl
@[simp] theorem State.writeAt_leases (s : State) (l : Loc) (bs : List Byte) : (s.writeAt l bs).leases = s.leases := rfl
@[simp] theorem State.writeAt_marks (s : State) (l : Loc) (bs : List Byte) : (s.writeAt l bs).marks = s.marks := rfl
@[simp] theorem State.writeAt_resv (s : State) (l : Loc) (bs : List Byte) : (s.writeAt l bs).resv = s.resv := rfl
@[simp] theorem State.writeAt_rsvq (s : State) (l : Loc) (bs : List Byte) : (s.writeAt l bs).rsvq = s.rsvq := rfl
@[simp] theorem State.writeAt_wts (s : State) (l : Loc) (bs : List Byte) : (s.writeAt l bs).wts = s.wts := rfl
@[simp] theorem State.writeAt_leaseq (s : State) (l : Loc) (bs : List Byte) : (s.writeAt l bs).leaseq = s.leaseq := rfl
@[simp] theorem State.writeAt_owned (s : State) (l : Loc) (bs : List Byte) : (s.writeAt l bs).owned = s.owned := rfl
@[simp] theorem State.writeAt_arrs (s : State) (l : Loc) (bs : List Byte) : (s.writeAt l bs).arrs = s.arrs := rfl
@[simp] theorem State.writeAt_saved (s : State) (l : Loc) (bs : List Byte) : (s.writeAt l bs).saved = s.saved := rfl
@[simp] theorem State.writeAt_srec (s : State) (l : Loc) (bs : List Byte) : (s.writeAt l bs).srec = s.srec := rfl
@[simp] theorem State.writeAt_srecWait (s : State) (l : Loc) (bs : List Byte) : (s.writeAt l bs).srecWait = s.srecWait := rfl
@[simp] theorem State.writeAt_astab (s : State) (l : Loc) (bs : List Byte) : (s.writeAt l bs).astab = s.astab := rfl
@[simp] theorem State.writeAt_kstat (s : State) (l : Loc) (bs : List Byte) : (s.writeAt l bs).kstat = s.kstat := rfl
@[simp] theorem State.writeAt_rest (s : State) (l : Loc) (bs : List Byte) : (s.writeAt l bs).rest = s.rest := rfl
@[simp] theorem State.writeAt_sched (s : State) (l : Loc) (bs : List Byte) : (s.writeAt l bs).sched = s.sched := rfl
@[simp] theorem State.writeAt_dram (s : State) (l : Loc) (bs : List Byte) : (s.writeAt l bs).dram = s.dram := rfl
@[simp] theorem State.writeAt_egov (s : State) (l : Loc) (bs : List Byte) : (s.writeAt l bs).egov = s.egov := rfl
@[simp] theorem State.writeAt_outer (s : State) (l : Loc) (bs : List Byte) : (s.writeAt l bs).outer = s.outer := rfl
@[simp] theorem State.writeAt_mapped (s : State) (l : Loc) (bs : List Byte) : (s.writeAt l bs).mapped = s.mapped := rfl
@[simp] theorem State.writeAt_cur (s : State) (l : Loc) (bs : List Byte) : (s.writeAt l bs).cur = s.cur := rfl
@[simp] theorem State.writeAt_ir (s : State) (l : Loc) (bs : List Byte) : (s.writeAt l bs).ir = s.ir := rfl
@[simp] theorem State.writeAt_waited (s : State) (l : Loc) (bs : List Byte) : (s.writeAt l bs).waited = s.waited := rfl
@[simp] theorem State.writeAt_agenda (s : State) (l : Loc) (bs : List Byte) : (s.writeAt l bs).agenda = s.agenda := rfl
@[simp] theorem State.writeAt_fresh (s : State) (l : Loc) (bs : List Byte) : (s.writeAt l bs).fresh = s.fresh := rfl

/-! ## A context's fields -/

@[simp] theorem Thread.setW_st (t : Thread) (i : Nat) (v : Word) : (t.setW i v).st = t.st := rfl
@[simp] theorem Thread.setW_svst (t : Thread) (i : Nat) (v : Word) : (t.setW i v).svst = t.svst := rfl
@[simp] theorem Thread.setW_lid (t : Thread) (i : Nat) (v : Word) : (t.setW i v).lid = t.lid := rfl
@[simp] theorem Thread.setW_tid (t : Thread) (i : Nat) (v : Word) : (t.setW i v).tid = t.tid := rfl
@[simp] theorem Thread.setW_pc (t : Thread) (i : Nat) (v : Word) : (t.setW i v).pc = t.pc := rfl
@[simp] theorem Thread.setW_mode (t : Thread) (i : Nat) (v : Word) : (t.setW i v).mode = t.mode := rfl
@[simp] theorem Thread.setW_pw (t : Thread) (i : Nat) (v : Word) : (t.setW i v).pw = t.pw := rfl
@[simp] theorem Thread.setW_q (t : Thread) (i : Nat) (v : Word) : (t.setW i v).q = t.q := rfl
@[simp] theorem Thread.setW_vec (t : Thread) (i : Nat) (v : Word) : (t.setW i v).vec = t.vec := rfl
@[simp] theorem Thread.setW_strm (t : Thread) (i : Nat) (v : Word) : (t.setW i v).strm = t.strm := rfl
@[simp] theorem Thread.setW_sys (t : Thread) (i : Nat) (v : Word) : (t.setW i v).sys = t.sys := rfl
@[simp] theorem Thread.setW_pend (t : Thread) (i : Nat) (v : Word) : (t.setW i v).pend = t.pend := rfl
@[simp] theorem Thread.setW_hold (t : Thread) (i : Nat) (v : Word) : (t.setW i v).hold = t.hold := rfl
@[simp] theorem Thread.setW_mail (t : Thread) (i : Nat) (v : Word) : (t.setW i v).mail = t.mail := rfl
@[simp] theorem Thread.setW_spec (t : Thread) (i : Nat) (v : Word) : (t.setW i v).spec = t.spec := rfl
@[simp] theorem Thread.setW_qblk (t : Thread) (i : Nat) (v : Word) : (t.setW i v).qblk = t.qblk := rfl
@[simp] theorem Thread.setW_promise (t : Thread) (i : Nat) (v : Word) : (t.setW i v).promise = t.promise := rfl
@[simp] theorem Thread.setW_preempt (t : Thread) (i : Nat) (v : Word) : (t.setW i v).preempt = t.preempt := rfl
@[simp] theorem Thread.setW_stopReq (t : Thread) (i : Nat) (v : Word) : (t.setW i v).stopReq = t.stopReq := rfl
@[simp] theorem Thread.setW_drained (t : Thread) (i : Nat) (v : Word) : (t.setW i v).drained = t.drained := rfl
@[simp] theorem Thread.setW_notBefore (t : Thread) (i : Nat) (v : Word) : (t.setW i v).notBefore = t.notBefore := rfl
@[simp] theorem Thread.setW_rdy (t : Thread) (i : Nat) (v : Word) : (t.setW i v).rdy = t.rdy := rfl
@[simp] theorem Thread.setW_grp (t : Thread) (i : Nat) (v : Word) : (t.setW i v).grp = t.grp := rfl
@[simp] theorem Thread.setW_jobs (t : Thread) (i : Nat) (v : Word) : (t.setW i v).jobs = t.jobs := rfl
@[simp] theorem Thread.setW_lastStrm (t : Thread) (i : Nat) (v : Word) : (t.setW i v).lastStrm = t.lastStrm := rfl

@[simp] theorem Thread.setVr_st (t : Thread) (n : Nat) (v : V128) : (t.setVr n v).st = t.st := rfl
@[simp] theorem Thread.setVr_svst (t : Thread) (n : Nat) (v : V128) : (t.setVr n v).svst = t.svst := rfl
@[simp] theorem Thread.setVr_lid (t : Thread) (n : Nat) (v : V128) : (t.setVr n v).lid = t.lid := rfl
@[simp] theorem Thread.setVr_tid (t : Thread) (n : Nat) (v : V128) : (t.setVr n v).tid = t.tid := rfl
@[simp] theorem Thread.setVr_pc (t : Thread) (n : Nat) (v : V128) : (t.setVr n v).pc = t.pc := rfl
@[simp] theorem Thread.setVr_mode (t : Thread) (n : Nat) (v : V128) : (t.setVr n v).mode = t.mode := rfl
@[simp] theorem Thread.setVr_win (t : Thread) (n : Nat) (v : V128) : (t.setVr n v).win = t.win := rfl
@[simp] theorem Thread.setVr_pw (t : Thread) (n : Nat) (v : V128) : (t.setVr n v).pw = t.pw := rfl
@[simp] theorem Thread.setVr_q (t : Thread) (n : Nat) (v : V128) : (t.setVr n v).q = t.q := rfl
@[simp] theorem Thread.setVr_strm (t : Thread) (n : Nat) (v : V128) : (t.setVr n v).strm = t.strm := rfl
@[simp] theorem Thread.setVr_sys (t : Thread) (n : Nat) (v : V128) : (t.setVr n v).sys = t.sys := rfl
@[simp] theorem Thread.setVr_pend (t : Thread) (n : Nat) (v : V128) : (t.setVr n v).pend = t.pend := rfl
@[simp] theorem Thread.setVr_hold (t : Thread) (n : Nat) (v : V128) : (t.setVr n v).hold = t.hold := rfl
@[simp] theorem Thread.setVr_mail (t : Thread) (n : Nat) (v : V128) : (t.setVr n v).mail = t.mail := rfl
@[simp] theorem Thread.setVr_spec (t : Thread) (n : Nat) (v : V128) : (t.setVr n v).spec = t.spec := rfl
@[simp] theorem Thread.setVr_qblk (t : Thread) (n : Nat) (v : V128) : (t.setVr n v).qblk = t.qblk := rfl
@[simp] theorem Thread.setVr_promise (t : Thread) (n : Nat) (v : V128) : (t.setVr n v).promise = t.promise := rfl
@[simp] theorem Thread.setVr_preempt (t : Thread) (n : Nat) (v : V128) : (t.setVr n v).preempt = t.preempt := rfl
@[simp] theorem Thread.setVr_stopReq (t : Thread) (n : Nat) (v : V128) : (t.setVr n v).stopReq = t.stopReq := rfl
@[simp] theorem Thread.setVr_drained (t : Thread) (n : Nat) (v : V128) : (t.setVr n v).drained = t.drained := rfl
@[simp] theorem Thread.setVr_notBefore (t : Thread) (n : Nat) (v : V128) : (t.setVr n v).notBefore = t.notBefore := rfl
@[simp] theorem Thread.setVr_rdy (t : Thread) (n : Nat) (v : V128) : (t.setVr n v).rdy = t.rdy := rfl
@[simp] theorem Thread.setVr_grp (t : Thread) (n : Nat) (v : V128) : (t.setVr n v).grp = t.grp := rfl
@[simp] theorem Thread.setVr_jobs (t : Thread) (n : Nat) (v : V128) : (t.setVr n v).jobs = t.jobs := rfl
@[simp] theorem Thread.setVr_lastStrm (t : Thread) (n : Nat) (v : V128) : (t.setVr n v).lastStrm = t.lastStrm := rfl

@[simp] theorem Thread.later_st (t : Thread) (now i n : Nat) : (t.later now i n).st = t.st := rfl
@[simp] theorem Thread.later_svst (t : Thread) (now i n : Nat) : (t.later now i n).svst = t.svst := rfl
@[simp] theorem Thread.later_lid (t : Thread) (now i n : Nat) : (t.later now i n).lid = t.lid := rfl
@[simp] theorem Thread.later_tid (t : Thread) (now i n : Nat) : (t.later now i n).tid = t.tid := rfl
@[simp] theorem Thread.later_pc (t : Thread) (now i n : Nat) : (t.later now i n).pc = t.pc := rfl
@[simp] theorem Thread.later_mode (t : Thread) (now i n : Nat) : (t.later now i n).mode = t.mode := rfl
@[simp] theorem Thread.later_win (t : Thread) (now i n : Nat) : (t.later now i n).win = t.win := rfl
@[simp] theorem Thread.later_pw (t : Thread) (now i n : Nat) : (t.later now i n).pw = t.pw := rfl
@[simp] theorem Thread.later_q (t : Thread) (now i n : Nat) : (t.later now i n).q = t.q := rfl
@[simp] theorem Thread.later_vec (t : Thread) (now i n : Nat) : (t.later now i n).vec = t.vec := rfl
@[simp] theorem Thread.later_strm (t : Thread) (now i n : Nat) : (t.later now i n).strm = t.strm := rfl
@[simp] theorem Thread.later_sys (t : Thread) (now i n : Nat) : (t.later now i n).sys = t.sys := rfl
@[simp] theorem Thread.later_pend (t : Thread) (now i n : Nat) : (t.later now i n).pend = t.pend := rfl
@[simp] theorem Thread.later_hold (t : Thread) (now i n : Nat) : (t.later now i n).hold = t.hold := rfl
@[simp] theorem Thread.later_mail (t : Thread) (now i n : Nat) : (t.later now i n).mail = t.mail := rfl
@[simp] theorem Thread.later_spec (t : Thread) (now i n : Nat) : (t.later now i n).spec = t.spec := rfl
@[simp] theorem Thread.later_qblk (t : Thread) (now i n : Nat) : (t.later now i n).qblk = t.qblk := rfl
@[simp] theorem Thread.later_promise (t : Thread) (now i n : Nat) : (t.later now i n).promise = t.promise := rfl
@[simp] theorem Thread.later_preempt (t : Thread) (now i n : Nat) : (t.later now i n).preempt = t.preempt := rfl
@[simp] theorem Thread.later_stopReq (t : Thread) (now i n : Nat) : (t.later now i n).stopReq = t.stopReq := rfl
@[simp] theorem Thread.later_drained (t : Thread) (now i n : Nat) : (t.later now i n).drained = t.drained := rfl
@[simp] theorem Thread.later_notBefore (t : Thread) (now i n : Nat) : (t.later now i n).notBefore = t.notBefore := rfl
@[simp] theorem Thread.later_grp (t : Thread) (now i n : Nat) : (t.later now i n).grp = t.grp := rfl
@[simp] theorem Thread.later_jobs (t : Thread) (now i n : Nat) : (t.later now i n).jobs = t.jobs := rfl
@[simp] theorem Thread.later_lastStrm (t : Thread) (now i n : Nat) : (t.later now i n).lastStrm = t.lastStrm := rfl

@[simp] theorem Thread.setP_st (t : Thread) (n : Nat) (b : Bool) : (t.setP n b).st = t.st := by unfold Thread.setP; split <;> rfl
@[simp] theorem Thread.setP_svst (t : Thread) (n : Nat) (b : Bool) : (t.setP n b).svst = t.svst := by unfold Thread.setP; split <;> rfl
@[simp] theorem Thread.setP_lid (t : Thread) (n : Nat) (b : Bool) : (t.setP n b).lid = t.lid := by unfold Thread.setP; split <;> rfl
@[simp] theorem Thread.setP_tid (t : Thread) (n : Nat) (b : Bool) : (t.setP n b).tid = t.tid := by unfold Thread.setP; split <;> rfl
@[simp] theorem Thread.setP_pc (t : Thread) (n : Nat) (b : Bool) : (t.setP n b).pc = t.pc := by unfold Thread.setP; split <;> rfl
@[simp] theorem Thread.setP_mode (t : Thread) (n : Nat) (b : Bool) : (t.setP n b).mode = t.mode := by unfold Thread.setP; split <;> rfl
@[simp] theorem Thread.setP_win (t : Thread) (n : Nat) (b : Bool) : (t.setP n b).win = t.win := by unfold Thread.setP; split <;> rfl
@[simp] theorem Thread.setP_q (t : Thread) (n : Nat) (b : Bool) : (t.setP n b).q = t.q := by unfold Thread.setP; split <;> rfl
@[simp] theorem Thread.setP_vec (t : Thread) (n : Nat) (b : Bool) : (t.setP n b).vec = t.vec := by unfold Thread.setP; split <;> rfl
@[simp] theorem Thread.setP_strm (t : Thread) (n : Nat) (b : Bool) : (t.setP n b).strm = t.strm := by unfold Thread.setP; split <;> rfl
@[simp] theorem Thread.setP_sys (t : Thread) (n : Nat) (b : Bool) : (t.setP n b).sys = t.sys := by unfold Thread.setP; split <;> rfl
@[simp] theorem Thread.setP_pend (t : Thread) (n : Nat) (b : Bool) : (t.setP n b).pend = t.pend := by unfold Thread.setP; split <;> rfl
@[simp] theorem Thread.setP_hold (t : Thread) (n : Nat) (b : Bool) : (t.setP n b).hold = t.hold := by unfold Thread.setP; split <;> rfl
@[simp] theorem Thread.setP_mail (t : Thread) (n : Nat) (b : Bool) : (t.setP n b).mail = t.mail := by unfold Thread.setP; split <;> rfl
@[simp] theorem Thread.setP_spec (t : Thread) (n : Nat) (b : Bool) : (t.setP n b).spec = t.spec := by unfold Thread.setP; split <;> rfl
@[simp] theorem Thread.setP_qblk (t : Thread) (n : Nat) (b : Bool) : (t.setP n b).qblk = t.qblk := by unfold Thread.setP; split <;> rfl
@[simp] theorem Thread.setP_promise (t : Thread) (n : Nat) (b : Bool) : (t.setP n b).promise = t.promise := by unfold Thread.setP; split <;> rfl
@[simp] theorem Thread.setP_preempt (t : Thread) (n : Nat) (b : Bool) : (t.setP n b).preempt = t.preempt := by unfold Thread.setP; split <;> rfl
@[simp] theorem Thread.setP_stopReq (t : Thread) (n : Nat) (b : Bool) : (t.setP n b).stopReq = t.stopReq := by unfold Thread.setP; split <;> rfl
@[simp] theorem Thread.setP_drained (t : Thread) (n : Nat) (b : Bool) : (t.setP n b).drained = t.drained := by unfold Thread.setP; split <;> rfl
@[simp] theorem Thread.setP_notBefore (t : Thread) (n : Nat) (b : Bool) : (t.setP n b).notBefore = t.notBefore := by unfold Thread.setP; split <;> rfl
@[simp] theorem Thread.setP_rdy (t : Thread) (n : Nat) (b : Bool) : (t.setP n b).rdy = t.rdy := by unfold Thread.setP; split <;> rfl
@[simp] theorem Thread.setP_grp (t : Thread) (n : Nat) (b : Bool) : (t.setP n b).grp = t.grp := by unfold Thread.setP; split <;> rfl
@[simp] theorem Thread.setP_jobs (t : Thread) (n : Nat) (b : Bool) : (t.setP n b).jobs = t.jobs := by unfold Thread.setP; split <;> rfl
@[simp] theorem Thread.setP_lastStrm (t : Thread) (n : Nat) (b : Bool) : (t.setP n b).lastStrm = t.lastStrm := by unfold Thread.setP; split <;> rfl

/-! ## Accessors after updates -/

@[simp] theorem State.thread_setThread_same (s : State) (c : Nat) (t : Thread) : (s.setThread c t).thread c = t := mget_mset_same ..
theorem State.thread_setThread_other (s : State) {c c' : Nat} (t : Thread) (h : c' ≠ c) :
    (s.setThread c t).thread c' = s.thread c' := mget_mset_other _ _ _ h
@[simp] theorem State.t_setT (s : State) (t : Thread) : (s.setT t).t = t := mget_mset_same ..
theorem State.thread_setT_other (s : State) {c' : Nat} (t : Thread) (h : c' ≠ s.cur) : (s.setT t).thread c' = s.thread c' :=
  mget_mset_other _ _ _ h
@[simp] theorem State.thread_setCore (s : State) (k : Nat) (x : Core) (c : Nat) : (s.setCore k x).thread c = s.thread c := rfl
@[simp] theorem State.thread_setClu (s : State) (p : Nat) (x : Cluster) (c : Nat) : (s.setClu p x).thread c = s.thread c := rfl
@[simp] theorem State.thread_setLaunch (s : State) (l : Nat) (x : Launch) (c : Nat) : (s.setLaunch l x).thread c = s.thread c := rfl
@[simp] theorem State.thread_writeAt (s : State) (l : Loc) (bs : List Byte) (c : Nat) : (s.writeAt l bs).thread c = s.thread c := rfl
@[simp] theorem State.core_setCore_same (s : State) (k : Nat) (x : Core) : (s.setCore k x).core k = x := mget_mset_same ..
theorem State.core_setCore_other (s : State) {k k' : Nat} (x : Core) (h : k' ≠ k) : (s.setCore k x).core k' = s.core k' :=
  mget_mset_other _ _ _ h
@[simp] theorem State.core_setThread (s : State) (c : Nat) (t : Thread) (k : Nat) : (s.setThread c t).core k = s.core k := rfl
@[simp] theorem State.core_setT (s : State) (t : Thread) (k : Nat) : (s.setT t).core k = s.core k := rfl
@[simp] theorem State.clu_setClu_same (s : State) (p : Nat) (x : Cluster) : (s.setClu p x).clu p = x := mget_mset_same ..
theorem State.clu_setClu_other (s : State) {p p' : Nat} (x : Cluster) (h : p' ≠ p) : (s.setClu p x).clu p' = s.clu p' :=
  mget_mset_other _ _ _ h
@[simp] theorem State.clu_setThread (s : State) (c : Nat) (t : Thread) (p : Nat) : (s.setThread c t).clu p = s.clu p := rfl
@[simp] theorem State.clu_setT (s : State) (t : Thread) (p : Nat) : (s.setT t).clu p = s.clu p := rfl
@[simp] theorem State.launch_setLaunch_same (s : State) (l : Nat) (x : Launch) : (s.setLaunch l x).launch l = x := mget_mset_same ..
@[simp] theorem State.launch_setThread (s : State) (c : Nat) (t : Thread) (l : Nat) : (s.setThread c t).launch l = s.launch l := rfl
@[simp] theorem State.launch_setT (s : State) (t : Thread) (l : Nat) : (s.setT t).launch l = s.launch l := rfl

@[simp] theorem State.setPc_pc (s : State) (pc : Word) : (s.setPc pc).t.pc = pc := by simp [State.setPc]
@[simp] theorem State.advance_pc (s : State) : s.advance.t.pc = s.ir.next := by simp [State.advance]
@[simp] theorem State.jump_pc (s : State) (pc : Word) : (s.jump pc).t.pc = pc := by simp [State.jump]
@[simp] theorem State.setPc_w (s : State) (pc : Word) (n : Nat) : (s.setPc pc).t.w n = s.t.w n := by simp [State.setPc, Thread.w]
@[simp] theorem State.advance_w (s : State) (n : Nat) : s.advance.t.w n = s.t.w n := by simp [State.advance]
@[simp] theorem State.jump_w (s : State) (pc : Word) (n : Nat) : (s.jump pc).t.w n = s.t.w n := by simp [State.jump, Thread.w]
@[simp] theorem State.setPc_p (s : State) (pc : Word) (n : Nat) : (s.setPc pc).t.p n = s.t.p n := by simp [State.setPc, Thread.p]
@[simp] theorem State.advance_p (s : State) (n : Nat) : s.advance.t.p n = s.t.p n := by simp [State.advance]
@[simp] theorem State.advance_W (s : State) (a : BitVec 6) : s.advance.W a = s.W a := State.advance_w s _

/-- A window register reads what was written to it. -/
@[simp] theorem Thread.w_setW_same (t : Thread) (i : Nat) (v : Word) : (t.setW i v).w i = v := mget_mset_same ..

/-- Registers of different numbers are different registers. -/
theorem Thread.w_setW_other (t : Thread) {i j : Nat} (v : Word) (hi : i < 64) (hj : j < 64) (h : j ≠ i) :
    (t.setW i v).w j = t.w j := by
  have : (t.win.fb + j) % 64 ≠ (t.win.fb + i) % 64 := by omega
  exact mget_mset_other _ _ _ this

@[simp] theorem Thread.p_setW (t : Thread) (i : Nat) (v : Word) (n : Nat) : (t.setW i v).p n = t.p n := rfl
@[simp] theorem Thread.w_setP (t : Thread) (n : Nat) (b : Bool) (i : Nat) : (t.setP n b).w i = t.w i := by simp [Thread.w]
@[simp] theorem Thread.vr_setVr_same (t : Thread) (n : Nat) (v : V128) : (t.setVr n v).vr n = v := mget_mset_same ..
theorem Thread.vr_setVr_other (t : Thread) {n m : Nat} (v : V128) (h : m ≠ n) : (t.setVr n v).vr m = t.vr m :=
  mget_mset_other _ _ _ h

/-- p0 reads 1 whatever is written (R111). -/
@[simp] theorem Thread.p_zero (t : Thread) : t.p 0 = true := rfl

/-- The bits of the mask of predicate n. -/
theorem predicate_mask_bit : ∀ n < 8, ∀ m < 8, (BitVec.ofNat 8 (2 ^ n)).getLsbD m = decide (m = n) := by decide

theorem Thread.p_setP_same (t : Thread) {n : Nat} (b : Bool) (h0 : n ≠ 0) (h : n < 8) : (t.setP n b).p n = b := by
  cases b <;> simp only [Thread.setP, Thread.p, h0, if_false, if_true, Bool.false_eq_true, predicate_mask_bit n h n h, BitVec.getLsbD_or,
    BitVec.getLsbD_and, BitVec.getLsbD_not] <;> simp

theorem Thread.p_setP_other (t : Thread) {n m : Nat} (b : Bool) (hn : n < 8) (hm : m < 8) (h : m ≠ n) : (t.setP n b).p m = t.p m := by
  by_cases hz : n = 0
  · rw [Thread.setP, if_pos hz]
  · cases b <;> simp only [Thread.setP, Thread.p, hz, if_false, if_true, Bool.false_eq_true, predicate_mask_bit n hn m hm, BitVec.getLsbD_or,
      BitVec.getLsbD_and, BitVec.getLsbD_not] <;> simp [hm, h]

/-- W[a] after a write of W[b]. -/
theorem State.W_setW (s : State) (a b : BitVec 6) (v : Word) : (s.setW a v).W b = if b = a then v else s.W b := by
  simp only [State.W, State.setW, State.t_setT]
  split
  · subst_vars; simp
  · refine Thread.w_setW_other _ _ a.isLt b.isLt ?_
    intro h
    exact ‹¬ b = a› (BitVec.eq_of_toNat_eq h)

end Sys2Proof.Machine
end

