-- ==== Sys2Proof/Laws/Homes.lean ====
section
/-! SUPPORT. What the accesses performed at a home do to memory: reads leave it, writes keep its canonical form, and a write to a slice
without a mark is a plain write. -/

namespace Sys2Proof.Machine

/-! ## Errors and the L2 leave memory alone -/

@[simp] theorem State.logErr_mem (s : State) (b : Nat) (ch : Option Nat) (t a w p : Nat) : (s.logErr b ch t a w p).mem = s.mem := rfl

@[simp] theorem State.remapInsert_mem (s : State) (a addr : Nat) (lost : Bool) : (s.remapInsert a addr lost).mem = s.mem := by
  dsimp only [State.remapInsert]; split <;> first | rfl | (split <;> rfl)

@[simp] theorem State.candidate_mem (s : State) (a addr : Nat) : (s.candidate a addr).mem = s.mem := by
  dsimp only [State.candidate]; repeat' split
  all_goals first | rfl | simp

@[simp] theorem State.logAtom_mem (s : State) (ag : Agent) (a t addr : Nat) : (s.logAtom ag a t addr).mem = s.mem := rfl

@[simp] theorem State.readAtomAt_mem (s : State) (ag : Agent) (a addr : Nat) : (s.readAtomAt ag a addr).1.mem = s.mem := by
  dsimp only [State.readAtomAt]; repeat' split
  all_goals simp

@[simp] theorem State.readAtom_mem (s : State) (ag : Agent) (pa : Nat) : (s.readAtom ag pa).1.mem = s.mem := State.readAtomAt_mem ..

@[simp] theorem State.readAtoms_mem (ag : Agent) (pa k : Nat) : ∀ (n lo : Nat) (s : State), (State.readAtoms ag pa k n lo s).1.mem = s.mem
  | 0, _, _ => rfl
  | n + 1, lo, s => by simp only [State.readAtoms, State.readAtoms_mem ag pa k n, State.readAtom_mem]

@[simp] theorem State.arrHit_mem (s : State) (pa : Nat) : (s.arrHit pa).mem = s.mem := by dsimp only [State.arrHit]; split <;> rfl

@[simp] theorem State.l2Mark_mem (s : State) (pa v d : Nat) : (s.l2Mark pa v d).mem = s.mem := rfl

@[simp] theorem State.l2Drop_mem (s : State) (l : Nat) : (s.l2Drop l).mem = s.mem := rfl

@[simp] theorem State.l2Install_mem (s : State) (pa cls v d : Nat) : (s.l2Install pa cls v d).mem = s.mem := by
  dsimp only [State.l2Install]; repeat' split
  all_goals rfl

@[simp] theorem State.l2ReadSector_mem (s : State) (ag : Agent) (pa n cls : Nat) (count : Bool) :
    (s.l2ReadSector ag pa n cls count).1.mem = s.mem := by
  dsimp only [State.l2ReadSector]
  have h1 : (if count && (s.l2Find pa).isSome then s.arrHit pa else s).mem = s.mem := by split <;> simp
  generalize (if count && (s.l2Find pa).isSome then s.arrHit pa else s) = s1 at h1 ⊢
  split
  · exact h1
  · split
    · rw [State.readAtoms_mem, h1]
    · split
      · rw [State.l2Mark_mem, State.readAtoms_mem, h1]
      · rw [State.l2Install_mem, State.readAtoms_mem, h1]

@[simp] theorem State.l2Read_mem (ag : Agent) (cls : Nat) (count : Bool) : ∀ (ps : List (Nat × Nat)) (s : State),
    (State.l2Read ag cls count ps s).1.mem = s.mem
  | [], _ => rfl
  | p :: ps, s => by simp only [State.l2Read, State.l2Read_mem ag cls count ps, State.l2ReadSector_mem]

/-- A read at a home leaves memory as it is. -/
@[simp] theorem State.homeRead_mem (s : State) (ag : Agent) (l : Loc) (n cls : Nat) : (s.homeRead ag l n cls).1.mem = s.mem := by
  dsimp only [State.homeRead]; split
  · split
    · exact State.l2Read_mem ..
    · rfl
  · rfl

@[simp] theorem State.storeAtom_mem (s : State) (ag : Agent) (a addr : Nat) (whole held : Bool) :
    (s.storeAtom ag a addr whole held).mem = s.mem := by
  dsimp only [State.storeAtom]; repeat' split
  all_goals simp

@[simp] theorem State.writeAtoms_mem (ag : Agent) (pa n : Nat) : ∀ (k lo : Nat) (s : State), (State.writeAtoms ag pa n k lo s).mem = s.mem
  | 0, _, _ => rfl
  | k + 1, lo, s => by simp only [State.writeAtoms, State.writeAtoms_mem ag pa n k, State.storeAtom_mem]

@[simp] theorem State.noteDirty_mem (s : State) (pa n : Nat) : (s.noteDirty pa n).mem = s.mem := by
  dsimp only [State.noteDirty]; repeat' split
  all_goals rfl

@[simp] theorem State.passLeases_mem (s : State) (pa : Nat) : (s.passLeases pa).mem = s.mem := by
  dsimp only [State.passLeases]; split <;> rfl

@[simp] theorem State.l2WriteSector_mem (s : State) (pa cls : Nat) (count : Bool) : (s.l2WriteSector pa cls count).mem = s.mem := by
  dsimp only [State.l2WriteSector]; repeat' split
  all_goals simp

@[simp] theorem State.l2WriteSectors_mem (cls : Nat) (count : Bool) : ∀ (ps : List (Nat × Nat)) (s : State),
    (ps.foldl (fun (a : State) p => a.l2WriteSector p.1 cls count) s).mem = s.mem
  | [], _ => rfl
  | p :: ps, s => by simp only [List.foldl_cons, State.l2WriteSectors_mem cls count ps, State.l2WriteSector_mem]

@[simp] theorem State.conflict_mem (s : State) (w : Writer) (l : Loc) (n : Nat) : (s.conflict w l n).mem = s.mem := by
  have h : ∀ (ms : List Mark) (a : State), (ms.foldl (fun (a : State) m => a.noteAbort m.c) a).mem = a.mem := by
    intro ms
    induction ms with
    | nil => intro a; rfl
    | cons m ms ih => intro a; rw [List.foldl_cons, ih]; rfl
  exact h _ _

/-! ## Writes keep the canonical form -/

theorem State.dramWrite_wf (s : State) (ag : Agent) (pa : Nat) (bs : List Byte) (cls : Nat) (count : Bool)
    (h : Memory.wf s.mem = true) : Memory.wf (s.dramWrite ag pa bs cls count).mem = true := by
  simp only [State.dramWrite, State.l2WriteSectors_mem, State.writeAtoms_mem, State.noteDirty_mem]
  exact memWrite_wf _ _ _ h

/-- A write at a home keeps memory's canonical form. -/
theorem State.homeWrite_wf (s : State) (w : Writer) (l : Loc) (bs : List Byte) (cls : Nat) (h : Memory.wf s.mem = true) :
    Memory.wf (s.homeWrite w l bs cls).mem = true := by
  have hc : Memory.wf (s.conflict w l bs.length).mem = true := by rw [State.conflict_mem]; exact h
  dsimp only [State.homeWrite]; split
  · split
    · exact State.dramWrite_wf _ _ _ _ _ _ (by rw [State.passLeases_mem]; exact hc)
    · split
      · exact hc
      · exact State.writeAt_wf _ _ _ hc
  · exact State.writeAt_wf _ _ _ hc

theorem State.writeUnit_wf (s : State) (w : Writer) (u : UnitW) (cls : Nat) (h : Memory.wf s.mem = true) :
    Memory.wf (s.writeUnit w u cls).mem = true := by
  have g : ∀ (rs : List (Nat × List Byte)) (a : State), Memory.wf a.mem = true →
      Memory.wf (rs.foldl (fun (a : State) (r : Nat × List Byte) => a.homeWrite w (u.loc.add r.1) r.2 cls) a).mem = true := by
    intro rs
    induction rs with
    | nil => intro a ha; exact ha
    | cons r rs ih => intro a ha; exact ih _ (State.homeWrite_wf _ _ _ _ _ ha)
  exact g _ _ h

theorem State.writeUnits_wf (w : Writer) (cls : Nat) : ∀ (us : List UnitW) (s : State), Memory.wf s.mem = true →
    Memory.wf (us.foldl (fun (a : State) u => a.writeUnit w u cls) s).mem = true
  | [], _, h => h
  | u :: us, s, h => State.writeUnits_wf w cls us _ (State.writeUnit_wf s w u cls h)

/-! ## Writes to slices without marks -/

/-- Without a mark, a write to a slice changes the bytes written and nothing else. -/
theorem State.homeWrite_slice (s : State) (w : Writer) (k o : Nat) (bs : List Byte) (cls : Nat) (h : s.marks = []) :
    s.homeWrite w (.slice k o) bs cls = s.writeAt (.slice k o) bs := by
  simp only [State.homeWrite, State.conflict]; rw [h]; rfl

/-- A unit of a slice. -/
def UnitW.inSlice (u : UnitW) : Prop := ∃ k o, u.loc = .slice k o

theorem State.writeUnits_slice (w : Writer) (cls : Nat) : ∀ (us : List UnitW) (s : State), s.marks = [] → (∀ u ∈ us, u.inSlice) →
    ∃ m, us.foldl (fun (a : State) u => a.writeUnit w u cls) s = { s with mem := m }
  | [], s, _, _ => ⟨s.mem, rfl⟩
  | u :: us, s, h, hu => by
    obtain ⟨k, o, hl⟩ := hu u (by simp)
    have g : ∀ (rs : List (Nat × List Byte)) (a : State), a.marks = [] →
        ∃ m, rs.foldl (fun (a : State) (r : Nat × List Byte) => a.homeWrite w (u.loc.add r.1) r.2 cls) a = { a with mem := m } := by
      intro rs
      induction rs with
      | nil => intro a _; exact ⟨a.mem, rfl⟩
      | cons r rs ih =>
        intro a ha
        have e : a.homeWrite w (u.loc.add r.1) r.2 cls = a.writeAt (.slice k (o + r.1)) r.2 := by
          rw [hl]; exact State.homeWrite_slice a w k (o + r.1) r.2 cls ha
        rw [List.foldl_cons, e]
        obtain ⟨m, hm⟩ := ih (a.writeAt (.slice k (o + r.1)) r.2) ha
        exact ⟨m, hm⟩
    obtain ⟨m, hm⟩ := g (runsOf u.cells) s h
    have e : s.writeUnit w u cls = { s with mem := m } := hm
    rw [List.foldl_cons, e]
    obtain ⟨m2, h2⟩ := State.writeUnits_slice w cls us { s with mem := m } h fun v hv => hu v (by simp [hv])
    exact ⟨m2, h2⟩

theorem addUnit_slice (k o : Nat) (bs : List Byte) : ∀ us : List UnitW, (∀ u ∈ us, u.inSlice) → ∀ u ∈ addUnit us (.slice k o) bs, u.inSlice
  | [], _, u, h => by
    simp only [addUnit, List.mem_singleton] at h
    subst h; exact ⟨k, o / 64 * 64, rfl⟩
  | v :: us, hv, u, h => by
    simp only [addUnit] at h
    split at h
    · rcases List.mem_cons.1 h with rfl | h
      · exact hv v (by simp)
      · exact hv u (by simp [h])
    · rcases List.mem_cons.1 h with rfl | h
      · exact hv _ (by simp)
      · exact addUnit_slice k o bs us (fun x hx => hv x (by simp [hx])) u h

theorem State.engTargetL_slice (s : State) (w : Who) : ∀ (ps : List (Word × Nat)) (bs : List Byte) (us : List UnitW),
    (∀ p ∈ ps, ∃ k o, s.access w p.1 p.2 1 { w := true } = .ok (.slice k o)) → (∀ u ∈ us, u.inSlice) →
    ∃ vs, s.engTargetL w ps bs us = .ok vs ∧ ∀ v ∈ vs, v.inSlice
  | [], _, us, _, hu => ⟨us, rfl, hu⟩
  | p :: ps, bs, us, hp, hu => by
    obtain ⟨k, o, h⟩ := hp p (by simp)
    simp only [State.engTargetL, h]
    exact State.engTargetL_slice s w ps _ _ (fun q hq => hp q (by simp [hq])) (addUnit_slice k o _ us hu)

/-- The pieces of a range lie in it. -/
theorem granules_within : ∀ (k : Nat) (va : Word) (n : Nat), va.toNat + n < 2 ^ 64 → ∀ p ∈ granules k va n,
    va.toNat ≤ p.1.toNat ∧ p.1.toNat + p.2 ≤ va.toNat + n
  | 0, _, _, _, p, hp => by cases hp
  | k + 1, va, n, h, p, hp => by
    simp only [granules] at hp
    split at hp
    · cases hp
    · rename_i hn
      have hm : min n (64 - va.toNat % 64) ≤ n := Nat.min_le_left ..
      rcases List.mem_cons.1 hp with rfl | hp
      · exact ⟨Nat.le_refl _, by dsimp only; omega⟩
      · have e : (va + BitVec.ofNat 64 (min n (64 - va.toNat % 64))).toNat = va.toNat + min n (64 - va.toNat % 64) := by
          rw [BitVec.toNat_add, BitVec.toNat_ofNat, Nat.mod_eq_of_lt (a := min n (64 - va.toNat % 64)) (by omega), Nat.mod_eq_of_lt (by omega)]
        have g := granules_within k _ (n - min n (64 - va.toNat % 64)) (by rw [e]; omega) p hp
        rw [e] at g
        omega

/-- No piece of a range is empty. -/
theorem granules_pos : ∀ (k : Nat) (va : Word) (n : Nat), ∀ p ∈ granules k va n, 0 < p.2
  | 0, _, _, p, hp => by cases hp
  | k + 1, va, n, p, hp => by
    simp only [granules] at hp
    split at hp
    · cases hp
    · rcases List.mem_cons.1 hp with rfl | hp
      · dsimp only; omega
      · exact granules_pos k _ _ p hp

/-- An unaligned access within the local alias reaches the core's slice. -/
theorem State.access_alias (s : State) (w : Who) (va : Word) (n : Nat) (need : Need) (hs : w.steward = false)
    (h1 : aliasBase ≤ va.toNat) (h2 : va.toNat + n ≤ aliasBase + s.lmemBytes w.pcl) (h3 : va.toNat < aliasBase + 2 ^ 15) :
    s.access w va n 1 need = .ok (.slice w.core (va.toNat - aliasBase)) := by
  have h0 : ¬ 2 ^ 56 ≤ va.toNat := by simp only [aliasBase] at h3; omega
  have ha : isAlias va.toNat = true := by simp only [isAlias, Bool.and_eq_true, decide_eq_true_eq]; exact ⟨h1, h3⟩
  have hl : va.toNat - aliasBase + n ≤ s.lmemBytes w.pcl := by omega
  simp only [State.access, if_neg h0, Nat.mod_one, ne_eq, not_true_eq_false, ↓reduceIte, ha, hs, Bool.false_eq_true, hl]

/-- The units of an engine's write to local memory, which nothing holds up. -/
theorem State.engTarget_alias (s : State) (w : Who) (va : Word) (bs : List Byte) (hr : s.resv = []) (ho : s.owned = [])
    (hs : w.steward = false) (h1 : aliasBase ≤ va.toNat) (h2 : va.toNat + bs.length ≤ aliasBase + s.lmemBytes w.pcl)
    (h3 : s.lmemBytes w.pcl ≤ 2 ^ 15) :
    ∃ us, s.engTarget w va bs [] = .ok us ∧ ∀ u ∈ us, s.unitReady u = true ∧ s.isOwned u.loc (unitSize u.loc) = false ∧ u.inSlice := by
  have hp : ∀ p ∈ piecesOf va bs.length, ∃ k o, s.access w p.1 p.2 1 { w := true } = .ok (.slice k o) := by
    intro p hp
    have hb : aliasBase = 0x00FFFFFFFFFF0000 := rfl
    have g := granules_within _ va bs.length (by omega) p hp
    have h5 := granules_pos _ _ _ p hp
    exact ⟨_, _, State.access_alias s w p.1 p.2 _ hs (by omega) (by omega) (by omega)⟩
  obtain ⟨us, e, h⟩ := State.engTargetL_slice s w _ bs [] hp (by simp)
  have hb : aliasBase = 0x00FFFFFFFFFF0000 := rfl
  have sp : s.spanOk w va bs.length = true := by
    rcases Nat.lt_or_ge va.toNat (aliasBase + 2 ^ 15) with h6 | h6
    · have hi : isAlias va.toNat = true := by rw [isAlias, decide_eq_true h1, decide_eq_true h6]; rfl
      simp only [State.spanOk, hi, ↓reduceIte, hs, Bool.false_eq_true, decide_eq_true_eq]; omega
    · have hi : isAlias va.toNat = false := by rw [isAlias, decide_eq_false (Nat.not_lt.2 h6), Bool.and_false]
      have hm : isMesh va.toNat = false := by
        rw [isMesh, decide_eq_false (by rw [hb] at h6; simp only [meshBase]; omega : ¬ va.toNat < meshBase + 2 ^ 48), Bool.and_false]
      have a1 : va.toNat + bs.length ≤ 2 ^ 56 := by omega
      have a2 : ¬ va.toNat < aliasBase := by omega
      have a3 : ¬ va.toNat < meshBase := by simp only [meshBase]; omega
      simp only [State.spanOk, hi, hm, Bool.false_eq_true, ↓reduceIte, decide_eq_true a1, decide_eq_false a2, decide_eq_false a3,
        Bool.false_and, Bool.not_false, Bool.and_self]
  refine ⟨us, by rw [State.engTarget, if_pos sp, e], fun u hu => ?_⟩
  obtain ⟨k, o, hl⟩ := h u hu
  refine ⟨?_, by simp [State.isOwned, ho], k, o, hl⟩
  simp only [State.unitReady, List.all_eq_true]
  intro r _
  simp [hl, Loc.add, State.reserved, hr, State.leaseHolds, State.dramReady]

/-- A handler's write to local memory that nothing holds up changes memory only. -/
theorem State.handlerWrite_alias (s : State) (w : Who) (va : Word) (bs : List Byte) (hm : s.marks = []) (hr : s.resv = [])
    (ho : s.owned = []) (hs : w.steward = false) (h1 : aliasBase ≤ va.toNat)
    (h2 : va.toNat + bs.length ≤ aliasBase + s.lmemBytes w.pcl) (h3 : s.lmemBytes w.pcl ≤ 2 ^ 15) :
    ∃ m, s.handlerWrite w va bs = .ok { s with mem := m } := by
  obtain ⟨us, e, h⟩ := State.engTarget_alias s w va bs hr ho hs h1 h2 h3
  have hb : (us.any fun u => !s.unitReady u || s.isOwned u.loc (unitSize u.loc)) = false := by
    rw [List.any_eq_false]
    intro u hu
    simp [(h u hu).1, (h u hu).2.1]
  obtain ⟨m, h4⟩ := State.writeUnits_slice { c := none, vt := 0, code := 1 } 0 us s hm fun u hu => (h u hu).2.2
  refine ⟨m, ?_⟩
  simp only [State.handlerWrite, e, hb, Bool.false_eq_true, ↓reduceIte, h4]

/-! ## The length of a thread record (R411) -/

@[simp] theorem leBytes_length (n v : Nat) : (leBytes n v).length = n := by simp [leBytes]

@[simp] theorem State.bytesAt_length (s : State) (l : Loc) (n : Nat) : (s.bytesAt l n).length = n := by
  cases l <;> simp [State.bytesAt, State.keys]

@[simp] theorem padTo_length (n : Nat) (l : List Byte) : (padTo n l).length = n := by
  simp only [padTo, List.length_append, List.length_take, List.length_replicate]; omega

@[simp] theorem wordBytes_length : ∀ l : List Word, (wordBytes l).length = 8 * l.length
  | [] => rfl
  | w :: l => by
    have e : wordBytes (w :: l) = leBytes 8 w.toNat ++ wordBytes l := rfl
    rw [e, List.length_append, leBytes_length, wordBytes_length l, List.length_cons]; omega

theorem Thread.recLow_length (t : Thread) : t.recLow.length = 2048 := by
  simp [Thread.recLow, List.range, List.range.loop]

theorem Thread.recHigh_length (t : Thread) (dr : Bool) : (t.recHigh dr).length = 1536 := by
  simp only [Thread.recHigh, Thread.recRegs, Thread.recWords, List.length_append, padTo_length, wordBytes_length, leBytes_length,
    List.length_replicate, List.flatMap_cons, List.flatMap_nil, List.length_cons, List.length_nil]

theorem Strm.image_length (r : Strm) : r.image.length = 64 := by simp [Strm.image]

theorem flatten_map_length {α : Type} (f : α → List Byte) (n : Nat) (h : ∀ x, (f x).length = n) : ∀ l : List α,
    (l.map f).flatten.length = n * l.length
  | [] => rfl
  | x :: l => by
    rw [List.map_cons, List.flatten_cons, List.length_append, h, flatten_map_length f n h l, List.length_cons, Nat.mul_succ]; omega

theorem Thread.images_length (t : Thread) : t.images.length = 512 := flatten_map_length _ 64 (fun _ => Strm.image_length _) _

theorem Tctx.image_length (x : Tctx) (st : Nat → Word) : (x.image st).length = 8704 := by
  simp only [Tctx.image, List.length_append, leBytes_length, List.length_replicate,
    flatten_map_length (fun i => leBytes 4 (x.el (i / 256) (i % 256 / 16) (i % 16))) 4 (fun _ => leBytes_length _ _),
    flatten_map_length (fun t => leBytes 8 (st t).toNat) 8 (fun _ => leBytes_length _ _),
    flatten_map_length (fun i => leBytes 8 (x.log.getD i 0).toNat) 8 (fun _ => leBytes_length _ _), List.length_range]

theorem entryBytes_length (page : Nat) (base : Half) (f : Fld) (n : BitVec 12) (g m : Bool) (vals : List Word) :
    (entryBytes page base f n g m vals).length = 32 := by
  simp only [entryBytes, List.length_append, leBytes_length]

theorem Group.area_length (g : Group) : g.area.length = 8704 + 32 * g.jobs.length := by
  simp only [Group.area, List.length_append, Tctx.image_length,
    flatten_map_length (fun j : Job => entryBytes 5 j.base j.f j.seqno true false (j.vals.take 2)) 32 fun _ => entryBytes_length ..]

/-- A context whose stream context is not resident is saved into local memory that nothing holds up (R417). -/
theorem State.saveCtx_alias (s : State) (c : Nat) (va : Word) (hm : s.marks = []) (hr : s.resv = []) (ho : s.owned = [])
    (hc : s.savesImages c = false) (h1 : aliasBase ≤ va.toNat)
    (h2 : va.toNat + 4096 ≤ aliasBase + s.lmemBytes (coreId c / 16)) (h3 : s.lmemBytes (coreId c / 16) ≤ 2 ^ 15) :
    ∃ s2, s.saveCtx c va = .ok s2 := by
  have hb : aliasBase = 0x00FFFFFFFFFF0000 := rfl
  have a1 : (va + 0xA00).toNat = va.toNat + 0xA00 := by
    rw [BitVec.toNat_add]; exact Nat.mod_eq_of_lt (by show va.toNat + 0xA00 < 2 ^ 64; omega)
  obtain ⟨m1, e1⟩ := State.handlerWrite_alias s (s.handlerWho (coreId c)) va (s.thread c).recLow hm hr ho rfl h1
    (by rw [Thread.recLow_length]; exact Nat.le_trans (by omega) h2) h3
  obtain ⟨m2, e2⟩ := State.handlerWrite_alias { s with mem := m1 } (s.handlerWho (coreId c)) (va + 0xA00)
    ((s.thread c).recHigh (s.thread c).drained) hm hr ho rfl (by omega)
    (by rw [Thread.recHigh_length, a1]; exact Nat.le_trans (by omega) h2) h3
  unfold State.saveCtx
  simp only [hc, e1, Bool.false_eq_true, ↓reduceIte, Bool.false_or, e2]
  exact ⟨_, rfl⟩

/-! ## Saving and restoring through the mesh range (R204, R408, R413) -/

/-- No piece of a range crosses a multiple of 64. -/
theorem granules_fit : ∀ (k : Nat) (va : Word) (n : Nat), ∀ p ∈ granules k va n, p.1.toNat % 64 + p.2 ≤ 64
  | 0, _, _, p, hp => by cases hp
  | k + 1, va, n, p, hp => by
    simp only [granules] at hp
    split at hp
    · cases hp
    · rcases List.mem_cons.1 hp with rfl | hp
      · dsimp only; omega
      · exact granules_fit k _ _ p hp

/-- The mesh ranges of vclusters from `lo` to `hi` are open to an agent: placed clusters with whole slices. -/
def State.meshOpen (s : State) (w : Who) (lo hi : Nat) : Prop :=
  w.steward = false ∧ hi ≤ 4096 ∧ ∀ j, lo ≤ j → j < hi →
    let e := mget 0 (s.clu w.pcl).vct j
    e.getLsbD 15 = true ∧ e.getLsbD 14 = false ∧ s.cutFrom w.pcl (.slice (e.toNat % 4096 * 16) 0) = false ∧ s.lmemBytes (e.toNat % 4096) = 32768

/-- Bounds of an address between two multiples of 512 KiB above a base. -/
theorem range_bounds (M A v n lo hi : Nat) (hM : M = 71494644084506624) (hA : A = 72057594037862400) (h1 : M + lo * 524288 ≤ v)
    (h2 : v + n ≤ M + hi * 524288) (h4 : 0 < n) (hh : hi ≤ 4096) :
    (v < 72057594037927936 ∧ v < A) ∧ M ≤ v ∧ (v < M + 281474976710656 ∧ v < M + 2147483648) ∧
      lo ≤ v / 524288 % 4096 ∧ v / 524288 % 4096 < hi := by omega

/-- The bounds of an address in a mesh range. -/
theorem mesh_bounds (v n lo hi : Nat) (h1 : meshBase + lo * 2 ^ 19 ≤ v) (h2 : v + n ≤ meshBase + hi * 2 ^ 19) (h4 : 0 < n)
    (hh : hi ≤ 4096) : (v < 2 ^ 56 ∧ v < aliasBase) ∧ meshBase ≤ v ∧ (v < meshBase + 2 ^ 48 ∧ v < meshBase + 2 ^ 31) ∧
      lo ≤ v / 2 ^ 19 % 4096 ∧ v / 2 ^ 19 % 4096 < hi := by
  have p19 : (2 : Nat) ^ 19 = 524288 := rfl
  have p31 : (2 : Nat) ^ 31 = 2147483648 := rfl
  have p48 : (2 : Nat) ^ 48 = 281474976710656 := rfl
  have p56 : (2 : Nat) ^ 56 = 72057594037927936 := rfl
  rw [p19] at h1 h2
  rw [p19, p31, p48, p56]
  exact range_bounds meshBase aliasBase v n lo hi rfl rfl h1 h2 h4 hh

/-- An unaligned access to an open mesh range reaches a slice. -/
theorem State.access_mesh (s : State) (w : Who) (va : Word) (n : Nat) (need : Need) (lo hi : Nat) (h : s.meshOpen w lo hi)
    (h1 : meshBase + lo * 2 ^ 19 ≤ va.toNat) (h2 : va.toNat + n ≤ meshBase + hi * 2 ^ 19) (h3 : va.toNat % 64 + n ≤ 64) (h4 : 0 < n) :
    ∃ k o, s.access w va n 1 need = .ok (.slice k o) := by
  obtain ⟨hs, hh, g⟩ := h
  obtain ⟨⟨m1, m2⟩, b2, ⟨b3, m3⟩, m4, m5⟩ := mesh_bounds va.toNat n lo hi h1 h2 h4 hh
  have a0 := Nat.not_le.2 m1
  have a1 : isAlias va.toNat = false := by rw [isAlias, decide_eq_false (Nat.not_le.2 m2), Bool.false_and]
  have a2 : isMesh va.toNat = true := by rw [isMesh, decide_eq_true b2, decide_eq_true b3]; rfl
  have a3 := Nat.not_le.2 m3
  have a4 : (w.handler && decide (aliasBase + 2 ^ 15 ≤ va.toNat) && decide (va.toNat + n ≤ aliasBase + 2 ^ 15 + 4096)) = false := by
    rw [decide_eq_false (Nat.not_le.2 (Nat.lt_of_lt_of_le m2 (Nat.le_add_right _ _))), Bool.and_false, Bool.false_and]
  obtain ⟨e1, e2, e3, e4⟩ := g (va.toNat / 2 ^ 19 % 4096) m4 m5
  have a5 : va.toNat % 2 ^ 15 + n ≤ 32768 := by omega
  simp only [State.access, if_neg a0, Nat.mod_one, ne_eq, not_true_eq_false, ↓reduceIte, a1, Bool.false_eq_true, a4, hs, a2, if_neg a3, e1,
    e2, e3, e4, a5, Bool.not_true, Bool.or_self]
  exact ⟨_, _, rfl⟩

/-- Every piece of a range in an open mesh range reaches a slice. -/
theorem State.pieces_mesh (s : State) (w : Who) (va : Word) (n : Nat) (need : Need) (lo hi : Nat) (h : s.meshOpen w lo hi)
    (h1 : meshBase + lo * 2 ^ 19 ≤ va.toNat) (h2 : va.toNat + n ≤ meshBase + hi * 2 ^ 19) :
    ∀ p ∈ piecesOf va n, ∃ k o, s.access w p.1 p.2 1 need = .ok (.slice k o) := by
  intro p hp
  have hb : meshBase = 0x00FE000000000000 := rfl
  have hh := h.2.1
  have g := granules_within _ va n (by omega) p hp
  exact State.access_mesh s w p.1 p.2 need lo hi h (by omega) (by omega) (granules_fit _ _ _ p hp) (granules_pos _ _ _ p hp)

/-- A range of an open mesh range that ends in the slice of its first byte stays in that slice. -/
theorem State.spanOk_mesh (s : State) (w : Who) (va : Word) (n : Nat) (lo hi : Nat) (h : s.meshOpen w lo hi)
    (h1 : meshBase + lo * 2 ^ 19 ≤ va.toNat) (h2 : va.toNat + n ≤ meshBase + hi * 2 ^ 19) (h3 : va.toNat % 2 ^ 15 + n ≤ 32768)
    (h4 : 0 < n) : s.spanOk w va n = true := by
  obtain ⟨hs, hh, g⟩ := h
  obtain ⟨⟨_, m2⟩, b2, ⟨b3, _⟩, m4, m5⟩ := mesh_bounds va.toNat n lo hi h1 h2 h4 hh
  have a1 : isAlias va.toNat = false := by rw [isAlias, decide_eq_false (Nat.not_le.2 m2), Bool.false_and]
  have a2 : isMesh va.toNat = true := by rw [isMesh, decide_eq_true b2, decide_eq_true b3]; rfl
  obtain ⟨_, _, _, e4⟩ := g (va.toNat / 2 ^ 19 % 4096) m4 m5
  simp only [State.spanOk, a1, a2, Bool.false_eq_true, ↓reduceIte, e4, decide_eq_true h3, Bool.or_true]

/-- A handler's write of pieces that all reach slices, where nothing holds them up, changes memory only. -/
theorem State.handlerWrite_slices (s : State) (w : Who) (va : Word) (bs : List Byte) (hm : s.marks = []) (hr : s.resv = [])
    (ho : s.owned = []) (sp : s.spanOk w va bs.length = true) (hp : ∀ p ∈ piecesOf va bs.length, ∃ k o, s.access w p.1 p.2 1 { w := true } = .ok (.slice k o)) :
    ∃ m, s.handlerWrite w va bs = .ok { s with mem := m } := by
  obtain ⟨us, e, h⟩ := State.engTargetL_slice s w _ bs [] hp (by simp)
  have hb : (us.any fun u => !s.unitReady u || s.isOwned u.loc (unitSize u.loc)) = false := by
    rw [List.any_eq_false]
    intro u hu
    obtain ⟨k, o, hl⟩ := h u hu
    have hx : s.unitReady u = true := by
      simp only [State.unitReady, List.all_eq_true]
      intro r _
      simp [hl, Loc.add, State.reserved, hr, State.leaseHolds, State.dramReady]
    simp [hx, State.isOwned, ho]
  obtain ⟨m, h4⟩ := State.writeUnits_slice { c := none, vt := 0, code := 1 } 0 us s hm h
  have e1 : s.engTarget w va bs [] = .ok us := by rw [State.engTarget, if_pos sp, e]
  refine ⟨m, ?_⟩
  simp only [State.handlerWrite, e1, hb, Bool.false_eq_true, ↓reduceIte, h4]

/-- Writes that all go through an open mesh range change memory only. -/
theorem State.writeAll_mesh (w : Who) (lo hi : Nat) : ∀ (ps : List (Word × List Byte)) (s : State), s.marks = [] → s.resv = [] →
    s.owned = [] → s.meshOpen w lo hi →
    (∀ p ∈ ps, meshBase + lo * 2 ^ 19 ≤ p.1.toNat ∧ p.1.toNat + p.2.length ≤ meshBase + hi * 2 ^ 19 ∧
      p.1.toNat % 2 ^ 15 + p.2.length ≤ 32768 ∧ 0 < p.2.length) →
    ∃ m, s.writeAll w ps = ({ s with mem := m }, none)
  | [], s, _, _, _, _, _ => ⟨s.mem, rfl⟩
  | p :: ps, s, hm, hr, ho, h, hp => by
    obtain ⟨g1, g2, g3, g4⟩ := hp p (by simp)
    obtain ⟨m, e⟩ := State.handlerWrite_slices s w p.1 p.2 hm hr ho (State.spanOk_mesh s w p.1 _ lo hi h g1 g2 g3 g4) (State.pieces_mesh s w p.1 _ _ lo hi h g1 g2)
    obtain ⟨m2, e2⟩ := State.writeAll_mesh w lo hi ps { s with mem := m } hm hr ho h fun q hq => hp q (by simp [hq])
    exact ⟨m2, by simp only [State.writeAll, e, e2]⟩

theorem State.engReadL_slice (ag : Agent) (w : Who) (cls : Nat) : ∀ (ps : List (Word × Nat)) (s : State), s.resv = [] →
    (∀ p ∈ ps, ∃ k o, s.access w p.1 p.2 1 { r := true } = .ok (.slice k o)) → ∃ bs, State.engReadL ag w cls ps s = (s, .ok bs)
  | [], s, _, _ => ⟨[], rfl⟩
  | p :: ps, s, hr, h => by
    obtain ⟨k, o, e⟩ := h p (by simp)
    have v : s.reserved none (.slice k o) p.2 = false := by rw [State.reserved, hr]; rfl
    obtain ⟨bs, e2⟩ := State.engReadL_slice ag w cls ps s hr fun q hq => h q (by simp [hq])
    have d : s.dramReady (.slice k o) p.2 = true := rfl
    have r : s.homeRead ag (.slice k o) p.2 cls = (s, false) := rfl
    simp only [State.engReadL, e, v, d, r, e2, Bool.not_true, Bool.or_self, Bool.false_eq_true, ↓reduceIte]
    exact ⟨_, rfl⟩

/-- Slice images that stand in an open mesh range are read back, which changes memory only. -/
theorem State.restSlices_mesh (pcl : Nat) (base : Word) (lo hi : Nat) : ∀ (ks : List Nat) (s : State), s.resv = [] →
    s.meshOpen (s.handlerWho (pcl * 16)) lo hi →
    (∀ k ∈ ks, meshBase + lo * 2 ^ 19 ≤ (base + BitVec.ofNat 64 (0x40000 + 0x8000 * k)).toNat ∧
      (base + BitVec.ofNat 64 (0x40000 + 0x8000 * k)).toNat + 32768 ≤ meshBase + hi * 2 ^ 19 ∧
      (base + BitVec.ofNat 64 (0x40000 + 0x8000 * k)).toNat % 2 ^ 15 = 0) →
    ∃ m, s.restSlices pcl base ks = ({ s with mem := m }, none)
  | [], s, _, _, _ => ⟨s.mem, rfl⟩
  | k :: ks, s, hr, h, hk => by
    obtain ⟨g1, g2, g3⟩ := hk k (by simp)
    have sp := State.spanOk_mesh s _ (base + BitVec.ofNat 64 (0x40000 + 0x8000 * k)) 32768 lo hi h g1 g2 (by omega) (by omega)
    obtain ⟨bs, e⟩ := State.engReadL_slice { code := 1 } (s.handlerWho (pcl * 16)) 0 _ s hr
      (State.pieces_mesh s _ (base + BitVec.ofNat 64 (0x40000 + 0x8000 * k)) 32768 _ lo hi h g1 g2)
    have e1 : s.engRead { code := 1 } (s.handlerWho (pcl * 16)) 0 (base + BitVec.ofNat 64 (0x40000 + 0x8000 * k)) 32768 = (s, .ok bs) := by
      rw [State.engRead, if_pos sp, e]
    obtain ⟨m, e2⟩ := State.restSlices_mesh pcl base lo hi ks (s.writeAt (.slice (pcl * 16 + k) 0) bs) hr h fun q hq => hk q (by simp [hq])
    exact ⟨m, by simp only [State.restSlices, e1, e2]; rfl⟩

theorem Word.toNat_add_ofNat (x : Word) (n : Nat) (h : x.toNat + n < 2 ^ 64) : (x + BitVec.ofNat 64 n).toNat = x.toNat + n := by
  rw [BitVec.toNat_add, BitVec.toNat_ofNat, Nat.mod_eq_of_lt (a := n) (by omega), Nat.mod_eq_of_lt h]

/-- The header of a save area lies in the open mesh range that the area lies in. -/
theorem State.saveHeader_mesh (s : State) (lid v lo hi : Nat) (_hh : hi ≤ 4096) (h1 : meshBase + lo * 2 ^ 19 ≤ (s.launch lid).save.toNat)
    (h2 : (s.launch lid).save.toNat + 0xC1000 ≤ meshBase + hi * 2 ^ 19) (h3 : (s.launch lid).save.toNat % 2 ^ 15 = 0x7000) :
    ∀ p ∈ s.saveHeader lid v,
    meshBase + lo * 2 ^ 19 ≤ p.1.toNat ∧ p.1.toNat + p.2.length ≤ meshBase + hi * 2 ^ 19 ∧ p.1.toNat % 2 ^ 15 + p.2.length ≤ 32768 ∧
      0 < p.2.length := by
  have hb : meshBase = 0x00FE000000000000 := rfl
  intro p hp
  simp only [State.saveHeader, List.mem_cons, List.not_mem_nil, or_false] at hp
  obtain rfl | rfl := hp
  · simp only [List.length_append, leBytes_length]; omega
  · have a2 : ((s.launch lid).save + 0x100).toNat = (s.launch lid).save.toNat + 0x100 := Word.toNat_add_ofNat _ 0x100 (by omega)
    rw [a2]; simp only [List.length_map, List.length_range]; omega

/-- The slice images of a vcluster lie in the open mesh range that its save area lies in. -/
theorem State.saveSlices_mesh (s : State) (pcl lid v lo hi : Nat) (hh : hi ≤ 4096)
    (h1 : meshBase + lo * 2 ^ 19 ≤ (s.launch lid).save.toNat)
    (h2 : (s.launch lid).save.toNat + 0xC1000 + 0x200000 * v ≤ meshBase + hi * 2 ^ 19)
    (h3 : (s.launch lid).save.toNat % 2 ^ 15 = 0x7000) : ∀ p ∈ s.slicePieces pcl lid v,
    meshBase + lo * 2 ^ 19 ≤ p.1.toNat ∧ p.1.toNat + p.2.length ≤ meshBase + hi * 2 ^ 19 ∧ p.1.toNat % 2 ^ 15 + p.2.length ≤ 32768 ∧
      0 < p.2.length := by
  have hb : meshBase = 0x00FE000000000000 := rfl
  have ab : (s.saveBlock lid v).toNat = (s.launch lid).save.toNat + (0x1000 + 0x200000 * v) :=
    Word.toNat_add_ofNat _ _ (by omega)
  intro p hp
  obtain ⟨k, hk, rfl⟩ := List.mem_map.1 hp
  have hk := List.mem_range.1 hk
  rw [State.bytesAt_length, Word.toNat_add_ofNat _ _ (by omega), ab]
  omega

/-- A save whose last writes succeed ends with the cluster kept. -/
theorem State.finishSave_ok (s s1 s2 : State) (pcl lid v : Nat) (hd : s.drainAll pcl = s1)
    (h : s1.writeAll (s.handlerWho (pcl * 16)) (s1.savePieces pcl lid v) = (s2, none)) :
    s.finishSave pcl lid v = (s2.keepSaved pcl lid v (s1.undelivered lid v pcl), none) := by
  subst hd
  rw [State.finishSave, h, State.keepIf]

/-- A cluster without messages to spill is saved to a save area that lies in an open mesh range (R408, R410). -/
theorem State.finishSave_mesh (s : State) (pcl lid v lo hi : Nat) (hm : s.marks = []) (hr : s.resv = []) (ho : s.owned = [])
    (hd : s.drainAll pcl = s) (hu : (s.undelivered lid v pcl).isEmpty = true) (h : s.meshOpen (s.handlerWho (pcl * 16)) lo hi)
    (h1 : meshBase + lo * 2 ^ 19 ≤ (s.launch lid).save.toNat)
    (h2 : (s.launch lid).save.toNat + 0xC1000 + 0x200000 * v ≤ meshBase + hi * 2 ^ 19)
    (h4 : (s.launch lid).save.toNat % 2 ^ 15 = 0x7000) : ∃ s3, s.finishSave pcl lid v = (s3, none) := by
  have h3 := Nat.le_trans (Nat.le_add_right _ _) h2
  have e1 : s.savePieces pcl lid v = s.slicePieces pcl lid v ++ s.saveHeader lid v := by
    rw [State.savePieces, State.spillPieces, if_pos hu, List.append_nil]
  obtain ⟨m, e2⟩ := State.writeAll_mesh (s.handlerWho (pcl * 16)) lo hi (s.savePieces pcl lid v) s hm hr ho h
    (by
      intro p hp
      rw [e1] at hp
      rcases List.mem_append.1 hp with hp | hp
      · exact State.saveSlices_mesh s pcl lid v lo hi h.2.1 h1 h2 h4 p hp
      · exact State.saveHeader_mesh s lid v lo hi h.2.1 h1 h3 h4 p hp)
  exact ⟨_, State.finishSave_ok s s _ pcl lid v hd e2⟩

end Sys2Proof.Machine
end

