-- ==== Sys2Proof/Laws/Issue.lean ====
section
/-! SUPPORT. The way to issue, once for all instructions: an open way leads to the body; a false guard only moves the PC; the wrong
mode traps; what waits changes nothing but `waited`. -/

namespace Sys2Proof.Machine

theorem issueRes_opens {k : Kind} {f : Fld} {s s1 : State} (h : Opens k f s s1) (body : State → Res) :
    issueRes k f s body = (body s1).keepWin s.t.win := by
  have hg : s.P f.g.toNat = true := h.guard
  have hs : (s.speculative s.cur && !s.t.spec.spen) = false := by
    cases hx : s.speculative s.cur
    · rfl
    · simp [h.spen hx]
  have hi : (k.irrev && s.speculative s.cur) = false := by
    cases hx : k.irrev
    · rfl
    · simp [h.irrev hx]
  simp only [issueRes, hs, h.mode, hg, h.hold, hi, h.frame, Res.bind, Bool.not_true, Bool.false_eq_true, ↓reduceIte]

/-- An open way: the instruction comes to what its body comes to in the state that the way leaves. -/
theorem issue_opens {k : Kind} {f : Fld} {s s1 : State} (h : Opens k f s s1) (body : State → Res) :
    issue k f s body = finish s ((body s1).keepWin s.t.win) := by rw [issue, issueRes_opens h]

/-- An open way to a body that completes. -/
theorem issue_ok {k : Kind} {f : Fld} {s s1 t : State} (h : Opens k f s s1) {body : State → Res} (hb : body s1 = .ok t) :
    issue k f s body = .next t := by rw [issue_opens h, hb]; rfl

/-- The context in execution is the same after the way to issue. -/
theorem Res.keepWin_ok (s : State) (w : Win) : (Res.ok s).keepWin w = .ok s := rfl

/-- A false guard outside a hold: only the PC moves (R85). -/
theorem issue_guard_false {k : Kind} {f : Fld} {s : State} (body : State → Res) (hg : s.P f.g.toNat = false)
    (hm : k.allowed s.t = true) (hh : s.t.hold = none) (hs : s.speculative s.cur = true → s.t.spec.spen = true) :
    issue k f s body = .next (s.setT s.t).advance := by
  have hx : (s.speculative s.cur && !s.t.spec.spen) = false := by
    cases h : s.speculative s.cur
    · rfl
    · simp [hs h]
  simp [issue, issueRes, hx, hm, holdStop, hh, hg, Thread.countHold, finish]

/-- The wrong mode: the trap PRIV (R88). -/
theorem issue_priv {k : Kind} {f : Fld} {s : State} (body : State → Res) (hm : k.allowed s.t = false)
    (hs : s.speculative s.cur = true → s.t.spec.spen = true) :
    issue k f s body = .next (s.stopped (.trap cPRIV 0 0 0 0) s) := by
  have hx : (s.speculative s.cur && !s.t.spec.spen) = false := by
    cases h : s.speculative s.cur
    · rfl
    · simp [hs h]
  simp [issue, issueRes, hx, hm, finish]

/-- The gate of the stream unit is passed where `strmIn` answers (R302). -/
theorem State.strmGate_ok {a b : State} (h : a.strmIn = some b) (k : State → Res) : a.strmGate k = k b := by
  dsimp only [State.strmIn] at h
  dsimp only [State.strmGate]
  split at h
  · rename_i hc; cases h; rw [if_pos hc]
  · rename_i hc
    split at h
    · cases h
    · rename_i hn
      obtain ⟨h1, h2⟩ := not_or.1 hn
      cases h
      rw [if_neg hc, if_neg h1, if_neg h2]

/-- An open way of a page-4 instruction to a body that completes (R302, R317). -/
theorem strmIssue_ok {irrev : Bool} {names : List (BitVec 6)} {regs : List Nat} {f : Fld} {s s1 t : State}
    (h : StrmOpens irrev names regs f s s1) {body : State → Res} (hb : body s1 = .ok t) :
    strmIssue irrev names regs true f s body = .next t := by
  obtain ⟨a, b, ho, hi, hp⟩ := h
  refine issue_ok ho ?_
  simp only [State.strmGate_ok hi, ↓reduceIte, hp, Res.bind, hb, Res.forgetting]

/-- The same for SNEXT, which does the pending work itself. -/
theorem strmIssue_idle {irrev : Bool} {names : List (BitVec 6)} {regs : List Nat} {f : Fld} {s s1 t : State}
    (h : StrmOpens irrev names [] f s s1) {body : State → Res} (hb : body s1 = .ok t) :
    strmIssue irrev names regs false f s body = .next t := by
  obtain ⟨a, b, ho, hi, hp⟩ := h
  refine issue_ok ho ?_
  cases hp
  simp only [State.strmGate_ok hi, Bool.false_eq_true, ↓reduceIte, Res.bind, hb, Res.forgetting]

/-- Registers within the frame leave it as it is (R103). -/
theorem State.nameRegs_within (s : State) (rs : List Nat) (h : (rs.foldl (fun a r => max a (r + 1)) 0) ≤ s.t.win.n) :
    s.nameRegs rs = .ok s := by simp [State.nameRegs, h]

theorem foldl_max_le (rs : List Nat) (n : Nat) : ∀ a, a ≤ n → (∀ r ∈ rs, r < n) → rs.foldl (fun a r => max a (r + 1)) a ≤ n := by
  induction rs with
  | nil => intro a ha _; exact ha
  | cons r rs ih =>
    intro a ha h
    have := h r (by simp)
    exact ih (max a (r + 1)) (by omega) fun q hq => h q (by simp [hq])

theorem holdStop_none {t : Thread} {k : Kind} {g : Bool} (h : t.hold = none) : holdStop t k g = none := by simp [holdStop, h]

theorem Thread.countHold_none {t : Thread} (h : t.hold = none) : t.countHold = t := by simp [Thread.countHold, h]

/-- The plain case: no hold, no speculation, the registers within the frame. -/
theorem Opens.plain {k : Kind} {f : Fld} {s : State} (hm : k.allowed s.t = true) (hg : s.P f.g.toNat = true) (hh : s.t.hold = none)
    (hs : s.speculative s.cur = false) (hn : ∀ a ∈ k.names, a.toNat < s.t.win.n) : Opens k f s (s.setT s.t) where
  spen h := by rw [hs] at h; cases h
  mode := hm
  guard := hg
  hold := holdStop_none hh
  irrev _ := hs
  frame := by
    rw [Thread.countHold_none hh]
    refine State.nameRegs_within _ _ ?_
    simp only [State.t_setT]
    refine foldl_max_le _ _ _ (Nat.zero_le _) ?_
    intro r hr
    obtain ⟨a, ha, rfl⟩ := List.mem_map.1 hr
    exact hn a ha

end Sys2Proof.Machine
end

