-- ==== Sys2Proof/Machine/Druin.lean ====
section
/-! DEFINITION. The translator of dataflow graphs (R46 to R52): what a graph may say, its repetition vector, its firing sequence and
buffer sizes, the threads its actors stand on, the token queues of its edges, and the object it emits. It stands outside the machine;
no step calls it. -/

namespace Sys2Proof.Machine

/-- An edge of a graph (R46) with the data of its initial tokens. -/
structure SdfEdge where
  src : Nat
  dst : Nat
  p : Nat
  c : Nat
  d : Nat
  size : Nat
  init : List Byte := []
deriving DecidableEq, Repr

/-- What an actor's body names of the resources of R42: its largest frame, one more than its highest vector and stream register, the
end of the local memory it uses in bytes, the domain levels below the root, the mailbox depth and the tiles. -/
structure Body where
  wreg : Nat := 1
  vreg : Nat := 0
  sreg : Nat := 0
  lmem : Nat := 0
  nest : Nat := 1
  mbox : Nat := 1
  tiles : Nat := 0
deriving DecidableEq, Repr

/-- A graph: its actors' bodies in declaration order, and its edges in order. -/
structure Sdf where
  bodies : List Body
  edges : List SdfEdge
deriving DecidableEq, Repr

/-- The number A of actors. -/
def Sdf.actors (g : Sdf) : Nat := g.bodies.length

/-- Why a graph is refused. -/
inductive DruinErr where
  | range
  | inconsistent
  | deadlock
  | placement
deriving DecidableEq, Repr

/-- Is an edge in the ranges of R46? -/
def SdfEdge.ok (e : SdfEdge) (actors : Nat) : Bool :=
  decide (e.src < actors) && decide (e.dst < actors) && e.src != e.dst && decide (1 ≤ e.p) && decide (e.p ≤ 4096) &&
    decide (1 ≤ e.c) && decide (e.c ≤ 4096) && decide (e.d ≤ 65535) && decide (16 ≤ e.size) && decide (e.size ≤ 65536) && e.size % 16 == 0
/-- Does a body name no resource beyond the floor (R42, R46)? -/
def Body.inFloor (b : Body) : Bool :=
  decide (b.wreg ≤ 40) && decide (b.vreg ≤ 24) && decide (b.sreg ≤ 8) && decide (b.lmem ≤ 16384) && decide (b.nest ≤ 4) &&
    decide (b.mbox ≤ 32) && decide (b.tiles ≤ 8)
/-- Is a graph in range (R46)? -/
def Sdf.inRange (g : Sdf) : Bool :=
  decide (1 ≤ g.actors) && decide (g.actors ≤ 65536) && (g.edges.all fun e => e.ok g.actors) && g.bodies.all Body.inFloor

/-! ## The repetition vector (R47) -/

/-- A positive fraction, numerator and denominator, in lowest terms. -/
def fracOf (n d : Nat) : Nat × Nat := (n / Nat.gcd n d, d / Nat.gcd n d)

/-- One round of the propagation: the lowest-numbered edge with exactly one end set sets its other end. -/
def rateRound (r : List (Option (Nat × Nat))) : List SdfEdge → List (Option (Nat × Nat))
  | [] => r
  | e :: es =>
    match r.getD e.src none, r.getD e.dst none with
    | some f, none => r.set e.dst (some (fracOf (f.1 * e.p) (f.2 * e.c)))
    | none, some f => r.set e.src (some (fracOf (f.1 * e.c) (f.2 * e.p)))
    | _, _ => rateRound r es

/-- So many rounds. -/
def rateRounds (es : List SdfEdge) : Nat → List (Option (Nat × Nat)) → List (Option (Nat × Nat))
  | 0, r => r
  | n + 1, r => rateRounds es n (rateRound r es)

/-- The component of an actor that has no rate yet: the rates with it, and its members' firings in smallest whole numbers. -/
def rateComponent (g : Sdf) (a : Nat) (x : List (Option (Nat × Nat)) × List Nat) : List (Option (Nat × Nat)) × List Nat :=
  match x.1.getD a none with
  | some _ => x
  | none =>
    let r := rateRounds g.edges g.actors (x.1.set a (some (1, 1)))
    let new (b : Nat) : Option (Nat × Nat) := if (x.1.getD b none).isNone then r.getD b none else none
    let members := (List.range g.actors).filterMap fun b => (new b).map fun f => (b, f)
    let l := members.foldl (fun (m : Nat) (p : Nat × Nat × Nat) => Nat.lcm m p.2.2) 1
    let k := members.foldl (fun (m : Nat) (p : Nat × Nat × Nat) => Nat.gcd m (p.2.1 * l / p.2.2)) 0
    (r, members.foldl (fun (q : List Nat) (p : Nat × Nat × Nat) => q.set p.1 (p.2.1 * l / p.2.2 / k)) x.2)

/-- Do the rates of an edge's ends balance? -/
def SdfEdge.balanced (e : SdfEdge) (r : List (Option (Nat × Nat))) : Bool :=
  match r.getD e.src none, r.getD e.dst none with
  | some f, some h => f.1 * e.p * h.2 == h.1 * e.c * f.2
  | _, _ => false

/-- The repetition vector of a graph. Where one component is inconsistent and another's number is too large, R47 does not say which
diagnostic stands: the model looks for INCONSISTENT in the whole graph first (log entry 47). -/
def Sdf.repetition (g : Sdf) : Except DruinErr (List Nat) :=
  let z := (List.range g.actors).foldl (fun x a => rateComponent g a x) (List.replicate g.actors none, List.replicate g.actors 0)
  if !g.edges.all (fun e => e.balanced z.1) then .error .inconsistent
  else if z.2.any (fun n => decide (2 ^ 32 ≤ n)) then .error .range
  else .ok z.2

/-! ## The firing sequence (R48) -/

/-- The construction under way: tokens and peaks by edge, firings by actor, the sequence so far, newest first. -/
structure Firing where
  tok : List Nat
  peak : List Nat
  n : List Nat
  seq : List Nat
deriving DecidableEq, Repr

/-- Before the first firing. -/
def Sdf.firing0 (g : Sdf) : Firing :=
  { tok := g.edges.map fun e => e.d, peak := g.edges.map fun e => e.d, n := List.replicate g.actors 0, seq := [] }

/-- Can an actor fire? -/
def Sdf.canFire (g : Sdf) (q : List Nat) (x : Firing) (a : Nat) : Bool :=
  decide (x.n.getD a 0 < q.getD a 0) && (g.edges.zip x.tok).all fun (p : SdfEdge × Nat) => p.1.dst != a || decide (p.1.c ≤ p.2)

/-- An actor fires: it produces, the peaks follow, then it consumes. -/
def Sdf.fire (g : Sdf) (x : Firing) (a : Nat) : Firing :=
  let up := (g.edges.zip x.tok).map fun (p : SdfEdge × Nat) => if p.1.src = a then p.2 + p.1.p else p.2
  { tok := (g.edges.zip up).map fun (p : SdfEdge × Nat) => if p.1.dst = a then p.2 - p.1.c else p.2
    peak := (x.peak.zip up).map fun (p : Nat × Nat) => max p.1 p.2
    n := x.n.set a (x.n.getD a 0 + 1)
    seq := a :: x.seq }

/-- The procedure with at most so many firings left: the highest-numbered actor that can fire does. -/
def Sdf.fireAll (g : Sdf) (q : List Nat) : Nat → Firing → Firing
  | 0, x => x
  | k + 1, x =>
    match (List.range g.actors).reverse.find? (g.canFire q x) with
    | some a => Sdf.fireAll g q k (g.fire x a)
    | none => x

/-- One period of a graph: its firing sequence and the buffer size of every edge. -/
def Sdf.period (g : Sdf) (q : List Nat) : Except DruinErr (List Nat × List Nat) :=
  let x := g.fireAll q (q.foldl (· + ·) 0) g.firing0
  if (List.range g.actors).any fun a => decide (x.n.getD a 0 < q.getD a 0) then .error .deadlock else .ok (x.seq.reverse, x.peak)

/-! ## Placement and queues (R50, R51) -/

/-- The thread of an actor with `t` contexts on each core: vcluster, core, context. -/
def actorPlace (t a : Nat) : Nat × Nat × Nat := (a / (16 * t), a % 16, a / 16 % t)
/-- CLMIN and CLMAX of the object. -/
def Sdf.clusters (g : Sdf) (t : Nat) : Nat := (g.actors + 16 * t - 1) / (16 * t)

/-- The thread id of an actor (R11, R50). -/
def actorTid (t a : Nat) : Nat := let x := actorPlace t a; x.1 * 64 + x.2.1 * 4 + x.2.2

/-- The queue of an edge: its home thread's core, LEVEL, its slots and their bytes, how many start as tokens and with which data, its
only producer and its only consumer (R51). -/
structure EdgeQueue where
  vcluster : Nat
  core : Nat
  level : Nat
  slots : Nat
  size : Nat
  tokens : Nat
  init : List Byte
  prod : Nat
  cons : Nat
deriving DecidableEq, Repr

/-- The token queue of an edge with its buffer size. -/
def SdfEdge.queue (e : SdfEdge) (t b : Nat) : EdgeQueue :=
  let s := actorPlace t e.src
  let h := actorPlace t e.dst
  { vcluster := h.1, core := h.2.1, level := if s.1 ≠ h.1 then 4 else if s.2.1 ≠ h.2.1 then 1 else 0,
    slots := b, size := e.size, tokens := e.d, init := (e.init ++ List.replicate (e.d * e.size) 0).take (e.d * e.size),
    prod := actorTid t e.src, cons := actorTid t e.dst }

/-- Do two queues belong to one domain? -/
def EdgeQueue.sameDomain (x y : EdgeQueue) : Bool :=
  x.level == y.level && (x.level == 4 || (x.vcluster == y.vcluster && (x.level == 1 || x.core == y.core)))

/-- Are two queues homed at one core? -/
def EdgeQueue.sameHome (x y : EdgeQueue) : Bool := x.vcluster == y.vcluster && x.core == y.core

/-- The bytes that a home core's local memory holds for queues. -/
def queueBytes (qs : List EdgeQueue) (vcluster core : Nat) : Nat :=
  ((qs.filter fun q => q.vcluster == vcluster && q.core == core).map fun q => 256 + q.slots * q.size).foldl (· + ·) 0

/-- Is a queue one that R51 refuses, among all queues and with a LOCAL image of so many bytes? -/
def EdgeQueue.refused (qs : List EdgeQueue) (localBytes : Nat) (x : EdgeQueue) : Bool :=
  decide (64 < x.slots) || decide (32768 < x.size) || decide (16 < (qs.filter x.sameDomain).length) ||
    decide (16384 < localBytes + queueBytes qs x.vcluster x.core)

/-! ## The object (R50 to R52, R284) -/

/-- The descriptor of a queue (R282) whose slot area begins at an offset of the home slice. -/
def EdgeQueue.desc (x : EdgeQueue) (data : Nat) : List Byte :=
  leBytes 2 data ++ leBytes 2 0 ++ leBytes 4 x.size ++ leBytes 1 x.slots ++ leBytes 1 1 ++ leBytes 1 1 ++ leBytes 1 x.level ++
    leBytes 1 x.tokens ++ leBytes 1 0 ++ List.replicate 50 0 ++ leBytes 4 x.prod ++ List.replicate 60 0 ++ leBytes 4 x.cons ++
    List.replicate 60 0 ++ List.replicate 64 0

/-- The QUEUE record of a queue (R284): where its descriptor and its slots stand, and the place of its initial data in DATA. -/
def EdgeQueue.record (x : EdgeQueue) (off data ioff : Nat) : List Byte :=
  leBytes 2 x.vcluster ++ leBytes 1 x.core ++ leBytes 1 0 ++ leBytes 2 off ++ leBytes 2 0 ++
    leBytes 8 (if x.init.isEmpty then 2 ^ 64 - 1 else ioff) ++ List.replicate 16 0 ++ x.desc data

/-- The records of queues and their initial data, in edge order. A home core's descriptors stand from the top of its 16 KiB down, and
its slot areas below them; R51 says only that both stand above the LOCAL image (log entry 47). `done` holds the queues already placed. -/
def queueRecords (qs done : List EdgeQueue) (ioff : Nat) : List EdgeQueue → List (List Byte × List Byte)
  | [] => []
  | x :: xs =>
    let before := done.filter x.sameHome
    let all := (qs.filter x.sameHome).length
    let slots := ((before ++ [x]).map fun q => q.slots * q.size).foldl (· + ·) 0
    (x.record (16384 - 256 * (before.length + 1)) (16384 - 256 * all - slots) ioff, x.init) ::
      queueRecords qs (done ++ [x]) (ioff + x.init.length) xs

/-- What the code of an actor does, in order (R50, R52). -/
inductive ActorStep where
  | take (e n : Nat)
  | permit (e n : Nat)
  | body
  | make (e n : Nat)
  | retire (e n : Nat)
  | ret
deriving DecidableEq, Repr

/-- The edges of a graph with their numbers that a test picks. -/
def Sdf.edgesOf (g : Sdf) (p : SdfEdge → Bool) : List (Nat × SdfEdge) :=
  ((List.range g.edges.length).zip g.edges).filter fun x => p x.2

/-- One firing of an actor (R52). -/
def Sdf.firing (g : Sdf) (a : Nat) : List ActorStep :=
  let ins := g.edgesOf fun e => e.dst == a
  let outs := g.edgesOf fun e => e.src == a
  ins.map (fun x => .take x.1 x.2.c) ++ outs.map (fun x => .permit x.1 x.2.p) ++ [.body] ++ outs.map (fun x => .make x.1 x.2.p) ++
    ins.map fun x => .retire x.1 x.2.c

/-- What the thread of an actor does for a number of periods in w0: it fires its body q[a] times in each, and then returns from the
entry frame (R50). -/
def Sdf.thread (g : Sdf) (q : List Nat) (a periods : Nat) : List ActorStep :=
  (List.replicate (periods * q.getD a 0) (g.firing a)).flatten ++ [.ret]

/-- What `druin` gives the linker: the header's FLAGS, the record's fields, the records of the QUEUE section, the DATA that they name,
and beside them the repetition vector, one period's sequence and the queues. -/
structure DruinObj where
  flags : Nat
  ctx : Nat
  ectx : Nat
  clmin : Nat
  clmax : Nat
  lmem : Nat
  queueSec : List (List Byte)
  data : List Byte
  q : List Nat
  order : List Nat
  queues : List EdgeQueue
deriving DecidableEq, Repr

/-- What `druin` makes of a graph with the option T, if one is given, and a LOCAL image of so many bytes, or why it refuses. An
option outside 1 to 4 is refused with RANGE, since R50 names no diagnostic for it (log entry 47). -/
def Sdf.translate (g : Sdf) (option : Option Nat) (localBytes : Nat) : Except DruinErr DruinObj :=
  let t := option.getD 1
  if !g.inRange || t < 1 || 4 < t then .error .range
  else match g.repetition with
    | .error e => .error e
    | .ok q =>
      match g.period q with
      | .error e => .error e
      | .ok (order, bufs) =>
        let qs := (g.edges.zip bufs).map fun (p : SdfEdge × Nat) => p.1.queue t p.2
        let rs := queueRecords qs [] 0 qs
        if qs.any (EdgeQueue.refused qs localBytes) then .error .placement
        else .ok { flags := 1, ctx := t, ectx := t, clmin := g.clusters t, clmax := g.clusters t, lmem := 16,
                   queueSec := rs.map (·.1), data := (rs.map (·.2)).flatten, q := q, order := order, queues := qs }

end Sys2Proof.Machine
end

