-- ==== Sys2Proof/Machine/Object.lean ====
section
/-! DEFINITION. Program objects (R33 to R40): the load checks of an image in their order, the fields that the device takes from it,
and its loading by the privileged runtime. An image is a list of bytes. -/

namespace Sys2Proof.Machine

/-! ## Tables -/

/-- An entry of the section table (R36). -/
structure SecEnt where
  kind : Nat
  align : Nat
  flags : Nat
  name : Nat
  foff : Nat
  fsize : Nat
  msize : Nat
deriving DecidableEq, Repr

/-- An entry of the entry table (R38). -/
structure EntEnt where
  off : Nat
  frame : Nat
  ectx : Nat
  name : Nat
deriving DecidableEq, Repr

/-- NSECT. -/
def nsectOf (b : List Byte) : Nat := fieldAt b 0x0A 2
/-- NENTRY. -/
def nentryOf (b : List Byte) : Nat := fieldAt b 0x0C 2
/-- SECTOFF. -/
def sectoffOf (b : List Byte) : Nat := fieldAt b 0x10 8
/-- ENTOFF. -/
def entoffOf (b : List Byte) : Nat := fieldAt b 0x18 8

/-- The rows of a table of 32-byte entries. -/
def rowsAt (b : List Byte) (off n : Nat) : List (List Byte) := (List.range n).map fun i => (b.drop (off + 32 * i)).take 32

/-- The section table. -/
def sectionsOf (b : List Byte) : List SecEnt :=
  (rowsAt b (sectoffOf b) (nsectOf b)).map fun e =>
    { kind := fieldAt e 0 1, align := fieldAt e 1 1, flags := fieldAt e 2 2, name := fieldAt e 4 4, foff := fieldAt e 8 8,
      fsize := fieldAt e 0x10 8, msize := fieldAt e 0x18 8 }

/-- The entry table. -/
def entriesOf (b : List Byte) : List EntEnt :=
  (rowsAt b (entoffOf b) (nentryOf b)).map fun e =>
    { off := fieldAt e 0 8, frame := fieldAt e 8 1, ectx := fieldAt e 9 1, name := fieldAt e 0xC 4 }

/-- The contents of a section in the image. -/
def SecEnt.bytes (x : SecEnt) (b : List Byte) : List Byte := (b.drop x.foff).take x.fsize
/-- A section in memory; the bytes past FSIZE load as zero (R36). -/
def SecEnt.image (x : SecEnt) (b : List Byte) : List Byte := x.bytes b ++ List.replicate (x.msize - x.fsize) 0

/-- The section of a kind. -/
def sectionOf (b : List Byte) (kind : Nat) : Option SecEnt := (sectionsOf b).find? fun x => x.kind == kind
/-- The memory image of the section of a kind, empty without one. -/
def sectionImage (b : List Byte) (kind : Nat) : List Byte := ((sectionOf b kind).map fun x => x.image b).getD []

/-- The records of n bytes in a section. -/
def recordsOf (n : Nat) (c : List Byte) : List (List Byte) :=
  (List.range (c.length / n)).map fun i => (c.drop (n * i)).take n

/-- A record field at an offset of the resource record (R35). -/
def resField (b : List Byte) (o n : Nat) : Nat := fieldAt b (0x40 + o) n

/-! ## The checks of R40 -/

/-- Reserved fields of the header, the record and the tables (check 3); bytes past the end of the image are not read. -/
def reservedZero (b : List Byte) : Bool :=
  fieldAt b 6 2 / 2 == 0 && zeroAt b 0x0E 2 && zeroAt b 0x30 16 && zeroAt b 0x4A 2 && zeroAt b 0x54 44 &&
    ((rowsAt b (sectoffOf b) (nsectOf b)).all fun e => fieldAt e 2 2 / 2 == 0) &&
    (rowsAt b (entoffOf b) (nentryOf b)).all fun e => zeroAt e 0xA 2 && zeroAt e 0x10 16

/-- The record lies within the floor (R42, check 5). -/
def floorOk (b : List Byte) : Bool :=
  let f := resField b
  decide (f 0 1 ≤ 4) && decide (f 1 1 ≤ 40) && decide (f 2 1 ≤ 24) && decide (f 3 1 ≤ 8) && decide (f 4 1 ≤ 16) &&
    decide (f 5 1 ≤ 4) && decide (f 6 2 ≤ 16) && decide (f 8 1 ≤ 32) && decide (f 9 1 ≤ 8)

/-- The record's ranges with the limits of class SX3 (R35, R42, check 6). -/
def resourceOk (b : List Byte) : Bool :=
  let f := resField b
  let within (v lo hi : Nat) : Bool := decide (lo ≤ v) && decide (v ≤ hi)
  within (f 0 1) 1 4 && within (f 1 1) 1 64 && within (f 2 1) 0 24 && within (f 3 1) 0 8 &&
    (f 4 1 == 8 || f 4 1 == 16 || f 4 1 == 24 || f 4 1 == 32) && within (f 5 1) 1 4 && within (f 6 2) 0 64 &&
    within (f 8 1) 1 32 && within (f 9 1) 0 8 && decide (1 ≤ f 0xC 4) && (f 0x10 4 == 0 || decide (f 0xC 4 ≤ f 0x10 4))

/-- A NAME is the offset of a NUL-terminated name that ends within the string table. -/
def nameOk (b : List Byte) (n : Nat) : Bool :=
  let size := fieldAt b 0x28 8
  decide (n < size) && ((b.drop (fieldAt b 0x20 8 + n)).take (size - n)).any (· == 0)

/-- Two ranges of the image share no byte. -/
def apart (x y : SecEnt) : Bool :=
  x.fsize == 0 || y.fsize == 0 || decide (x.foff + x.fsize ≤ y.foff) || decide (y.foff + y.fsize ≤ x.foff)

/-- A section follows R36 and R37. -/
def secOk (b : List Byte) (x : SecEnt) : Bool :=
  decide (1 ≤ x.kind) && decide (x.kind ≤ 9) && decide (x.align ≤ 30) && (x.kind != 1 || decide (6 ≤ x.align)) &&
    decide (x.fsize ≤ x.msize) && nameOk b x.name && decide (x.foff + x.fsize ≤ b.length) &&
    (x.kind != 3 || decide (x.msize ≤ resField b 4 1 * 1024))

/-- Sections of one kind appear once, and no two overlap. -/
def secPairs : List SecEnt → Bool
  | [] => true
  | x :: xs => (xs.all fun y => x.kind != y.kind && apart x y) && secPairs xs

/-- A MAP section (R68): its size and SHAPE, and its reserved bytes, for which no rule names a status (log entry 47). -/
def mapOk (c : List Byte) : Bool := c.length == 32 && decide (fieldAt c 0 1 ≤ 2) && zeroAt c 3 1 && zeroAt c 0xC 20

/-- A QUEUE section (R284): its size, and the reserved bytes of the record itself; those inside DESC are left to reason 9 of R58, where
QINIT answers BADDESC (log entry 47). -/
def queueOk (c : List Byte) : Bool :=
  !c.isEmpty && c.length % 288 == 0 &&
    (recordsOf 288 c).all fun r => fieldAt r 0 2 / 4096 == 0 && fieldAt r 2 1 / 16 == 0 && zeroAt r 3 1 && zeroAt r 6 2 && zeroAt r 0x10 16

/-- A DOMAIN section (R373). -/
def domainOk (c : List Byte) : Bool :=
  !c.isEmpty && c.length % 520 == 0 &&
    (recordsOf 520 c).all fun r => (fieldAt r 0 8 == 2 || fieldAt r 0 8 == 3) && !zeroAt r 8 512

/-- An entry of a SLOT section: its fields in range, its reserved bytes zero (R363; for these log entry 47). -/
def slotOk (f : Nat) (e : List Byte) : Bool :=
  let start := fieldAt e 8 4
  let len := fieldAt e 0xC 4
  fieldAt e 0 2 / 4096 == 0 && decide (fieldAt e 2 1 < 16) && zeroAt e 3 1 && fieldAt e 4 2 / 4096 == 0 && zeroAt e 6 2 &&
    decide (start < 2 ^ f) && decide (1 ≤ len) && decide (start + len ≤ 2 ^ f)

/-- Two entries of one sender do not overlap in time. -/
def slotApart (e g : List Byte) : Bool :=
  fieldAt e 0 2 != fieldAt g 0 2 || decide (fieldAt e 8 4 + fieldAt e 0xC 4 ≤ fieldAt g 8 4) ||
    decide (fieldAt g 8 4 + fieldAt g 0xC 4 ≤ fieldAt e 8 4)

/-- No two entries of one sender overlap. -/
def slotPairs : List (List Byte) → Bool
  | [] => true
  | e :: es => es.all (slotApart e) && slotPairs es

/-- A SLOT section (R363); that a wrong size or a nonzero reserved byte is refused is the model's choice (log entry 47). -/
def slotsOk (c : List Byte) : Bool :=
  let f := fieldAt c 0 1
  let n := fieldAt c 2 2
  let es := recordsOf 16 (c.drop 16)
  decide (16 ≤ c.length) && decide (6 ≤ f) && decide (f ≤ 16) && zeroAt c 1 1 && zeroAt c 4 12 && decide (1 ≤ n) && decide (n ≤ 4096) &&
    c.length == 16 + 16 * n && es.all (slotOk f) &&
    (es.all fun e => decide ((es.filter fun g => fieldAt g 0 2 == fieldAt e 0 2).length ≤ 64)) && slotPairs es

/-- A UCODE record: a program word as W[a] may give it with bit 63 clear, and zeros in its reserved bytes (R339, R340). -/
def ucodeRecOk (r : List Byte) : Bool :=
  let n := fieldAt r 0 1
  decide (1 ≤ n) && decide (n ≤ 4) && zeroAt r 5 3 && zeroAt r 0xC 4 && (List.range n).all fun i => decide (fieldAt r (1 + i) 1 / 16 ≤ 9)

/-- A UCODE section (R340). -/
def ucodeOk (c : List Byte) : Bool :=
  c.length % 16 == 0 && decide (1 ≤ c.length / 16) && decide (c.length / 16 ≤ 16) && (recordsOf 16 c).all ucodeRecOk

/-- A declaration section follows the load rules of its chapter. Its size and records are those of its MSIZE bytes (log entry 47). -/
def declareOk (b : List Byte) (x : SecEnt) : Bool :=
  let c := x.image b
  match x.kind with
  | 4 => queueOk c
  | 5 => domainOk c
  | 6 => mapOk c
  | 8 => slotsOk c
  | 9 => ucodeOk c
  | _ => true

/-- Check 7. NSECT and SECTOFF out of the ranges of R34 have status SECTION, for which the table names none (log entry 47). -/
def sectionsOk (b : List Byte) : Bool :=
  decide (1 ≤ nsectOf b) && decide (nsectOf b ≤ 9) && sectoffOf b % 8 == 0 && decide (sectoffOf b + 32 * nsectOf b ≤ b.length) &&
    decide (fieldAt b 0x20 8 + fieldAt b 0x28 8 ≤ b.length) && (sectionsOf b).all (secOk b) && secPairs (sectionsOf b) &&
    (sectionsOf b).all (declareOk b)

/-- The halfword at an offset of TEXT. -/
def textHalf (b : List Byte) (o : Nat) : Nat := fieldAt (sectionImage b 1) o 2

/-- An entry follows R38 and R39: a bare ENTRY of size FRAME stands at it. -/
def entryOk (b : List Byte) (x : EntEnt) : Bool :=
  x.off % 64 == 0 && decide (x.off < ((sectionOf b 1).map fun t => t.fsize).getD 0) && decide (1 ≤ x.frame) &&
    decide (x.frame ≤ resField b 1 1) && decide (1 ≤ x.ectx) && decide (x.ectx ≤ resField b 0 1) && nameOk b x.name &&
    textHalf b x.off == 0xE800 + x.frame

/-- Check 8. NENTRY and ENTOFF out of the ranges of R34 have status ENTRY, for which the table names none (log entry 47). -/
def entriesOk (b : List Byte) : Bool :=
  decide (1 ≤ nentryOf b) && decide (nentryOf b ≤ 256) && entoffOf b % 8 == 0 && decide (entoffOf b + 32 * nentryOf b ≤ b.length) &&
    (entriesOf b).all (entryOk b)

/-- The load status of an image (R40): the number of the first check that fails, 0 where all pass. -/
def loadStatus (b : List Byte) : Nat :=
  if b.length < 128 ∨ fieldAt b 0 4 ≠ 0x4F474D4C then 1
  else if fieldAt b 4 2 ≠ 1 then 2
  else if !reservedZero b then 3
  else if 3 < fieldAt b 8 2 then 4
  else if fieldAt b 8 2 = 0 ∧ !floorOk b then 5
  else if !resourceOk b then 6
  else if !sectionsOk b then 7
  else if !entriesOk b then 8
  else 0

/-! ## Loading -/

/-- The words of a bitmap. -/
def wordsIn (c : List Byte) : List Word := (List.range (c.length / 8)).map fun i => BitVec.ofNat 64 (fieldAt c (8 * i) 8)

/-- The object that an image describes, for a header address, an address space and the addresses of TEXT and DATA. -/
def objectOf (b : List Byte) (addr : Word) (asid : Nat) (text data : Word) : Obj :=
  let m := sectionImage b 6
  let sl := sectionImage b 8
  { addr := addr, asid := asid, text := text, textSize := (sectionImage b 1).length, data := data,
    dataSize := (sectionImage b 2).length, entries := (entriesOf b).map fun e => (e.off, e.frame, e.ectx),
    lmem := resField b 4 1, clmin := resField b 0xC 4, clmax := resField b 0x10 4, localImg := sectionImage b 3,
    queues := recordsOf 288 (sectionImage b 4),
    domains := (recordsOf 520 (sectionImage b 5)).map fun r => (fieldAt r 0 8, wordsIn (r.drop 8)),
    shape := fieldAt m 0 1, rows := fieldAt m 1 1, cols := fieldAt m 2 1, weights := BitVec.ofNat 64 (fieldAt m 4 8),
    log2f := if sl.isEmpty then none else some (fieldAt sl 0 1),
    slots := (recordsOf 16 (sl.drop 16)).map fun e =>
      (fieldAt e 0 2, { core := fieldAt e 2 1, dstv := fieldAt e 4 2, start := fieldAt e 8 4, len := fieldAt e 0xC 4 }),
    ucode := (recordsOf 16 (sectionImage b 9)).map fun r => (BitVec.ofNat 64 (fieldAt r 0 8), BitVec.ofNat 32 (fieldAt r 8 4)) }

/-- Writes bytes at virtual addresses through the tables of an address space. -/
def State.writeVa (asid : Nat) : Nat → List Byte → State → State
  | _, [], s => s
  | va, x :: xs, s =>
    match s.walk none asid va with
    | .ok p => State.writeVa asid (va + 1) xs (s.writeAt (.phys (p.pa + (va - p.va))) [x])
    | .error _ => State.writeVa asid (va + 1) xs s

/-- Do pages of an address space map every byte from an address on, each with the permissions that a test accepts? -/
def State.mapsAll (s : State) (asid va n : Nat) (ok : Page → Bool) : Bool :=
  (List.range n).all fun i => match s.walk none asid (va + i) with
    | .ok p => ok p
    | .error _ => false

/-- The runtime's choice of an address for a section in global memory: aligned as ALIGN says (R36), on user pages that are execute
only for TEXT (R37), and for DATA and FIBRE readable, not executable, and writable as WRITABLE says (log entry 47). -/
def State.placeFits (s : State) (b : List Byte) (kind asid va : Nat) : Bool :=
  match sectionOf b kind with
  | none => true
  | some x => va % 2 ^ x.align == 0 &&
      s.mapsAll asid va x.msize fun p =>
        !p.k && (if kind = 1 then p.x && !p.r && !p.w else !p.x && p.r && p.w == (x.flags % 2 == 1))

/-- The privileged runtime loads an image whose checks pass: TEXT, DATA and FIBRE stand at the addresses it chose (R37), and a
launch of the object by its header address may be accepted. An image that fails a check leaves everything as it was (R40), and so
does a choice of addresses that breaks R36 or R37. -/
def State.loadObject (s : State) (b : List Byte) (addr : Word) (asid : Nat) (text data fibre : Word) : State :=
  if loadStatus b ≠ 0 || !s.placeFits b 1 asid text.toNat || !s.placeFits b 2 asid data.toNat || !s.placeFits b 7 asid fibre.toNat then s
  else
    let s1 := State.writeVa asid text.toNat (sectionImage b 1) s
    let s2 := State.writeVa asid data.toNat (sectionImage b 2) s1
    let s3 := State.writeVa asid fibre.toNat (sectionImage b 7) s2
    { s3 with objects := s3.objects ++ [objectOf b addr asid text data] }

end Sys2Proof.Machine
end

