-- ==== Sys2Proof/Tests/Slice0.lean ====
section
/-! SUPPORT. The model's own tests. First, for every statement with hypotheses, a state and operands that meet them (`witness_<statement>`);
then tests whose expected values are the manual's: words written out from its encodings, and its worked examples. -/

namespace Sys2Proof.Tests

set_option Elab.async false

open Sys2Proof.Machine


/-! ## Witnesses: states that meet the hypotheses of the statements -/

/-- A user context that runs. -/
def ctx : Thread := { st := .run, pc := 0x4000000000 }
/-- The stream in which most instructions are open: context 0 of cluster 0, with 32 KiB of local memory, in a placed launch of one
cluster. -/
def st : State :=
  { State.reset with
    gtime := 640, thr := [(0, ctx)], cores := [(0, {})],
    clus := [(0, { launch := some 0, lmem := 32, vct := [(0, 0x8000)],
                   dom := [(1, { dinfo := 0x81000000 }), (4, { dinfo := 0x81000000 })] })],
    launches := [(0, { active := true, ncl := 1, pcls := [(0, 0)], start := some 0 })],
    ir := { next := 0x4000000002, words := [0] } }
/-- The same with another thread. -/
def stT (t : Thread) : State := { st with thr := [(0, t)] }
/-- The same with window registers w0 and w1. -/
def stW (x y : Word) : State := stT { ctx with win := { ring := [(0, x), (1, y)] } }
/-- The channels of the addresses that these states use are ONLINE. -/
def online : Dram := { phy := [(0, { online := true }), (2, { online := true }), (64, { online := true }), (128, { online := true }), (192, { online := true })] }
/-- First address of the local alias. -/
def loc0 : Word := 0x00FFFFFFFFFF0000

theorem witness_open_way (t : Thread) (k : Kind) (f : Fld) (hm : k.allowed t = true) (hg : f.g = 0) (hh : t.hold = none)
    (hs : (stT t).speculative 0 = false) (hn : ∀ a ∈ k.names, a.toNat < t.win.n) : Opens k f (stT t) (stT t) :=
  Opens.plain (s := stT t) hm (by rw [hg]; rfl) hh hs hn

theorem witness_open (k : Kind) (f : Fld) (hm : k.mode = 0) (hg : f.g = 0) (hn : ∀ a ∈ k.names, a.toNat < 8) : Opens k f st st :=
  witness_open_way ctx k f (by simp [Kind.allowed, hm]) hg rfl rfl hn

theorem witness_BinaryAluCompletes : Opens (aluKind [1, 2]) { a := 1, b := 2 } st st := witness_open _ _ rfl rfl (by decide)
theorem witness_MultiplyAndDivideComplete : Opens (aluKind [1, 2]) { a := 1, b := 2 } st st ∧ Opens (aluKind [7]) { a := 7 } st st :=
  ⟨witness_open _ _ rfl rfl (by decide), witness_open _ _ rfl rfl (by decide)⟩
theorem witness_ImmediateAluCompletes : Opens (aluKind [7]) { a := 7 } st st ∧ Opens (freeKind [7]) { a := 7 } st st :=
  ⟨witness_open _ _ rfl rfl (by decide), witness_open _ _ rfl rfl (by decide)⟩
theorem witness_CompareAndPredicateComplete : Opens (aluKind [1, 2]) { a := 1, b := 2 } st st ∧ Opens (aluKind []) {} st st :=
  ⟨witness_open _ _ rfl rfl (by decide), witness_open _ _ rfl rfl (by decide)⟩
theorem witness_BranchCompletes : Opens (freeKind []) {} st st ∧ Opens {} {} st st ∧
    (st.t.vec.seq.all fun e => e.page != 1) = true ∧ st.t.vec.under st.gtime = 0 :=
  ⟨witness_open _ _ rfl rfl (by decide), witness_open _ _ rfl rfl (by decide), rfl, rfl⟩

/-- A state whose w0 names a checked target: a bare ENTRY of 8 registers in global memory. -/
def stEntry : State :=
  (({ stW placePc 0 with dram := online, tlb := [placeTlb] } : State).writeAt (.phys placePa) [8, 0xE8])
theorem witness_CallCompletes : Opens {} { a := 15 } st st ∧ st.callFits 15 ∧ Opens { names := [0] } {} stEntry stEntry ∧
    stEntry.callFits 0 ∧ stEntry.entryAt (stEntry.W 0) :=
  ⟨witness_open _ _ rfl rfl (by decide), ⟨by decide, by decide⟩, Opens.plain (s := stEntry) rfl rfl rfl rfl (by decide),
    ⟨by decide, by decide⟩, by decide, .phys placePa, rfl, by decide, by decide⟩
/-- A frame of a call with one resident unit. -/
def called : Thread := { ctx with win := { fb := 4, n := 8, units := [{ ret := 0x4000000040, k := 4, nc := 12 }] } }
theorem witness_ReturnCompletes : Opens {} {} (stT called) (stT called) ∧
    (stT called).returnFits { ret := 0x4000000040, k := 4, nc := 12 } [] ∧
    Opens {} {} st st ∧ st.t.win.units = [] ∧ st.t.win.nspill = 0 ∧ st.speculative st.cur = false :=
  ⟨witness_open_way called _ _ rfl rfl rfl rfl (by decide), ⟨by decide, by decide, rfl⟩, witness_open _ _ rfl rfl (by decide), rfl, rfl, rfl⟩
theorem witness_FrameAndQueueCompletes : (∃ s2, Opens {} { a := 4, b := 0 } st st ∧ st.resize 64 = .ok s2) ∧
    (Opens { irrev := true, names := [0] } { a := 1 } st st ∧ (st.t.queue 1).length < 8) ∧
    Opens { irrev := true, names := [0] } { b := 1 } (stT { ctx with q := [(1, [7])] }) (stT { ctx with q := [(1, [7])] }) ∧
    (stT { ctx with q := [(1, [7])] }).t.queue 1 = [7] :=
  ⟨⟨_, witness_open _ _ rfl rfl (by decide), rfl⟩, ⟨witness_open _ _ rfl rfl (by decide), by decide⟩,
    witness_open_way _ _ _ rfl rfl rfl rfl (by decide), rfl⟩

/-! ### Memory -/

/-- A state whose w0 names local memory. -/
def stL : State := stW loc0 0
theorem open_stL (k : Kind) (f : Fld) (hm : k.mode = 0) (hg : f.g = 0) (hn : ∀ a ∈ k.names, a.toNat < 8) : Opens k f stL stL :=
  Opens.plain (s := stL) (by simp [Kind.allowed, hm]) (by rw [hg]; rfl) rfl rfl hn
theorem witness_LoadIssueCompletes :
    (Opens { names := [0, 2] } { d := 2 } stL stL ∧ stL.check (stL.W 0 + immS { d := 2 } 4 * 8) 8 { r := true } 0 = .ok (.slice 0 0)) ∧
    (Opens { irrev := true, names := [0, 1, 2] } { b := 1, d := 2, ext := 0x36 } stL stL ∧
      stL.check (stL.W 0 + stL.W 1) (extSize { ext := 0x36 }) { r := true } 0 = .ok (.slice 0 0) ∧ extOrd { ext := 0x36 } = 3 ∧
      stL.released stL.cur = true) :=
  ⟨⟨open_stL _ _ rfl rfl (by decide), rfl⟩, open_stL _ _ rfl rfl (by decide), rfl, rfl, by decide⟩
/-- A load of local memory and one of global memory under way. -/
def pendAt (k : Nat) (l : Loc) : Pend :=
  { kind := k, op := 0, loc := l, va := loc0, size := 8, sx := false, d := 1, acq := false, sent := true, cls := 0, rh := 0, t0 := 640,
    sq := 0, lane := 0, opnd := 0, new := 0, win := {}, next := 0x4000000002 }
def stLoad (l : Loc) : State := { stT { ctx with pend := some (pendAt 1 l) } with dram := online }
/-- A state with the line of physical address 0 in the cluster L1. -/
def stLine : State :=
  let s := stLoad (.phys 0)
  s.setClu 0 { s.clu 0 with lmem := 16, l1 := [{ line := 0, data := List.replicate 256 7, g := 0, e := 1000 }] }
/-- Nothing is before the first place of a path. -/
theorem clear_zero (s : State) (c p : Nat) (l : Loc) : s.pathClearBefore c p l 0 = true := by
  simp only [State.pathClearBefore, Nat.zero_le, decide_true, Bool.or_true, Bool.true_or, List.all_eq_true, Bool.and_eq_true, Bool.or_eq_true,
    implies_true, and_true, true_and]
  exact .inr fun _ _ => by split <;> rfl
theorem witness_LoadReturnCompletes :
    ((stLoad (.slice 0 0)).speculative 0 = false ∧ ctx.spec.sb = [] ∧
      (stLoad (.slice 0 0)).loadServable 0 ((pendAt 1 (.slice 0 0)).path 0) (.slice 0 0) 8 0 0 true false = true) ∧
    (stLine.l1Usable 0 (.phys 0) 640 0).isSome = true ∧
    ((stLoad (.phys 0)).l1Usable 0 (.phys 0) 640 0 = none ∧
      (stLoad (.phys 0)).loadServable 0 ((pendAt 1 (.phys 0)).path 0) (.phys 0) 8 0 0 true false = true ∧
      ((stLoad (.phys 0)).homeRead { code := 1, c := some 0 } (.phys 0) 8 0).2 = false ∧
      (stLoad (.phys 0)).asksLease 0 (.phys 0) 3 false = false) ∧
    (stLine.asksLease 0 (.phys 0) 0 false = true) := by
  simp only [State.loadServable, clear_zero]; decide +kernel
theorem witness_StoreIssueCompletes :
    (stL.speculative stL.cur = false ∧ stL.t.spec.sb = [] ∧ Opens { names := [0, 2] } { d := 2 } stL stL ∧
      stL.check (stL.W 0 + immS { d := 2 } 4 * 8) 8 { w := true } 1 = .ok (.slice 0 0)) ∧
    (Opens { irrev := true, names := [0, 1, 2] } { b := 1, d := 2, ext := 0x34 } stL stL ∧ extOrd { ext := 0x34 } = 2 ∧
      stL.released stL.cur = true) :=
  ⟨⟨by decide, rfl, open_stL _ _ rfl rfl (by decide), rfl⟩, open_stL _ _ rfl rfl (by decide), rfl, by decide⟩
/-- A speculative thread: its VT is above the GVT of its domain. -/
def stSpec : State := stT { ctx with win := { ring := [(0, loc0)] }, sys := { vt := 5 } }
theorem open_stSpec (k : Kind) (f : Fld) (hm : k.mode = 0) (hg : f.g = 0) (hi : k.irrev = false) (hn : ∀ a ∈ k.names, a.toNat < 8) :
    Opens k f stSpec stSpec where
  spen _ := rfl
  mode := by simp [Kind.allowed, hm]
  guard := by rw [hg]; rfl
  hold := holdStop_none rfl
  irrev h := by rw [hi] at h; cases h
  frame := by
    refine State.nameRegs_within _ _ (foldl_max_le _ _ _ (Nat.zero_le _) ?_)
    intro r hr
    obtain ⟨a, ha, rfl⟩ := List.mem_map.1 hr
    exact hn a ha
theorem witness_SpeculativeStore : Opens { names := [0, 2] } { d := 2 } stSpec stSpec ∧ stSpec.speculative stSpec.cur = true ∧
    stSpec.t.spec.sb.length < 64 ∧ stSpec.check (stSpec.W 0 + immS { d := 2 } 4 * 8) 8 { w := true } 1 = .ok (.slice 0 0) :=
  ⟨open_stSpec _ _ rfl rfl rfl (by decide), by decide, by decide, rfl⟩
/-- A store in the path to the own slice. -/
def op0 : PathOp := { sq := 0, c := 0, loc := .slice 0 8, size := 8, v := 0x0102, arel := false, vt := 0, cls := 0, vec := false, sent := true }
def stPath : State := { st with cores := [(0, { priv := [op0], nsq := 1 })] }
theorem witness_StoreAtHomeCompletes : ((stPath.core 0).path 0)[0]? = some op0 ∧ stPath.storeEnabled 0 0 0 = true ∧
    op0.arel = false ∧ op0.vec = false ∧ (stPath.thread 0).pend = none := ⟨rfl, by decide +kernel, rfl, rfl, rfl⟩
theorem witness_LoadAndStoreFrames : ∃ t, ((stPath.core 0).path 0)[0]? = some op0 ∧ exec (.storeAtHome 0 0 0) stPath = .next t ∧
    memGet t.mem (2 ^ 56 + 8) = 2 ∧ memGet t.mem (2 ^ 56 + 9) = 1 ∧ stPath.storeEnabled 0 0 0 = true :=
  ⟨_, rfl, rfl, by decide +kernel, by decide +kernel, by decide +kernel⟩
theorem witness_AtomicIssueCompletes :
    (Opens { irrev := true, names := [0, 1, 2] } { b := 1, d := 2, ext := 0x30 } stL stL ∧ stL.t.spec.sb = [] ∧
      stL.check (stL.W 0 + stL.W 1) (extSize { ext := 0x30 }) { r := true, w := true } 3 = .ok (.slice 0 0) ∧
      (Loc.slice 0 0).outside = false) ∧
    (Opens { irrev := true, names := [0, 1, 2] } { b := 1, ext := 0x30 } stL stL ∧ stL.checkAmo 9 8 (stL.W 0) = .ok (.slice 0 0)) ∧
    (Opens { irrev := true, names := [0] } { ext := 0x20 } stL stL ∧ stL.t.vec.seq = [] ∧ stL.t.vec.under stL.gtime = 0 ∧
      vamoLane stL.t.sys.tamask 4 0 = some 0 ∧
      stL.checkAmo 0 4 (stL.W 0 + sextW (BitVec.ofNat 64 (lane 32 (stL.t.vr 0) 0)) 32) = .ok (.slice 0 0)) :=
  ⟨⟨open_stL _ _ rfl rfl (by decide), rfl, rfl, rfl⟩, ⟨open_stL _ _ rfl rfl (by decide), rfl⟩, open_stL _ _ rfl rfl (by decide), rfl, rfl, rfl,
    rfl⟩
/-- A thread that holds a reserved word, and one that asks for it. -/
def held : Thread := { ctx with win := { ring := [(0, loc0)] }, hold := some { loc := .slice 0 0, va := loc0, size := 8, count := 0 } }
def stAsk (k : Nat) : State := { stT { ctx with pend := some (pendAt k (.slice 0 0)) } with rsvq := [0] }
theorem witness_ReservationCompletes :
    (∃ s1, Opens { inHold := true, arel := true, irrev := true, names := [0, 1, 2] } { b := 1, d := 2, ext := 0x34 } (stT held) s1 ∧
      s1.W 0 + s1.W 1 = loc0 ∧ extSize { ext := 0x34 } = 8 ∧ extOrd { ext := 0x34 } = 2 ∧ s1.t.spec.sb = [] ∧
      s1.released s1.cur = true) ∧
    ∀ k ∈ [2, 3], (stAsk k).rsvq.contains 0 = true ∧ (stAsk k).atHead 0 (pendAt k (.slice 0 0)) = true ∧
      (stAsk k).ready (some 0) (.slice 0 0) 8 true = true ∧ (stAsk k).complete 0 = true ∧
      (stAsk k).atomicRefused (pendAt k (.slice 0 0)) = false ∧
      (({ stAsk k with rsvq := [] } : State).homeRead { code := 1, c := some 0 } (.slice 0 0) 8 0).2 = false :=
  ⟨⟨_, { spen := fun _ => rfl, mode := rfl, guard := rfl, hold := rfl, irrev := fun _ => rfl, frame := rfl }, rfl, rfl, rfl, rfl, by decide⟩,
    by decide +kernel⟩
theorem witness_FenceCompletes : Opens { irrev := true } {} st st ∧ st.released st.cur = true ∧ st.t.vmemPending = false ∧ st.t.spec.sb = [] ∧
    st.ownIn st.cur 0 = false ∧ st.ownIn st.cur 1 = false :=
  ⟨witness_open _ _ rfl rfl (by decide), by decide, rfl, rfl, rfl, rfl⟩
/-- A state whose w0 names global memory on a mapped page. -/
def stG : State := { stW placePc 0x410 with dram := online, tlb := [{ placeTlb with r := true, w := true }] }
theorem open_stG (k : Kind) (f : Fld) (hm : k.mode = 0) (hg : f.g = 0) (hn : ∀ a ∈ k.names, a.toNat < 8) : Opens k f stG stG :=
  Opens.plain (s := stG) (by simp [Kind.allowed, hm]) (by rw [hg]; rfl) rfl rfl hn
theorem witness_CacheControlCompletes :
    (Opens { names := [1] } { a := 1 } st st ∧ st.prefAddr (st.W 1) = none) ∧
    (Opens { names := [0] } {} stG stG ∧ stG.prefAddr (stG.W 0) = some placePa ∧ temporal {} ≠ 3 ∧ isSteward stG.cur = false ∧
      stG.ready (some 0) (.phys placePa) 256 false = true ∧ (stG.l2ReadSector { code := 0 } placePa 256 0 true).2 = false) ∧
    (Opens { irrev := true, names := [0, 1] } { b := 1 } stG stG ∧ stG.cacheAddr (stG.W 0) = .ok (some placePa) ∧
      stG.ownToLine stG.cur (placePa / 1024) = false ∧ pinSpan (stG.W 0) (stG.W 1) = false ∧
      (stG.translate (stG.who 0) (stG.W 0).toNat).isOk = true) ∧
    (Opens { irrev := true, names := [1] } { a := 1 } ({ st with arrs := [(0, { holder := some 0 })] } : State)
      { st with arrs := [(0, { holder := some 0 })] } ∧ bitsOf (st.W 1) 63 2 = 0) :=
  ⟨⟨witness_open _ _ rfl rfl (by decide), rfl⟩, ⟨open_stG _ _ rfl rfl (by decide), by decide, by decide, rfl, by decide, by decide⟩,
    ⟨open_stG _ _ rfl rfl (by decide), rfl, by decide, by decide, by decide⟩,
    Opens.plain (s := { st with arrs := [(0, { holder := some 0 })] }) rfl rfl rfl rfl (by decide), rfl⟩
/-- A buffered store of a thread that is not speculative, and two of them. -/
def sbe (o : Nat) : SbEnt := { loc := .slice 0 o, va := loc0 + BitVec.ofNat 64 o, size := 8, v := 1, cls := 0 }
def stBuf : State := stT { ctx with spec := { sb := [sbe 0, sbe 8] } }
/-- Tables that map the gigabyte of 0x40_0000_0000: a root at 0x1000, a table at 0x2000, one at 0x3000 and its leaf. -/
def stTab : State :=
  (((({ st with dram := online } : State).writeAt (.phys 0) [0, 0x10]).writeAt (.phys 0x1000) [1, 0x20]).writeAt (.phys 0x2000)
    [1, 0x30]).writeAt (.phys 0x3800) [7]
set_option maxRecDepth 4000 in
theorem witness_MemoryEventsHappen :
    (stBuf.speculative 0 = false ∧ stBuf.moving 0 (sbe 0).va 8 = false ∧ stBuf.ready (some 0) (sbe 0).loc 8 true = true ∧
      stBuf.pathClear 0 (pathOf 0 (sbe 0).va (sbe 0).loc) (sbe 0).loc = true) ∧
    ((stEntry.thread 0).asyncReady = false ∧ stEntry.haveBlock 0 (stEntry.thread 0).pc = false ∧
      stEntry.fetchAccess 0 (stEntry.thread 0).pc = .ok (.phys placePa) ∧ stEntry.dramReady (.phys placePa) 2 = true) ∧
    (stTab.walk (some 0) 0 0x4000000000).isOk = true :=
  ⟨⟨by decide, by decide, by decide, by decide⟩, ⟨by decide, by decide, rfl, by decide⟩, by decide +kernel⟩

/-! ### Vectors, copies, token queues, streams, matrices -/

/-- A reading that succeeds with a state and a value as asked. -/
def gotSat {α : Type} (g : Got α) (p : State → α → Bool) : Bool := match g with | .ok s a => p s a | .stop _ _ => false
/-- An instruction's part that comes to a state as asked. -/
def resSat (r : Res) (p : State → Bool) : Bool := match r with | .ok s => p s | .stop _ _ => false

/-- Inside a VLOOP's body, and the same with the body's words at the PC: NOP-free, one VADD. -/
def stBody : State := stT { ctx with vec := { bodyLeft := 1 } }
def stLoop : State :=
  ({ st with dram := online, tlb := [placeTlb], ir := { next := placePc, words := [0] } } : State).writeAt (.phys placePa)
    [0x40, 0xF8, 0x12, 0x03]
theorem witness_VectorDispatchCompletes :
    (Opens {} {} st st ∧ st.t.vec.bodyLeft = 0 ∧ st.entriesUsed < 16) ∧ (Opens {} {} stBody stBody ∧ 0 < stBody.t.vec.bodyLeft) ∧
    (stBody.P 1 = false ∧ 0 < stBody.t.vec.bodyLeft ∧ stBody.t.hold = none ∧ stBody.speculative stBody.cur = false) ∧
    (Opens {} { a := 1 } stLoop stLoop ∧ stLoop.checkBody 1 1 stLoop.ir.next = .ok () ∧ stLoop.entriesUsed + 1 + 1 ≤ 16) :=
  ⟨⟨witness_open _ _ rfl rfl (by decide), rfl, by decide⟩, ⟨witness_open_way _ _ _ rfl rfl rfl rfl (by decide), by decide⟩,
    ⟨by decide, by decide, rfl, by decide⟩, Opens.plain (s := stLoop) rfl rfl rfl rfl (by decide), rfl, by decide⟩
/-- A VADD at the head of the stream of context 0. -/
def ent : SeqEnt :=
  { page := 1, id := rowVadd.id, f := { d := 3, a := 1, b := 2, ext := 8 }, base := 0x0312, seqno := 0, pc := 0x4000000000,
    guard := true, member := false, vals := [], rm := 0 }
def stEnt : State := stT { ctx with vec := { seq := [ent], v := [(1, 7), (2, 9)] } }
theorem witness_VectorIssueHappens : (stEnt.thread 0).st = .run ∧ (stEnt.thread 0).stopReq = false ∧
    (stEnt.thread 0).vec.halted = false ∧ (stEnt.thread 0).vec.loop = none ∧ (stEnt.thread 0).vec.seq = [ent] ∧
    (stEnt.core (coreId 0)).vissued = false ∧ ent.page = 1 ∧ ent.maj < 8 ∧ ent.queueNeed = none ∧ ent.guard = true ∧
    stEnt.vecReady 0 ent = true :=
  ⟨rfl, rfl, rfl, rfl, rfl, rfl, rfl, by decide, by decide, rfl, by decide⟩
theorem witness_IntegerLaneValues : (7 : Nat) < 8 ∧ 3 < 128 / tyBits 6 ∧ (4 : Nat) ≤ 7 := by decide

/-- A block in local memory whose address is in w0: what its bytes hold from an offset on. -/
def stBlk (o : Nat) (bs : List Byte) : State := { stL with mem := (stL.writeAt (.slice 0 o) bs).mem }
theorem open_stBlk (o : Nat) (bs : List Byte) : Opens { irrev := true, names := [0, 1] } { b := 1 } (stBlk o bs) (stBlk o bs) :=
  Opens.plain (s := stBlk o bs) rfl rfl rfl rfl (by change ∀ a ∈ [0, 1], _ < 8; decide)
/-- The command that a block asks for as `fn`, with the checks' answers. -/
def asks (s : State) (fn : Nat) (p : Blk → State → List Byte → Bool) : Bool :=
  gotSat (s.loadObj (s.W 0) 128 64) fun s2 raw =>
    let b := parseBlk raw
    gotSat (s2.loadObj (objOf fn b).1 (objOf fn b).2.1 (objOf fn b).2.2) fun s3 obj => p b s3 obj
def isErr {α : Type} (x : Except Nat α) : Bool := match x with | .error _ => true | .ok _ => false
/-- The cluster that the record of a multicast with tag 5 waits for. -/
def stFree : State :=
  { stW 5 (2 ^ 20) with
    clus := [(0, { launch := some 0, lmem := 32, vct := [(0, 0x8000)], mcasts := [{ tag := 5, lid := 0, tid := 0, wait := [0], done := true }] })] }
theorem witness_CopyIssueCompletes :
    (Opens { irrev := true, names := [0, 1] } { b := 1 } (stBlk 0x14 [8]) (stBlk 0x14 [8]) ∧ (stBlk 0x14 [8]).storesOut 0 = false ∧
      ((stBlk 0x14 [8]).clu 0).cmds.length < 64 ∧ asks (stBlk 0x14 [8]) 0 (fun b _ _ => b.reserved 0) = true) ∧
    asks (stBlk 0 []) 0 (fun b s3 obj => !b.reserved 0 && isErr (planOf 0 b obj (s3.clu 0).vcl 0 (s3.clu 0).vValid)) = true ∧
    asks (stBlk 0 (leBytes 8 loc0.toNat)) 7 (fun b s3 obj =>
      match planOf 7 b obj (s3.clu 0).vcl 0 (s3.clu 0).vValid with
      | .ok p => !b.reserved 7 && lateCheck 7 b p (s3.clu 0) 0 != 0
      | .error _ => false) = true ∧
    asks (stBlk 8 (leBytes 8 loc0.toNat)) 0 (fun b s3 obj =>
      match planOf 0 b obj (s3.clu 0).vcl 0 (s3.clu 0).vValid with
      | .ok p => !b.reserved 0 && lateCheck 0 b p (s3.clu 0) 0 == 0
      | .error _ => false) = true ∧
    (Opens { irrev := true, names := [0] } {} stFree stFree ∧ (stFree.clu 0).cmds.length < 64 ∧ stFree.released 0 = true ∧ bitsOf (stFree.W 0) 63 20 = 0 ∧
      mfind (stFree.launch 0).pcls (bitsOf (stFree.W 0) 19 8) = some 0) ∧
    (Opens { irrev := true, names := [1] } { a := 1 } stFree stFree ∧ bitsOf (stFree.W 1) 63 20 ≠ 0) :=
  ⟨⟨open_stBlk _ _, by decide, by decide, by decide +kernel⟩, by decide +kernel, by decide +kernel, by decide +kernel,
    ⟨Opens.plain (s := stFree) rfl rfl rfl rfl (by decide), by decide⟩, Opens.plain (s := stFree) rfl rfl rfl rfl (by decide), by decide⟩

/-- A queue of two slots at offset 0x100 of the own slice, whose producer and consumer are thread 0. -/
def tq (req posted : Nat) : Tq :=
  { off := 0x100, data := 0, ssize := 16, tag := 1, level := 0, live := 1, init := 0,
    slots := [{ seq := 0, arr := 0, exps := 1, pend := 0, err := false, token := false, retired := [] },
              { seq := 1, arr := 0, exps := 1, pend := 0, err := false, token := false, retired := [] }],
    prod := [{ tid := 0, req := req, acq := 0, posted := posted, dropped := false }],
    cons := [{ tid := 0, req := req, acq := 0, posted := posted, dropped := false }] }
def stQ (x y : Word) (q : List Tq) : State := { stW x y with cores := [(0, { tq := q })] }
def h0 : Word := 0x00FFFFFFFFFF0100
theorem open_stQ (x y : Word) (q : List Tq) (k : Kind) (f : Fld) (hm : k.mode = 0) (hg : f.g = 0) (hn : ∀ a ∈ k.names, a.toNat < 8) :
    Opens k f (stQ x y q) (stQ x y q) := Opens.plain (s := stQ x y q) (by simp [Kind.allowed, hm]) (by rw [hg]; rfl) rfl rfl hn
theorem witness_TokenQueueCompletes :
    (Opens { irrev := true, names := [0] } {} (stQ h0 0 []) (stQ h0 0 []) ∧ (stQ h0 0 []).handle ((stQ h0 0 []).W 0) = .ok (some (0, 0x100)) ∧
      (stQ h0 0 []).released 0 = true ∧ ((stQ h0 0 []).core 0).tqAt 0x100 = none) ∧
    ((∀ x ∈ [tqArrive (tq 0 0) 0, tqProd (tq 0 0) 1, tqProd (tq 2 0) 0], x.isOk = false) ∧
      ∀ x ∈ [tqProd (tq 1 0) 0, tqArrive (tq 1 1) 0, tqCons (tq 0 0) 0, tqRetire (tq 1 1) 0, tqDrop (tq 0 0) 0], x.isOk = true) ∧
    (Opens { irrev := true, names := [0, 1] } { b := 1 } (stQ h0 2 []) (stQ h0 2 []) ∧ 1 < ((stQ h0 2 []).W 1).toNat) ∧
    ((stQ h0 1 [tq 0 0]).W 1 = 1 ∧ ((stQ h0 1 [tq 0 0]).core 0).tqAt 0x100 = some (tq 0 0)) ∧
    ((stQ 0x00FE000000008100 0 []).handle 0x00FE000000008100 = .ok (some (1, 0x100)) ∧ 1 ≠ coreId (stQ h0 0 []).cur) ∧
    ((tq 1 1).expect 0 5).isSome = true :=
  ⟨⟨open_stQ _ _ _ _ _ rfl rfl (by decide), rfl, by decide⟩, by decide, ⟨open_stQ _ _ _ _ _ rfl rfl (by decide), by decide⟩, by decide,
    ⟨rfl, by decide⟩, by decide⟩

/-- A descriptor of one dense level of 10, and of one compressed level of 10 whose arrays lie in the mapped page. -/
def fibD : List Byte := leBytes 9 0x4000000000 ++ leBytes 11 1 ++ leBytes 236 10
def fibC : List Byte := leBytes 9 0x4000000000 ++ leBytes 7 1 ++ leBytes 4 1 ++ leBytes 4 10 ++ leBytes 8 0x4000000000 ++
  leBytes 8 0x4000000100 ++ leBytes 216 8
def fibD2 : List Byte := leBytes 9 0 ++ leBytes 11 2 ++ leBytes 32 10 ++ leBytes 204 10
/-- Registers: s0 READ over the dense level, s1 the same, s2 WRITE over the compressed one, s3 READ over two dense levels. -/
def srD : Strm := { mode := 1, posn := 2, send := 10, crdv := 2, desc := loc0, dsc := fibD }
def srW : Strm := { mode := 4, posn := 1, send := 0, crdv := 3, desc := loc0, dsc := fibC }
def stS (x y : Word) (img : List Byte) : State :=
  { stT { ctx with win := { ring := [(0, x), (1, y)] }, strm := [(0, srD), (1, srD), (2, srW), (3, { srD with dsc := fibD2 })] } with
    dram := online, tlb := [{ placeTlb with r := true, w := true }], mem := (st.writeAt (.slice 0 0) img).mem }
/-- The state in which a page-4 instruction's effect begins. -/
def stS1 (x y : Word) (img : List Byte) : State := { stS x y img with cores := [(0, { strms := [0] })], thr := [(0, { (stS x y img).t with lastStrm := 640 })] }

theorem opens_stS (x y : Word) (img : List Byte) (irrev : Bool) (names : List (BitVec 6)) (regs : List Nat) (f : Fld) (hg : f.g = 0)
    (hn : ∀ a ∈ names, a.toNat < 8) (s1 : State)
    (h1 : (stS x y img).strmIn = some s1) (h2 : State.pendAll regs s1 = .ok s1) : StrmOpens irrev names regs f (stS x y img) s1 :=
  ⟨stS x y img, s1, Opens.plain (s := stS x y img) (by simp [Kind.allowed]) (by rw [hg]; rfl) rfl rfl hn, h1, h2⟩
/-- Where the descriptor of one dense level stands in local memory, a READ of it opens; with that of a compressed level a WRITE does. -/
def sA : State := stS1 0x10FFFFFFFFFF0000 loc0 fibD
def sB : State := stS1 0x40FFFFFFFFFF0000 5 fibC
theorem witness_StreamCompletes :
    (StrmOpens false [0, 1] [5] { a := 5 } (stS 0x10FFFFFFFFFF0000 loc0 fibD) sA ∧ bitsOf (sA.W 0) 63 60 = 1 ∧ sA.released 0 = true ∧
      gotSat (sA.loadObjAs 4 0 (zextW (sA.W 0) 56) 256 64) (fun s2 d => fibreOk d && decide (bitsOf (sA.W 0) 59 56 < fibLevels d) &&
        gotSat (s2.openRead { mode := 1, desc := loc0, parent := loc0, dsc := d } d) fun _ _ => true) = true) ∧
    (bitsOf (sB.W 0) 63 60 = 4 ∧ sB.speculative 0 = false ∧ sB.released 0 = true ∧
      gotSat (sB.loadObjAs 4 0 (zextW (sB.W 0) 56) 256 64) (fun s2 d => fibreOk d && (levOf d 0).kind == 1 && !(levOf d 0).nu &&
        gotSat (s2.entry { mode := 4, desc := loc0, dsc := d } ((levOf d 0).pos + 4 * 5) 4) fun _ _ => true) = true) ∧
    (sA.check (sA.W 1) 64 { w := true } 1 = .ok (.slice 0 0) ∧ sA.t.spec.sb = []) ∧
    ((stS1 0 loc0 []).released 0 = true ∧ gotSat ((stS1 0 loc0 []).loadObjAs 4 0 loc0 64 64) (fun _ b => !badImage 5 b) = true) ∧
    ((sA.sr 3).mode = 1 ∧ (sA.sr 3).done = false ∧ gotSat (sA.fibre (sA.sr 3)) (fun s2 d => decide ((sA.sr 3).level + 1 < fibLevels d) &&
      gotSat (s2.openRead { mode := 1, level := 1, desc := (sA.sr 3).desc, parent := (sA.sr 3).posn, dsc := d, look := (sA.sr 3).look } d)
        fun _ _ => true) = true) ∧
    ((sA.sr 0).mode = 1 ∧ (sA.sr 1).mode = 1 ∧ resSat ((sA.setSr 4 { mode := 2, ina := 0, inb := 1 }).settleReg 4) (fun _ => true) = true ∧
      resSat ((sA.setSr 4 { mode := 3, ina := 0, inb := 1 }).settleReg 4) (fun _ => true) = true) ∧
    (sA.sr 5).mode = 0 ∧ gotSat (sA.advanceBy (sA.sr 0) 1) (fun _ _ => true) = true ∧
    gotSat (sA.gallop (sA.sr 0) 5) (fun _ _ => true) = true ∧ sA.W 1 ≠ 0 ∧ gotSat (sA.advanceBy (sA.sr 0) 8) (fun _ _ => true) = true ∧
    ((stS1 0 0 []).sr 0).mode = 1 ∧ (stS1 0 0 []).W 1 = 0 := by
  refine ⟨⟨opens_stS _ _ _ _ _ _ _ rfl (by decide) _ ?_ ?_, ?_⟩, ?_, ⟨rfl, ?_⟩, ?_, ?_, ?_⟩ <;> decide +kernel
theorem witness_StreamCloses : StrmOpens false [] [2] { a := 2 } (stS 0 0 []) (stS1 0 0 []) ∧ ((stS1 0 0 []).sr 2).mode = 4 ∧
    (stS1 0 0 []).speculative 0 = false :=
  ⟨opens_stS _ _ _ _ _ _ _ rfl (by decide) _ (by decide +kernel) (by decide +kernel), by decide, by decide⟩
theorem witness_StreamValuesComplete :
    (StrmOpens true [0] [0] { a := 0, b := 0 } (stS 5 0 []) (stS1 5 0 []) ∧ ((stS1 5 0 []).sr 0).isComb = false) ∧
    (((stS1 5 0 []).sr 5).mode ≠ 1 ∧ ((stS1 5 0 []).sr 5).isComb = false) ∧
    (((stS1 5 0 []).sr 0).done = false ∧ ((stS1 5 0 []).t.queue 0).length < 8 ∧
      ∀ kind ∈ [0, 1, 2], gotSat (State.liveVals kind 0 [(stS1 5 0 []).sr 0] (stS1 5 0 [])) (fun _ _ => true) = true) ∧
    ((stS1 5 0 []).W 0 ≠ 0 ∧ gotSat (State.batch fibD 5 0 srD [] (stS1 5 0 [])) (fun _ _ => true) = true) ∧
    (((stS1 5 0 []).sr 2).mode = 4 ∧ gotSat ((stS1 5 0 []).fibre ((stS1 5 0 []).sr 2)) (fun s2 d =>
      let x := levOf d 0
      decide (5 < x.size) && decide (1 < x.ncrd) && s2.t.spec.sb.isEmpty && (s2.check (BitVec.ofNat 64 (x.crd + 4)) 4 { w := true } 1).isOk &&
        (s2.check (BitVec.ofNat 64 (fibVals d)) (fibWidth d) { w := true } 1).isOk && !s2.strmOut 0 &&
        (s2.check (BitVec.ofNat 64 (x.pos + 4)) 4 { w := true } 1).isOk) = true) :=
  ⟨⟨opens_stS _ _ _ _ _ _ _ rfl (by decide) _ (by decide +kernel) (by decide +kernel), by decide⟩, by decide +kernel⟩

/-- A cluster with a matrix group of thread 0 in half 0. -/
def grp0 : Group := { key := 1, lid := 0, members := [0], ctx := {}, place := some 0 }
def stGrp (w : Word) : State :=
  { stT { ctx with grp := some 0, win := { ring := [(1, w)] } } with
    clus := [(0, { launch := some 0, lmem := 32, vct := [(0, 0x8000)], meng := [(0, { groups := [(0, grp0)] })] })] }
theorem open_stGrp (w : Word) (k : Kind) (f : Fld) (hm : k.mode = 0) (hg : f.g = 0) (hn : ∀ a ∈ k.names, a.toNat < 8) :
    Opens k f (stGrp w) (stGrp w) := Opens.plain (s := stGrp w) (by simp [Kind.allowed, hm]) (by rw [hg]; rfl) rfl rfl hn
theorem witness_JobDispatchCompletes : Opens { names := pairAt 0 ++ pairAt 2 } { b := 2 } st st ∧
    Opens { names := [1, 2, 3, 4, 5] } { b := 1 } st st ∧ st.entriesUsed < 16 ∧ st.storesOut 0 = false :=
  ⟨witness_open _ _ rfl rfl (by decide), witness_open _ _ rfl rfl (by decide), by decide, by decide⟩
theorem witness_GroupInstructionsComplete :
    (Opens { irrev := true, names := [0, 1] } { b := 1 } st st ∧ (st.t.vec.seq.any fun e => e.page == 5) = false ∧ st.t.jobs = 0 ∧
      st.myGroup 0 = none) ∧
    (Opens { irrev := true, names := [0, 1] } { b := 1 } (stGrp 32) (stGrp 32) ∧ (stGrp 32).myGroup 0 = some (0, 0, grp0) ∧
      ((stGrp 32).W 1).toNat = 32) ∧
    ((stGrp 31).W 1).toNat < 32 ∧ ((stGrp (2 ^ 63)).W 1).getLsbD 63 = true :=
  ⟨⟨witness_open _ _ rfl rfl (by decide), rfl, rfl, rfl⟩, ⟨open_stGrp _ _ _ rfl rfl (by decide), rfl, by decide⟩, by decide, by decide +kernel⟩

/-! ### Messages, domains, tasks, the system -/

/-- A cluster in a slot of whose schedule core 0 may send to vcluster 0, and a mailbox with one message. -/
def stMsg (x y : Word) (box : List V128) : State :=
  { stT { ctx with win := { ring := [(0, x), (1, y)] }, mail := { box := box } } with
    clus := [(0, { launch := some 0, lmem := 32, vct := [(0, 0x8000)], log2f := some 10,
                   slots := [{ core := 0, dstv := 0, start := 640, len := 1 }] })],
    outer := { peerPort := [(3, 0)] } }
theorem open_stMsg (x y : Word) (b : List V128) (k : Kind) (f : Fld) (hm : k.mode = 0) (hg : f.g = 0) (hn : ∀ a ∈ k.names, a.toNat < 8) :
    Opens k f (stMsg x y b) (stMsg x y b) := Opens.plain (s := stMsg x y b) (by simp [Kind.allowed, hm]) (by rw [hg]; rfl) rfl rfl hn
theorem witness_MessageInstructionsComplete :
    (Opens { irrev := true, names := [0, 1, 2] } { b := 1 } (stMsg 0 0 []) (stMsg 0 0 []) ∧ (stMsg 0 0 []).t.mail.slot = none ∧
      ((stMsg 0 0 []).sendMsg 0 0 0).dev = 0 ∧ ((stMsg 0 0 []).clu 0).vValid 0 = true ∧ bitsOf ((stMsg 0 0 []).W 0) 36 32 = 0 ∧
      (stMsg 0 0 []).msgCut ((stMsg 0 0 []).sendMsg 0 0 0) = false ∧ (stMsg 0 0 []).slotPhase = 640) ∧
    (let m := (stMsg (2 ^ 32 * 3) 0 []).sendMsg (2 ^ 32 * 3) 0 0
     m.dev = 3 ∧ mhas (stMsg 0 0 []).outer.peerPort 3 = true ∧ (stMsg (2 ^ 32 * 3) 0 []).msgCut m = false) ∧
    chosen ((stMsg 1 0 [0]).W 0) (stMsg 1 0 [0]).t.mail.box = some 0 ∧
    (chosen ((stMsg 1 640 []).W 0) [] = none ∧ ((stMsg 1 640 []).W 1).toNat ≤ (stMsg 1 640 []).gtime) ∧
    (stMsg 0 0 []).t.mail.alarmHeld = false ∧ (st.clu 0).log2f = none ∧
    (((stMsg 0 0 []).clu 0).log2f = some 10 ∧
      (nextSlot 640 (2 ^ 10) [{ core := 0, dstv := 0, start := 640, len := 1 }]).isSome = true) :=
  ⟨⟨open_stMsg _ _ _ _ _ rfl rfl (by decide), by decide⟩, by decide⟩

def stDom (x y : Word) (arr : SMap Nat) : State :=
  { stT { ctx with win := { ring := [(0, x), (1, y)] }, spec := { arr := arr } } with
    clus := [(0, { launch := some 0, lmem := 32, vct := [(0, 0x8000)],
                   dom := [(2, { dinfo := 0x80000000 }), (4, { dinfo := 0x80000000 })], dmap2 := [(0, 1)] })],
    dram := online }
theorem open_stDom (x y : Word) (b : SMap Nat) (k : Kind) (f : Fld) (hm : k.mode = 0) (hg : f.g = 0) (hn : ∀ a ∈ k.names, a.toNat < 8) :
    Opens k f (stDom x y b) (stDom x y b) := Opens.plain (s := stDom x y b) (by simp [Kind.allowed, hm]) (by rw [hg]; rfl) rfl rfl hn
theorem witness_DomainInstructionsComplete :
    (Opens { irrev := true } { b := 4 } (stDom 0 0 []) (stDom 0 0 []) ∧ (stDom 0 0 []).resolve 0 4 = 4 ∧ (stDom 0 0 []).arrival 4 = 0 ∧
      (stDom 0 0 []).entriesUsed = 0 ∧ (stDom 0 0 []).released 0 = true) ∧
    (stDom 0 0 [(4, 1)]).arrival 4 = 1 ∧
    (Opens { names := [0, 1] } { b := 1 } (stDom 0 4 []) (stDom 0 4 []) ∧ bitsOf ((stDom 0 4 []).W 1) 5 4 = 0) ∧
    bitsOf ((stDom 0 0x12 []).W 1) 5 4 = 1 ∧
    (bitsOf ((stDom loc0 0x22 []).W 1) 5 4 = 2 ∧ (stDom loc0 0x22 []).speculative 0 = false ∧
      gotSat ((stDom loc0 0x22 []).loadObj loc0 512 64) (fun s2 _ => s2.vcl0 s2.t.lid) = true) ∧
    (bitsOf ((stDom 0 0x32 []).W 1) 5 4 = 3 ∧ (stDom 0 0x32 []).vcl0 0 = true ∧ ((stDom 0 0x32 []).clu 0).formed 2 = true ∧
      ((stDom 0 0x33 []).clu 0).formed 3 = false) ∧
    ((stDom loc0 0 []).released 0 = true ∧ gotSat ((stDom loc0 0 []).loadObj loc0 128 128) (fun s2 _ => !s2.launchWaits 0) = true) :=
  ⟨⟨open_stDom _ _ _ _ _ rfl rfl (by decide), by decide⟩, by decide, ⟨open_stDom _ _ _ _ _ rfl rfl (by decide), by decide⟩, by decide +kernel⟩
theorem witness_UnformedLevelActsAsWider :
    (mget {} ((stDom 0 4 []).clu 0).dom 2).dinfo.getLsbD 31 = true ∧ ¬ (mget {} ((stDom 0 4 []).clu 0).dom 3).dinfo.getLsbD 31 = true ∧
    (Opens { names := [0, 1] } { b := 1 } (stDom 0 4 []) (stDom 0 4 []) ∧ bitsOf ((stDom 0 4 []).W 1) 5 4 = 0 ∧
      bitsOf ((stDom 0 4 []).W 1) 2 0 ≤ 4) :=
  ⟨by decide, by decide, open_stDom _ _ _ _ _ rfl rfl (by decide), by decide, by decide⟩

def task0 (l u key last : Nat) : Task := { level := l, unit := u, key := key, pay0 := 0, pay1 := 0, last := last }
def stTask (x : Word) (gvt : Word) (ts : List Task) : State :=
  { stW x 0 with
    clus := [(0, { launch := some 0, lmem := 32, vct := [(0, 0x8000)], dom := [(4, { dinfo := 0x80000000, gvt := gvt })], tasks := ts })] }
theorem open_stTask (x g : Word) (b : List Task) (k : Kind) (f : Fld) (hm : k.mode = 0) (hg : f.g = 0) (hn : ∀ a ∈ k.names, a.toNat < 8) :
    Opens k f (stTask x g b) (stTask x g b) := Opens.plain (s := stTask x g b) (by simp [Kind.allowed, hm]) (by rw [hg]; rfl) rfl rfl hn
/-- The tie and key that TENQ computes for timestamp 7 in the root domain. -/
def tie7 (s : State) : Nat := (s.vclu 0 0).nextTie 4 0 7
theorem witness_TaskInstructionsComplete :
    (Opens { irrev := true, names := [0, 1, 2] } { b := 1 } (stTask (2 ^ 50 + 2 ^ 48) 0 []) (stTask (2 ^ 50 + 2 ^ 48) 0 []) ∧
      4 < bitsOf ((stTask (2 ^ 50 + 2 ^ 48) 0 []).W 0) 50 48) ∧
    (let s := stTask (2 ^ 50 + 7) 0 (List.replicate 512 (task0 4 0 1 1))
     bitsOf (s.W 0) 50 48 = 4 ∧ mhas (s.launch 0).pcls (unitVc 4 (s.leaderUnit 0 4)) = true ∧ 512 ≤ (s.vclu 0 0).tasks.length) ∧
    (let s := stTask (2 ^ 50 + 7) (ones64) []
     (s.vclu 0 0).tasks.length < 512 ∧ 7 * 65536 + tie7 s ≤ (s.domOf 0 4 0).gvt.toNat) ∧
    (let s := stTask (2 ^ 50 + 7) 0 [task0 4 0 (7 * 65536 + 65535) 65535]
     (s.domOf 0 4 0).gvt.toNat < 7 * 65536 + tie7 s ∧ 65535 < tie7 s) ∧
    (let s := stTask (2 ^ 50 + 7) 0 []
     (s.domOf 0 4 0).gvt.toNat < 7 * 65536 + tie7 s ∧ tie7 s ≤ 65535) ∧
    (let s := stTask 0 0 [task0 4 0 (7 * 65536) 0]
     let s2 := (s.dropMarks 0).doneTask
     s.t.spec.sb = [] ∧ s2.entriesUsed = 0 ∧ mhas (s2.launch 0).pcls (unitVc 4 (s2.leaderUnit 0 4)) = true ∧
       leastTask 4 0 (s2.vclu 0 0).tasks = some (task0 4 0 (7 * 65536) 0) ∧ s.t.spec.task = none) ∧
    (let s := stTask 0 0 []
     let s2 := (s.dropMarks 0).doneTask
     s.t.spec.sb = [] ∧ s2.entriesUsed = 0 ∧ mhas (s2.launch 0).pcls (unitVc 4 (s2.leaderUnit 0 4)) = true ∧
       leastTask 4 0 (s2.vclu 0 0).tasks = none) :=
  ⟨⟨open_stTask _ _ _ _ _ rfl rfl (by decide), by decide⟩, by decide +kernel⟩

def ckpt0 : Ckpt := { pc := 0x4000000040, win := {}, pw := 1, v := [], strm := [], spen := true }
def stAb : State := stT { ctx with spec := { sb := [sbe 0], ckpt := some ckpt0 }, sys := { vt := 5 } }
theorem witness_TaskAbortCompletes : Opens {} {} st st ∧ st.speculative 0 = false ∧
    Opens {} {} stAb stAb ∧ stAb.speculative 0 = true ∧ stAb.t.spec.ckpt = some ckpt0 :=
  ⟨witness_open _ _ rfl rfl (by decide), by decide,
    { spen := fun _ => rfl, mode := rfl, guard := rfl, hold := rfl, irrev := fun h => absurd h (by decide), frame := rfl }, by decide, rfl⟩

/-- The context as the runtime. -/
def stR (x y : Word) : State := stT { ctx with mode := .runtime, win := { ring := [(0, x), (1, y)] } }
theorem open_stR (x y : Word) (k : Kind) (f : Fld) (hm : k.mode ≤ 1) (hg : f.g = 0) (hn : ∀ a ∈ k.names, a.toNat < 8) :
    Opens k f (stR x y) (stR x y) := by
  refine Opens.plain (s := stR x y) ?_ (by rw [hg]; rfl) rfl rfl hn
  obtain h | h : k.mode = 0 ∨ k.mode = 1 := by omega
  all_goals (rw [Kind.allowed, h]; rfl)
theorem witness_SystemRegistersComplete :
    (Opens { irrev := true, names := [0] } { imm := 0x20 } st st ∧ st.sysReg 0x20 = some 0 ∧
      (st.t.vec.seq.any fun e => e.page == 1) = false ∧ st.t.vec.under st.gtime = 0) ∧
    (Opens { irrev := true, names := [0] } { imm := 0x109 } (stR 0 0) (stR 0 0) ∧ (stR 0 0).sysReg 0x109 = some 0 ∧
      (stR 0 0).t.privileged = true) :=
  ⟨⟨witness_open _ _ rfl rfl (by decide), by decide, rfl, rfl⟩, open_stR _ _ _ _ (by decide) rfl (by decide), by decide, by decide⟩
def stVec (tvec kvec : Word) : State := stT { ctx with sys := { tvec := tvec, kvec := kvec } }
theorem open_stVec (x y : Word) (k : Kind) (f : Fld) (hm : k.mode = 0) (hg : f.g = 0) (hn : ∀ a ∈ k.names, a.toNat < 8) :
    Opens k f (stVec x y) (stVec x y) := Opens.plain (s := stVec x y) (by simp [Kind.allowed, hm]) (by rw [hg]; rfl) rfl rfl hn
theorem witness_TrapInstructionsEnter :
    (Opens { irrev := true } {} (stVec (BitVec.allOnes 64) 0) (stVec (BitVec.allOnes 64) 0) ∧
      (stVec (BitVec.allOnes 64) 0).t.completeAt ≤ 640 ∧ ∀ c ∈ [cSWTRAP, cBRK], (stVec (BitVec.allOnes 64) 0).t.sys.tvec.getLsbD (32 + c) = true) ∧
    (Opens { irrev := true } {} (stVec 0 64) (stVec 0 64) ∧ (stVec 0 64).t.mode = .user ∧ (stVec 0 64).t.act = false ∧ (stVec 0 64).t.completeAt ≤ 640 ∧
      (∀ c ∈ [cSWTRAP, cBRK], (stVec 0 64).t.sys.tvec.getLsbD (32 + c) = false) ∧ (stVec 0 64).t.sys.kvec ≠ 0) :=
  ⟨⟨open_stVec _ _ _ _ rfl rfl (by decide), by decide⟩, open_stVec _ _ _ _ rfl rfl (by decide), by decide⟩
theorem witness_TrapReturnCompletes :
    (Opens { irrev := true } {} (stT (ctx.setAct true)) (stT (ctx.setAct true)) ∧ (stT (ctx.setAct true)).t.act = true) ∧
    (Opens { irrev := true } {} (stR 0 0) (stR 0 0) ∧ (stR 0 0).t.mode = .runtime ∧ isSteward (stR 0 0).cur = false ∧
      isHandler (stR 0 0).cur = false) ∧
    (Opens { irrev := true } {} st st ∧ st.t.act = false) ∧
    ((stVec 0 64).t.hold = none ∧ cSWTRAP ≠ cPREEMPT ∧ (stVec 0 64).t.sys.kvec ≠ 0) :=
  ⟨⟨witness_open_way _ _ _ rfl rfl rfl rfl (by decide), by decide⟩, ⟨open_stR _ _ _ _ (by decide) rfl (by decide), rfl, by decide, by decide⟩,
    ⟨witness_open _ _ rfl rfl (by decide), by decide⟩, by decide⟩
def rent (c : Nat) : RingEnt := { pc := 0, ctx := c, page := 1, maj := 0, seqno := 5, status := 0, sub := 0, base := 0, snap0 := 0, snap1 := 0 }
def stRing : State := { stW 0 5 with cores := [(0, { cring := [rent 1, rent 0] })] }
theorem witness_PrivilegedReadsComplete :
    (Opens { mode := 1, irrev := true, names := [0, 1] } { b := 1 } (stR 0 0) (stR 0 0) ∧ (stR 0 0).released 0 = true ∧
      (stR 0 0).translatedOut (some 0) ((stR 0 0).samePage 0 0) = false ∧ ((stR 0 0).W 0).getLsbD 63 = false) ∧
    (((stR (2 ^ 63) 0).W 0).getLsbD 63 = true ∧ (stR (2 ^ 63) 0).translatedOut none (fun _ => true) = false) ∧
    (Opens { irrev := true, names := [0, 1] } { b := 1 } st st ∧ isHandler st.cur = false ∧ (st.core 0).cring = []) ∧
    (Opens { irrev := true, names := [0, 1] } { b := 1 } stRing stRing ∧ bitsOf (stRing.W 1) 11 0 = 5 ∧
      (stRing.core 0).cring = [rent 1] ++ rent 0 :: [] ∧ (rent 0).ctx = stRing.cur % 4 ∧ (rent 1).ctx ≠ stRing.cur % 4) :=
  ⟨⟨open_stR _ _ _ _ (by decide) rfl (by decide), by decide, by decide, by decide⟩, by decide +kernel,
    ⟨witness_open _ _ rfl rfl (by decide), by decide, by decide⟩, Opens.plain (s := stRing) rfl rfl rfl rfl (by decide), by decide, by decide,
    by decide, by decide⟩
/-- The handler of core 0 with a record's address in its w0, and the steward's context with a master's id in its w0. -/
def stH : State :=
  { st with cur := 2 ^ 18, thr := [(0, { ctx with tid := 0 }), (2 ^ 18, { st := .run, mode := .handler, win := { ring := [(0, loc0)] } })] }
def stSt (t : Thread) (x y : Word) : State :=
  { st with cur := 2 ^ 19, thr := [(0, t), (2 ^ 19, { st := .run, mode := .steward, win := { ring := [(0, x), (1, y)] } })] }
def resIs (r : State × Except EngErr Bool) (b : Bool) : Bool := match r.2 with | .ok x => x == b | .error _ => false
theorem saved_ok : ∃ s2, stH.saveCtx 0 loc0 = .ok s2 :=
  State.saveCtx_alias stH 0 loc0 rfl rfl rfl (by decide +kernel) (by decide +kernel) (by decide +kernel) (by decide +kernel)
theorem witness_HandlerAndStewardComplete :
    (Opens { mode := 2, irrev := true, names := [0] } {} stH stH ∧ (stH.W 0).toNat % 4096 = 0 ∧ ∃ s2, stH.saveCtx 0 (stH.W 0) = .ok s2) ∧
    resIs (stH.restCtx 0 loc0 640) false = true ∧
    (Opens { mode := 3, irrev := true, names := [0, 1] } { b := 1 } (stSt ctx (2 ^ 62) 0) (stSt ctx (2 ^ 62) 0) ∧
      (stSt ctx (2 ^ 62) 0).masterOf (2 ^ 62) = none) ∧
    ((stSt ctx 0 0).masterOf 0 = some (.thread 0) ∧ (stSt ctx 0 0).isFrozen (.thread 0) = false ∧ (ctx.st ≠ .empty)) ∧
    ((stSt { ctx with st := .frozen } 0 0).thread 0).st = .frozen ∧ ((stSt {} 0 0).thread 0).st = .empty :=
  ⟨⟨Opens.plain (s := stH) rfl rfl rfl rfl (by decide), by decide, saved_ok⟩, by decide +kernel,
    ⟨Opens.plain (s := stSt ctx (2 ^ 62) 0) rfl rfl rfl rfl (by decide), by decide +kernel⟩, by decide +kernel, rfl, rfl⟩

/-! ### The events of the units -/

def cmd0 : Cmd :=
  { slot := 0, lid := 0, tid := 0, fn := 0, block := loc0, tag := 1, count := false, pen := false, qh := 0, qseq := 0, kslot := 0, ctr := 0,
    cls := 0, pieces := [], prep := true, units := [], total := 0, written := 0, promise := 0, fin := 0, vt := 0, asid := 0, core := 0,
    priv := false, tagAt := 0, len := 0, src := 0, dst := 0, status := 0, state := 0, voided := false, dseq := 0, asks := [] }
def unit0 : UnitW := { loc := .slice 0 0, cells := [(0, 7)], n := 1, sent := true }
def stCmd (k : Cmd) : State :=
  { st with clus := [(0, { launch := some 0, lmem := 32, vct := [(0, 0x8000)], cmds := [k],
                           mcasts := [{ tag := 1, lid := 0, tid := 0, wait := [], done := true }] })],
            cores := [(0, { tq := [tq 0 0] })], decs := [{ lid := 0, vcl := 0, core := 0, off := 0x100, qseq := 1, bytes := 4, err := false, cvcl := 1, slot := 0 }] }
def job0 : Job :=
  { lid := 0, tid := 0, core := 0, id := 0x50, f := {}, base := 0x5000, vals := [], va := 0, va1 := 0, vb := 0, vb1 := 0, seqno := 0, num := 0,
    vt := 0, priv := false }
def stJob (gs : SMap Group) : State :=
  { st with clus := [(0, { launch := some 0, lmem := 32, vct := [(0, 0x8000)], meng := [(0, { groups := gs })] })],
            launches := [(0, { active := true, ncl := 1, pcls := [(0, 0)], start := some 0, save := loc0 - 0xC1000 })] }
def run0 (us : List UnitW) : Group := { grp0 with jobs := [job0], run := some { units := us } }
theorem witness_CopyEventsHappen :
    (((stCmd cmd0).clu 0).cmd 0 = some cmd0 ∧ ∀ d ∈ (stCmd cmd0).decs, ¬(d.lid = 0 ∧ d.cvcl = ((stCmd cmd0).clu 0).vcl ∧ d.slot = 0)) ∧
    (let k := { cmd0 with pen := true, fin := 9, promise := 8 }
     ((stCmd k).clu 0).cmd 0 = some k ∧ k.promise < k.fin ∧ (stCmd k).promiseTo 0 0 = some 0) ∧
    ((stCmd cmd0).decs[0]?.isSome = true ∧ mfind ((stCmd cmd0).launch 0).pcls 0 = some 0 ∧ ((stCmd cmd0).core 0).tqAt 0x100 = some (tq 0 0) ∧
      ((tq 0 0).slots.find? (fun y => y.seq % 2 ^ 32 == 1 && !y.token)).isSome = true) ∧
    (((stCmd cmd0).clu 0).mcasts.find? (fun m => m.tag == 1 && m.done && m.wait.isEmpty)).isSome = true ∧
    (∀ x ∈ ((stCmd cmd0).clu 0).cmds, ¬ (x.fn = 3 ∧ x.tag = 1)) ∧
    (let k := { cmd0 with units := [unit0] }
     ((stCmd k).clu 0).cmd 0 = some k ∧ (stCmd k).cutFrom 0 unit0.loc = false ∧ (stCmd k).mayWrite 0 k 0 unit0 = true) ∧
    (let s := stJob [(0, run0 [unit0])]
     s.grp 0 0 0 = some (run0 [unit0]) ∧ (run0 [unit0]).frozen = false ∧ (run0 [unit0]).wait = false ∧ s.cutFrom 0 unit0.loc = false ∧ s.unitDue unit0 = true) := by
  decide +kernel

/-- Two threads whose stream contexts are resident, a third that waits, and images that go to local memory. -/
def stSix : State :=
  { stS 0 0 [] with
    thr := [(0, { (stS 0 0 []).t with lastStrm := 1 }), (1, { ctx with tid := 1, lastStrm := 2 }), (2, { ctx with tid := 2 })],
    cores := [(0, { strms := [0, 1], strmWant := some 2 })],
    launches := [(0, { active := true, ncl := 1, pcls := [(0, 0)], start := some 0, save := loc0 - 0x1800 })] }
/-- A READ over the compressed level, at position 1 with coordinate 3; entry 2 holds 7. -/
def srC : Strm := { srD with posn := 1, send := 4, crdv := 3, dsc := fibC }
def stLook (k : Option (Nat × Nat × Bool)) : State :=
  { stS 0 0 [] with
    thr := [(0, { (stS 0 0 []).t with strm := [(0, srC)] })], cores := [(0, { strms := [0], slook := k })],
    mem := ((stS 0 0 []).writeAt (.phys (placePa + 0x108)) [7]).mem }
def cholJob : Job := { job0 with id := 0x61, base := 0x6100, vals := [loc0, 0x1000000040] }
/-- Sixteen rows of +0. -/
def zeroes : Solve := { rows := List.replicate 16 (List.replicate 16 0), flags := 0, events := [] }
def storeJob : Job := { job0 with id := 0x52, base := 0x5200, vals := [loc0, 0x1000000040] }
/-- Three groups, of which the first two have the two places. -/
def gsFull : SMap Group := [(0, { grp0 with lastStart := 1 }), (1, { grp0 with place := some 1, lastStart := 2 }), (2, { grp0 with place := none, jobs := [job0] })]
theorem witness_StreamAndMatrixEventsHappen_reads :
    (let x := levOf fibC 0
     (stLook none).mayLook 0 0 = true ∧ ((stLook none).thread 0).sr 0 = srC ∧ srC.posn.toNat + 1 = 2 ∧ x.kind = 1 ∧
      x.crd = 0x4000000100 ∧ 2 < x.ncrd ∧ 2 < srC.send.toNat ∧ srC.known x 2 = none ∧
      ({ srC with look := [(0x4000000108, 10)] } : Strm).known x 2 = some 10 ∧ x.size ≤ 10) ∧
    ((stLook none).core 0).slook = none ∧
    (let s := stLook (some (0, 0, true))
     let s0 := s.setLook 0 none
     (s.core 0).slook = some (0, 0, true) ∧
      (match s0.access (s0.who 0) 0x4000000108 4 4 { r := true } with
        | .ok l => gotSat (s0.loadAs 4 0 0x4000000108 l 4 0 0) fun _ v => decide (v = 7)
        | .error _ => false) = true) := by
  decide +kernel
theorem witness_StreamAndMatrixEventsHappen_jobs :
    (let s := stJob [(0, run0 [])]
     s.grp 0 0 0 = some (run0 []) ∧ (run0 []).jobs.head? = some job0 ∧ job0.solver = false ∧ s.enginesHeld 0 = false ∧
      ((s.clu 0).eng 0).turnOf 0 (run0 []) = true) ∧
    (let g := { grp0 with jobs := [job0] }
     (match ((stJob [(0, g)]).jobRun 0 job0 g.ctx).2 with | .ok (_, []) => true | _ => false) = true) ∧
    (let g := { grp0 with jobs := [storeJob] }
     (match ((stJob [(0, g)]).jobRun 0 storeJob g.ctx).2 with | .ok (_, _ :: _) => true | _ => false) = true) ∧
    (let g := { grp0 with jobs := [cholJob] }
     let s := stJob [(0, g)]
     cholJob.solver = true ∧ ((s.clu 0).eng 0).turnOf 0 g = true ∧ s.solveCheck 0 cholJob = none ∧
      (s.readTarget 0 cholJob).isOk = true ∧ (s.readFactor 0 cholJob).isOk = true ∧
      (s.solvedUnits 0 cholJob (solveBlock cholJob {} [] 0 zeroes).rows).isOk = true ∧ cholJob.n = 16 ∧ s.enginesHeld 0 = false) := by
  decide +kernel
/-- Does the drain of a thread's stream context meet the conditions of each unit that it writes? -/
def drainOk (s : State) (pid : Nat) : Bool :=
  match s.engTarget (s.saveWho pid) (s.recBase pid + 0x800) (s.thread pid).images [], s.access (s.saveWho pid) (s.recBase pid + 0xCDD) 1 1 { r := true } with
  | .ok us0, .ok l =>
    (match s.engTarget (s.saveWho pid) (s.recBase pid + 0xCDD) [BitVec.ofNat 8 (s.readAt l 1 ||| 2)] us0 with
      | .ok us => us.all fun u => !s.reserved none u.loc (unitSize u.loc) && !s.leaseHolds u.loc && s.dramReady u.loc (unitSize u.loc) &&
          !s.isOwned u.loc (unitSize u.loc)
      | .error _ => false)
  | _, _ => false
/-- The group of `gsFull` that began a job longest ago. -/
def gOldest : Group := { grp0 with lastStart := 1 }
theorem witness_StreamAndMatrixEventsHappen_drains : stSix.mayDrain 0 = true ∧ drainOk stSix 0 = true := by decide +kernel
theorem witness_StreamAndMatrixEventsHappen_groups :
    ((stJob gsFull).grp 0 0 0 = some gOldest ∧ gOldest.mayDrain = true ∧ (((stJob gsFull).clu 0).eng 0).freePlace = none ∧ gOldest.run = none ∧
      (∃ p ∈ (((stJob gsFull).clu 0).eng 0).groups, p.2.place = none ∧ p.2.wants = true) ∧
      ∀ p ∈ (((stJob gsFull).clu 0).eng 0).groups, p.2.mayDrain = true → gOldest.lastStart ≤ p.2.lastStart) ∧
    ∃ us, (stJob gsFull).engTarget ((stJob gsFull).groupWho 0 gOldest) ((stJob gsFull).groupArea 0 0 gOldest) gOldest.area [] = .ok us ∧
      us.all (stJob gsFull).unitReady = true := by
  refine ⟨by decide +kernel, ?_⟩
  obtain ⟨us, h1, h2⟩ := State.engTarget_alias (stJob gsFull) ((stJob gsFull).groupWho 0 gOldest) ((stJob gsFull).groupArea 0 0 gOldest)
    gOldest.area rfl rfl rfl (by decide +kernel) (by rw [Group.area_length]; decide +kernel) (by decide +kernel)
  exact ⟨us, h1, List.all_eq_true.2 fun u hu => (h2 u hu).1⟩

def msg0 (kind : Nat) : NetMsg :=
  { msg := 0, lid := 0, dst := 0, kind := kind, src := 0, counted := true, vt := 0, t0 := 1, dev := 0, sq := 0, dseq := 0 }
def stNet (t : Thread) : State := { stT t with net := [msg0 1] }
def full : Thread := { ctx with mail := { box := List.replicate 32 0 } }
def parked : Thread := { ctx with st := .parked, mail := { park := some { a := 0, mask := 1, deadline := some 640, x := 1, nextPc := 0x4000000002 } } }
theorem witness_MessageEventsHappen :
    (∀ t ∈ [ctx, full, { ctx with st := .done }, { ctx with st := .empty }],
      (stNet t).net[0]? = some (msg0 1) ∧ (stNet t).overtakes 0 (msg0 1) = false ∧ (stNet t).sendReleased (msg0 1) = true ∧
      (stNet t).msgCut (msg0 1) = false ∧
      (stNet t).ctxOf 0 0 = some 0 ∧ ((stNet t).thread 0).st ≠ .saved ∧ (stNet t).heldBack (msg0 1) = false ∧
      ((stNet t).thread 0).mail.admissible = none) ∧
    ctx.mail.room 1 = true ∧ full.mail.room 1 = false ∧
    ({ ctx with mail := { held := [msg0 1] } } : Thread).mail.admissible = some 0 ∧
    (((stT parked).thread 0).mail.park.isSome = true ∧ chosen 1 parked.mail.box = none ∧ 640 ≤ (stT parked).gtime ∧
      (match ({ stT parked with cur := 0 } : State).nameRegs [0, 1, 0] with | .ok _ => true | _ => false) = true) ∧
    ((stT { ctx with mail := { alarm := some (640, 5) } }).thread 0).mail.alarm = some (640, 5) := by decide +kernel

/-- The domain of level 1 of cluster 0 with its thread, and the root domain. -/
def stCirc (black : Bool) (t : Thread) (net : List NetMsg) : State :=
  { stT t with
    net := net,
    launches := [(0, { active := true, ncl := 1, ectx := 1, pcls := [(0, 0)], start := some 0 })],
    clus := [(0, { launch := some 0, lmem := 32, vct := [(0, 0x8000)],
                   dom := [(1, { dinfo := 0x81000000, black := black }), (4, { dinfo := 0x81000000, black := black })] })] }
theorem witness_CircuitAndAbortHappen :
    (let s := stCirc true ctx []
     (s.launch 0).active = true ∧ (s.domOf 0 1 0).isFormed = true ∧ s.domUnits 0 1 0 ≠ [] ∧ (∀ u ∈ s.domUnits 0 1 0, s.unitSaving 0 1 u = false) ∧
      s.gtime % 64 = 0 ∧ ((s.domUnits 0 1 0).all fun u => !(s.domOf 0 1 u).black) = false) ∧
    (let s := stCirc false ctx [msg0 4]
     s.outstanding 0 (inUnits 1 (s.domUnits 0 1 0)) ≠ []) ∧
    (let s := stCirc false ctx []
     s.outstanding 0 (inUnits 1 (s.domUnits 0 1 0)) = [] ∧ ((s.domUnits 0 1 0).all fun u => !(s.domOf 0 1 u).black) = true ∧
      ((((s.domUnits 0 1 0).map (s.unitTids 0 1)).flatten.filter fun t => (s.theThread 0 t).st != .empty).filter fun t =>
        !(s.theThread 0 t).arrived 1).length = 1) ∧
    (let s := stCirc false { ctx with spec := { arr := [(1, 1)] } } []
     ((((s.domUnits 0 1 0).map (s.unitTids 0 1)).flatten.filter fun t => (s.theThread 0 t).st != .empty).filter fun t =>
        !(s.theThread 0 t).arrived 1).length = 0) ∧
    (let s := stCirc false { ctx with st := .done } []
     (s.domOf 0 4 0).isFormed = true ∧ (∀ t ∈ ((s.domUnits 0 4 0).map (s.unitTids 0 4)).flatten.filter fun t => (s.theThread 0 t).st != .empty,
        (s.theThread 0 t).st = .done) ∧
      ((((s.domUnits 0 4 0).map (s.unitTids 0 4)).flatten.filter fun t => (s.theThread 0 t).st != .empty).filter fun t =>
        !(s.theThread 0 t).arrived 4).length = 0) ∧
    ((stT { ctx with spec := { abort := true, ckpt := some ckpt0 } }).thread 0).spec.ckpt = some ckpt0 := by decide +kernel

/-- A queue of two places whose descriptor stands at 0x100 and whose record stands at 0x1000, with so many records; `f` are the
record's flags. -/
def qMem (tail f : BitVec 8) : List Host.Cell :=
  [(1, 0x10), (0x101, 0x10), (0x108, 1), (0x110, tail)] ++ (if f = 0 then [] else [(0x100A, f)]) ++ [(0x100C, 1), (0x1029, 0x10)]
def obj0 (rows cols : Nat) : Obj :=
  { addr := 0, asid := 0, text := 0x4000000000, textSize := 4096, data := 0, dataSize := 0, entries := [(0, 8, 1)], lmem := 32, clmin := 1,
    clmax := 0, localImg := [], queues := [], domains := [], shape := 2, rows := rows, cols := cols, weights := 0, log2f := none, slots := [],
    ucode := [] }
def stSch (tail f : BitVec 8) (x : QSlot) (d : Sched) (os : List Obj) : State :=
  { State.reset with
    gtime := 65536, mem := qMem tail f, objects := os, sched := { d with qtbase := 0x100, slots := [(0, x)], tails := [(0, tail.toNat)] }, dram := online }
def map0 : QSlot := { map := true }
/-- The same with queue 1, of the same shape, which lends. -/
def lends (s : State) : State := { s with
  mem := s.mem.takeWhile (fun c => decide (c.1 < 0x120)) ++
  [(0x121, 0x20), (0x128, 1), (0x129, 2), (0x130, 1)] ++ s.mem.filter (fun c => decide (0x130 < c.1)),
  sched := { s.sched with tails := [(0, 1), (1, 1)] } }
/-- The head of queue 0 waits for its semaphore, unmarked and for a stall period or marked; it is at the head, not placed. -/
def blocked : State := stSch 1 1 { map0 with waitFrom := some (0, 0) } { stallp := 65536 } []
def marked : State := stSch 1 1 { map0 with state := 3 } {} []
def stalled (since : Nat) : State :=
  stSch 1 0 map0 { en0 := true, stallp := 65536, stalls := [{ slot := 0, queue := 0, head := 0, since := since, why := 0 }] } []
def periodic : QSlot := { map0 with period := 100, deadline := 65536, tbud := 5, tspent := 6, ebud := 5, espent := 6 }
theorem witness_SchedulerEventsHappen_queues :
    ({ stSch 1 0 map0 {} [] with dram := {} } : State).queueReady 0 = false ∧
    (((stSch 1 0 map0 {} []).queue 1).ring = 0 ∧ (stSch 1 0 map0 {} []).queueReady 1 = true) ∧
    (∀ err ∈ [[], [0]], let s := stSch 1 0 map0 { ringerr := err } []
      s.queueReady 0 = true ∧ (s.queue 0).ring ≠ 0 ∧ (s.queue 0).count ≤ (s.queue 0).cap) ∧
    (∀ x ∈ [map0, {}], let s := stSch 3 0 x {} []
      s.queueReady 0 = true ∧ (s.queue 0).ring ≠ 0 ∧ (s.queue 0).cap < (s.queue 0).count ∧
      (slotNos.find? fun n => s.slotMaps n && ((s.slot n).qnum == 0 || ((s.slot n).bv && (s.slot n).borrow == 0))).isSome = x.map) := by
  decide +kernel
theorem witness_SchedulerEventsHappen_slots :
    (∀ b ∈ [false, true], (stSch 1 0 map0 { en1 := b } []).sched.en1 = b ∧ (stSch 1 0 map0 { en0 := b } []).sched.en0 = b) ∧
    ((stSch 1 0 { map0 with nplaced := 1 } {} []).slot 0).nplaced ≠ 0 ∧
    (let x := (stSch 1 0 map0 {} []).slot 0
     x.nplaced = 0 ∧ x.map ≠ nbit 0 63 ∧ x.state ≠ 3) ∧
    (let x := (stSch 1 0 periodic {} []).slot 0
     x.period ≠ 0 ∧ x.deadline ≤ 65536 ∧ 65536 < x.deadline + 1 * x.period ∧ x.deadline + 1 * x.period ≤ 65536 + x.period ∧
      x.tbud ≠ 0 ∧ x.tbud < x.tspent ∧ x.tovr = false ∧ x.ebud ≠ 0 ∧ x.ebud < x.espent ∧ x.eovr = false) ∧
    (stSch 1 0 map0 {} []).gtime % 65536 = 0 ∧
    (∀ t ∈ [0, 65536], let s := stalled t
      s.sched.dispatches = true ∧ s.sched.held = false ∧ s.sched.stalls.filter s.stallLives = s.sched.stalls ∧
      s.sched.stalls.length = 1 ∧ (t = 0 → t + s.sched.stallp ≤ s.gtime) ∧ (t ≠ 0 → s.gtime < t + s.sched.stallp)) ∧
    ((st.launch 0).start = some 0 ∧ (st.launch 0).active = true ∧ 0 ≤ st.gtime) := by decide +kernel
/-- A state once slot 0 is marked. -/
def markedNow (s : State) : State :=
  let s1 := s.noteHead 0
  let x := s1.slot 0
  ((s1.setSlot 0 { x with state := 3 }).setDflag x.qnum 2 true).post 2 0 x.qnum ((s1.headRec x.qnum).waitsem.toNat % 2 ^ 32)
theorem witness_SchedulerEventsHappen_blocks :
    (∀ s ∈ [blocked, lends blocked],
      ((s.noteHead 0).slot 0).state ≠ 3 ∧ (s.noteHead 0).headBlocked 0 = true ∧ (s.noteHead 0).waitedLong 0 = true) ∧
    (markedNow blocked).lender = none ∧ (markedNow (lends blocked)).lender = some 1 ∧
    (let s := ({ marked with sched := { marked.sched with sems := [(0, 1)] } } : State).noteHead 0
     (s.slot 0).state = 3 ∧ s.slotMaps 0 = true ∧ s.headReady 0 0 = true) ∧
    (let s := (lends marked).noteHead 0
     (s.slot 0).state = 3 ∧ (s.slot 0).bv = false ∧ s.headBlocked 0 = true ∧ s.headReady 0 0 = false ∧ s.lender = some 1) := by
  decide +kernel
/-- Clusters of which die 0 has one busy and the others one mapped out. -/
def stFull : State :=
  { stSch 1 0 map0 { en0 := true } [obj0 16 32] with
    mem := [(1, 0x10), (0x101, 0x10), (0x108, 1), (0x110, 1), (0x100D, 2), (0x1029, 0x10)], mapped := [512, 1024, 1536, 2048, 2560, 3072, 3584],
    clus := [(0, { launch := some 0 })] }
/-- May a decision be taken, of slot 0; and the state once the scheduler has read that slot's queue. -/
def decides (s : State) : Bool :=
  s.sched.dispatches && !s.sched.held && !s.outer.retain.on && !s.outer.retain.entering && !s.servesLate && leastSlot s s.candidates == some 0
def hasRead (s : State) : State :=
  let s1 := s.schedRead 0
  s1.tdiCheck fun p => p.bnd.any fun b => b.1 == 0 && b.2.1 == 0 && b.2.2 != (s1.queue 0).asid
theorem witness_DispatchAndRetirementHappen :
    (∀ credit ∈ [4, 5], let s := stSch 1 0 map0 { en0 := true, eclaim := 5, credit := credit } [obj0 1 1]
     decides s = true ∧
      let s0 := hasRead s
      s0.checkRec s0.launches.length 0 0 = 0 ∧ s0.objAt 0 (s0.headRec 0).obj = some 0 ∧ s0.objects[0]? = some (obj0 1 1) ∧
        (s0.headRec 0).ncl = 1 ∧ (s0.sched.credit < s0.sched.eclaim * 1 ↔ credit = 4) ∧ s0.choose (obj0 1 1) 1 = some [0] ∧
        s0.dataWaits (obj0 1 1) 0 = false) ∧
    (let s := stSch 1 0 map0 { en0 := true } []
     decides s = true ∧ (hasRead s).checkRec s.launches.length 0 0 = 2) ∧
    (decides stFull = true ∧
      let s0 := hasRead stFull
      s0.checkRec s0.launches.length 0 0 = 0 ∧ (s0.headRec 0).ncl = 512 ∧ s0.choose (obj0 16 32) 512 = none) ∧
    (let s : State := { State.reset with launches := [(0, { active := true, clean := true, pcls := [(0, 0)] })], dram := online }
     (s.launch 0).active = true ∧ (s.launch 0).clean = true ∧ (s.launch 0).signal = false ∧ s.retireWaits (s.launch 0) = false ∧
      s.saved = [] ∧ ∀ p ∈ s.thr, p.2.lid = 0 → p.2.st = .done ∨ p.2.st = .empty) := by
  decide +kernel

def stClu (k : Cluster) : State := { st with clus := [(0, k)], kstat := 0 }
def sav0 : Saved :=
  { lid := 0, vcl := 0, oldPcl := 3, time := 5, single := none, thr := [], cores := [], clu := {}, msgs := [], marks := [], recs := [] }
def srec0 : SRec := { w0 := 2 ^ 60, w1 := 2 ^ 63 + 2 ^ 61 }
theorem witness_PreemptionEventsHappen_requests :
    (((stClu {}).clu 0).launch = none ∧ nbit ({ st with kstat := 1 } : State).kstat 0 = true) ∧
    ((st.clu 0).launch = some 0 ∧ nbit st.kstat 0 = false) ∧
    (let s : State := { stClu { launch := some 0, saving := true } with thr := [(0, held)] }
     (s.clu 0).saving = true ∧ ∃ c ∈ ctxsOf 0 none, (s.abortAll (ctxsOf 0 none)).ctxStopped c = false) ∧
    (st.rest = none ∧ mfind st.saved 7 = none) ∧
    (let s : State := { st with saved := [(7, sav0)] }
     mfind s.saved 7 = some sav0 ∧ sav0.single = none ∧ (s.clu 0).launch ≠ none ∧ s.rest = none) ∧
    (mget ({} : SRec) st.srec 255).w1.getLsbD 63 = false ∧
    (let s : State := { stCmd { cmd0 with state := 1 } with srec := [(255, srec0)] }
     let r : SRec := mget {} s.srec 255
     r.w1.getLsbD 63 = true ∧ bitsOf r.w1 62 60 = 2 ∧ bitsOf r.w0 63 60 = 1 ∧
      ((s.freeRecord 255).clu (bitsOf r.w0 47 36)).cmd (bitsOf r.w0 5 0) = some { cmd0 with state := 1 }) ∧
    (let l : Late := { sub := 1, seqno := 0, addr := 0, store := false }
     (stT { ctx with vec := { late := [l] } }).asyncOpen 0 = true ∧ (stT { ctx with promise := [64] }).asyncOpen 0 = true ∧
      (stT { ctx with preempt := some 5 }).asyncOpen 0 = true) := by
  refine ⟨?_, ?_, ?_, ?_, ?_, ?_, ?_, ?_⟩
  all_goals decide +kernel

def stDram (d : Dram) (m : List Host.Cell) : State := { State.reset with dram := { d with phy := online.phy }, mem := m }
/-- A migration engine with one page in the lower tier, to be moved up, and one free frame. -/
def mig0 : Pmig := { en := true, ppt := 0x100, npages := 1, freeh := 0x200, nfreeh := 1, freel := 0x300, nfreel := 0, queue := [(0, 0)] }
def migMem : List Host.Cell := [(0x102, 1), (0x107, 0xC0), (0x202, 2)]
theorem witness_DramEventsHappen :
    (let s := stDram { amap := { busy := true, staged := [] } } []
     s.dram.amap.busy = true ∧ s.amapCheck ≠ 0) ∧
    (let s := stDram { amap := { busy := true } } []
     s.dram.amap.busy = true ∧ s.amapCheck = 0) ∧
    ((stDram {} []).rmap 7).mode < 2 ∧
    (let s := stDram { rmap := [(7, { mode := 2, out := 1 })] } []
     2 ≤ (s.rmap 7).mode ∧ nbit (s.rmap 7).out 15 = false ∧ (s.rmap 7).outCount < 2 ∧ nbit (s.rmap 7).out 0 = true) ∧
    (let s := stDram { rmap := [(7, { mode := 2, out := 3 })] } []
     2 ≤ (s.rmap 7).outCount) ∧
    (let s := stDram {} []
     s.hasChannel 7 63 = true ∧ (s.phy 7 63).online = false ∧ s.hasChannel 9 47 = true ∧ s.hasChannel 0 0 = true ∧ (s.phy 0 0).online = true) ∧
    (lrepOk 31 = true ∧ lrepOk 32 = false) ∧
    (nbit 1 0 = true ∧ 4 ≤ patPat 0x401 ∧ patDir 0x31 = 3 ∧ patPat 0x301 < 4 ∧ patDir 0x11 < 2 ∧ patDir 0x21 = 2) ∧
    (let s : State := { st with dram := { phy := [(63, { running := true })] } }
     (s.phy 0 63).running = true ∧ 0 &&& laneMask (s.phy 0 63).lrep = 0) := by decide +kernel
/-- A migration engine in such a state, the channels of its frame and of its tables ONLINE; `bad` atoms are uncorrectable. -/
def stMig (p : Pmig) (bad : List Nat) : State :=
  { State.reset with
    mem := migMem,
    dram := { pmig := [(0, p)], poison := bad,
              phy := (List.range 16).foldl (fun a i => mset a (i / 2 * 64 + 4 + i % 2) { online := true }) online.phy } }
/-- A migration into the frame, from a sector on. -/
def moving (next : Nat) (dirty : List Nat) : Pmig := { mig0 with mov := some { frame := 0x20000, next := next, dirty := dirty } }
/-- The atom of the page's first byte in the lower tier. -/
def oldAtom : Nat := (stMig mig0 []).atomOf managedBase
theorem witness_DramEventsHappen_migration :
    (let p : Pmig := { mig0 with queue := [(0, 1)] }
     let s := stMig p []
     p.en = true ∧ p.mov = none ∧ s.rawOnline (p.ppt + 8 * 0) = true ∧ b2n (nbit (s.ppte 0) 62) = 1) ∧
    (let s := stMig mig0 []
     mig0.mov = none ∧ s.rawOnline (mig0.ppt + 8 * 0) = true ∧ 0 < mig0.npages ∧ nbit (s.ppte 0) 63 = true ∧ b2n (nbit (s.ppte 0) 62) ≠ 0 ∧
      mig0.free 0 ≠ 0 ∧ s.rawOnline (mig0.stack 0 + 8 * (mig0.free 0 - 1)) = true) ∧
    (∀ bad ∈ [[], [oldAtom]], let s := stMig (moving 0 []) bad
      s.frameOnline 1 (frameOf (s.ppte 0) + 256 * 0) = true ∧ s.frameOnline 0 (0x20000 + 256 * 0) = true ∧
        (s.copySector 0 0 0x20000 0).2 = !bad.isEmpty) ∧
    (∀ bad ∈ [[], [oldAtom]], let s := stMig (moving 256 [0]) bad
      s.rawOnline (mig0.ppt + 8 * 0) = true ∧ s.frameOnline 1 (frameOf (s.ppte 0) + 256 * 0) = true ∧ s.frameOnline 0 (0x20000 + 256 * 0) = true ∧
        (State.copySectors 0 0 0x20000 [0] s).2 = !bad.isEmpty) := by decide +kernel

def breq (kind addr size : Nat) (data : List Byte) : BusReq :=
  { kind := kind, addr := addr, size := size, data := data, relaxed := false, tbit := false, stream := 0, intact := true, rid := 0 }
def stPort (p : Port) (o : Outer) : State := { st with outer := { o with ports := [(0, p), (1, p)] }, dram := online }
theorem witness_HostEventsHappen :
    (let s := stPort {} {}
     let r := breq 1 0x10000 4 [1, 2, 3, 4]
     (s.port 1).held = [] ∧ s.portOpen 1 r = true ∧ s.outer.bootfail = false ∧ s.freezesHost 1 r = false ∧ s.busReady r = true) ∧
    (let s := stPort { tdi := .run } {}
     s.portOpen 1 (breq 0 0x10000 4 []) = true ∧ s.freezesHost 1 (breq 0 0x10000 4 []) = true) ∧
    (let s := stPort {} {}
     (s.busRead 0x10000 4).2.isSome = true ∧ atomicOk (breq 8 0x10000 8 []) = true) ∧
    (let s : State := { stPort {} {} with dram := {} }
     s.busReady (breq 0 0x10000 4 []) = false ∧ s.freezesHost 1 (breq 0 0x10000 4 []) = false ∧ s.portOpen 1 (breq 0 0x10000 4 []) = true) ∧
    (let s := stPort {} {}
     (s.port 1).frozen = false ∧ s.outer.linkDown.contains 7 = false ∧ s.outer.dieDown.contains 7 = false) ∧
    (let s := stPort { frozen := true, held := [breq 0 0 4 []] } {}
     (s.port 1).held ≠ [] ∧ (s.port 1).frozen = true) ∧
    mhas (stPort {} {}).outer.peerPort 3 = false ∧
    (let s := stPort {} { peerPort := [(3, 1)], linkDown := [1] }
     s.outer.linkDown.contains (mget 0 s.outer.peerPort 3) = true) ∧
    (let s := stPort {} { peerPort := [(3, 1)] }
     let r := breq 1 0x10000 4 [1, 2, 3, 4]
     mhas s.outer.peerPort 3 = true ∧ s.outer.linkDown.contains (mget 0 s.outer.peerPort 3) = false ∧ s.outer.retain.on = false ∧
      s.busReady r = true ∧ s.outer.dieDown.contains 0 = false ∧
      ∀ q ∈ sectorPieces (r.size / 256 + 2) r.addr r.size, q.1 + q.2 ≤ 2 ^ 51 ∧ s.backing q.1 = .hbm q.1) := by decide +kernel
theorem witness_TrustEventsHappen :
    (∀ x ∈ [Tdi.unlocked, .locked, .run],
      let s := stPort { tdi := x, session := true, negotiated := true, bnd := [(0, 0, 0)] } {}
      s.outer.bootfail = false ∧ (s.port 1).session = true ∧ (s.port 1).negotiated = true ∧ (s.port 1).tdi = x) ∧
    (let s0 := stPort { tdi := .locked, session := true, bnd := [(0, 0, 0)] } {}
     let s := s0.setLaunch 0 { s0.launch 0 with ectx := 1 }
     s.outer.bootfail = false ∧ (s.port 1).session = true ∧ (s.port 1).tdi = .locked ∧
      (s.clu 0).launch = some 0 ∧ (s.launch 0).active = true ∧ (∃ b ∈ (s.port 1).bnd, b.2.2 = (s.launch 0).asid) ∧ (s.clu 0).vcl = 60 / 64 ∧
      60 % 4 < (s.launch 0).ectx) := by
  decide +kernel
/-- The device in RETAIN. -/
def stRetain (r : Retain) : State := { State.reset with outer := { retain := { r with on := true } } }
theorem witness_EnergyEventsHappen :
    (let s : State := { st with egov := { auto := true, rate := 3, cmax := 1 } }
     s.egov.auto = true ∧ s.sched.credit < s.egov.cmax) ∧
    st.egov.auto = false ∧
    (let s : State := { st with egov := { auto := true } }
     s.egov.cmax ≤ s.sched.credit) ∧
    (let s := State.reset
     s.outer.retain.on = false ∧ s.dram.amap.busy = false ∧ nbit s.kstat 0 = false ∧ s.rest = none ∧ ∀ p ∈ s.clus, p.2.launch = none) ∧
    (∀ w ∈ [true, false], let x := (stRetain { warning := w }).outer.retain
      x.on = true ∧ x.entering = false ∧ x.resuming = false ∧ x.warning = w) := by decide +kernel
theorem witness_EnergyEventsHappen_reset : 0 < 4 ∧ ((4 ≤ 4 ∧ imgOk = true) ∨ imgOk = false) := by cases imgOk <;> decide
/-- Registers of the blocks that the register statement names, and an unaligned and an over-long write. -/
theorem witness_RegisterWriteHappens :
    blockOf (stewBase + 0x20) = some (.qsch 0, 0x20) ∧ blockOf (stewBase + 2 ^ 28 + 0x20) = some (.qsch 1, 0x20) ∧
    blockOf (stewBase + 0x40008) = some (.egov, 8) ∧ blockOf (stewBase + 0x60808) = some (.elog 8, 0x808) ∧
    (0x21 % 8 ≠ 0 ∧ ((16 : Nat) ≠ 1 ∧ 16 ≠ 2 ∧ 16 ≠ 4 ∧ 16 ≠ 8)) ∧ st.regAt (.qsch 0) 0x20 < 2 ^ 64 ∧ st.regAt .egov 8 < 2 ^ 64 ∧
    st.regAt (.elog 8) 0x808 < 2 ^ 64 := by decide +kernel

/-- A cluster with a save under way, whose save area lies in the slices of vclusters 1 and 2; and one saved there. -/
def kSave : Cluster := { launch := some 0, lmem := 32, saving := true, vct := [(0, 0x8000), (1, 0x8001), (2, 0x8002)] }
def stSave : State :=
  { State.reset with
    gtime := 640, clus := [(0, kSave), (1, { lmem := 32 }), (2, { lmem := 32 })],
    launches := [(0, { active := true, ncl := 1, pcls := [(0, 0)], start := some 0, save := BitVec.ofNat 64 (meshBase + 2 ^ 19 + 0x7000) })] }
def stSaved : State :=
  { stSave with
    clus := [(1, { lmem := 32 }), (2, { lmem := 32 })], saved := [(7, { sav0 with clu := { kSave with saving := false } })] }
theorem open_save : stSave.meshOpen (stSave.handlerWho 0) 1 3 := by
  refine ⟨by decide +kernel, by decide, fun j h1 h2 => ?_⟩
  obtain rfl | rfl : j = 1 ∨ j = 2 := by omega
  all_goals decide +kernel
theorem witness_PreemptionEventsHappen_save :
    (stSave.clu 0).launch = some 0 ∧ (stSave.clu 0).saving = true ∧ stSave.abortAll (ctxsOf 0 none) = stSave ∧
    (∀ c ∈ ctxsOf 0 none, stSave.ctxStopped c = true) ∧ (∀ i, i < 16 → (stSave.thread (2 ^ 18 + 0 * 16 + i)).st ≠ .frozen) ∧
    (stSave.clu 0).enginesStopped = true ∧ stSave.slicesQuiet 0 = true ∧
    stSave.saveCtxs (stSave.saveBlock 0 (stSave.clu 0).vcl) (ctxsOf 0 none) = (stSave, none) ∧ ∃ s3, stSave.finishSave 0 0 0 = (s3, none) := by
  have h := State.finishSave_mesh stSave 0 0 0 1 3 rfl rfl rfl (by decide +kernel)
  refine ⟨?_, ?_, ?_, ?_, ?_, ?_, ?_, ?_, h ?_ open_save ?_ ?_ ?_⟩
  all_goals decide +kernel
theorem restCtxs_none (base : Word) (time : Nat) : ∀ (cs : List Nat) (s : State), (∀ c ∈ cs, (s.thread c).st ≠ .saved) →
    s.restCtxs base time cs = (s, none)
  | [], _, _ => rfl
  | c :: cs, s, h => by rw [State.restCtxs, if_pos (h c (by simp))]; exact restCtxs_none base time cs s fun d hd => h d (by simp [hd])
theorem witness_PreemptionEventsHappen_restore :
    let x := { sav0 with clu := { kSave with saving := false } }
    let s1 : State := { (stSaved.setKstat 2 false).setKstat 1 true with rest := some (7, 0) }
    (stSaved.rest = none ∧ mfind stSaved.saved 7 = some x ∧ x.single = none ∧ (stSaved.clu 0).launch = none ∧
      stSaved.mapped.contains 0 = false ∧ ∀ i, i < 16 → (s1.thread (2 ^ 18 + 0 * 16 + i)).st ≠ .frozen) ∧
    ∃ s2 s3 s4 ms, (s1.reload 7 x 0).restSlices 0 (s1.saveBlock x.lid x.vcl) (List.range 16) = (s2, none) ∧
      s2.restCtxs (s1.saveBlock x.lid x.vcl) x.time ((ctxsOf 0 none).filter fun c => !s1.saved.any fun (q : Nat × Saved) =>
        q.2.lid == x.lid && q.2.vcl == x.vcl && q.2.single == some (coreNo c)) = (s3, none) ∧
      s3.readMsgs 0 (s1.saveBlock x.lid x.vcl) 0 x.msgs = (s4, .ok ms) := by
  intro x s1
  refine ⟨by decide +kernel, ?_⟩
  have o : (s1.reload 7 x 0).meshOpen ((s1.reload 7 x 0).handlerWho (0 * 16)) 1 3 := by
    refine ⟨by decide +kernel, by decide, fun j h1 h2 => ?_⟩
    obtain rfl | rfl : j = 1 ∨ j = 2 := by omega
    all_goals decide +kernel
  obtain ⟨m, e⟩ := State.restSlices_mesh 0 (s1.saveBlock x.lid x.vcl) 1 3 (List.range 16) (s1.reload 7 x 0) rfl o (by decide +kernel)
  refine ⟨_, _, _, _, e, restCtxs_none _ _ _ _ ?_, rfl⟩
  have h : ∀ c ∈ ctxsOf 0 none, ((s1.reload 7 x 0).thread c).st ≠ .saved := by decide +kernel
  exact fun c hc => h c ((List.mem_filter.1 hc).1)

/-! ### The machine -/

/-- Context 0 about to issue the instruction of these bits. -/
def stRun (nbits w : Nat) : State := st.withFetchWord nbits w
theorem witness_EncodingRoundTrip : (rowOf (.li { a := 5, k := 4, imm := 0x0123456789AB })).isSome = true ∧
    (Instr.li { a := 5, k := 4, imm := 0x0123456789AB }).wf = true := by decide +kernel
/-- The clauses of a step: the context may not issue (its core has issued); it issues; an operand is not ready; the chain is bad (a
reserved major); the fetch fails (the page may not be executed). -/
theorem witness_StepRunsTheDecoded :
    (∃ rest, (stRun 16 0x0001).agenda = .issue 0 :: rest) ∧ (stRun 16 0x0001).asyncNow 0 = false ∧
    ((stRun 16 0x0001).setCore 0 { issued := true }).mayIssue 0 = false ∧
    (let s := stRun 16 0x0001
     s.mayIssue 0 = true ∧ (∃ ws, s.fetchWords 0 placePc = .ok ws ∧ ws.take 1 = [0x0001]) ∧ s.operandsReady 0 (.add { b := 1 }) = true) ∧
    (let s := (stRun 16 0x0001).setThread 0 { (stRun 16 0x0001).thread 0 with rdy := [(1, 2000)] }
     s.mayIssue 0 = true ∧ s.operandsReady 0 (.add { b := 1 }) = false) ∧
    (let s := stRun 32 0xE00FF442
     s.mayIssue 0 = true ∧ ∃ ws sub w p, s.fetchWords 0 placePc = .ok ws ∧ decodeChain ws = .bad sub w p) ∧
    (let s := { stRun 16 0x0001 with tlb := [{ placeTlb with x := false }] }
     s.mayIssue 0 = true ∧ ∃ e, s.fetchWords 0 placePc = .error e) :=
  have h : (stRun 16 0x0001).asyncNow 0 = false ∧ ((stRun 16 0x0001).setCore 0 { issued := true }).mayIssue 0 = false := by decide +kernel
  ⟨⟨_, rfl⟩, h.1, h.2, ⟨by decide +kernel, ⟨_, rfl, by decide +kernel⟩, by decide +kernel⟩, by decide +kernel,
    ⟨by decide +kernel, _, _, _, _, rfl, rfl⟩, by decide +kernel, _, rfl⟩
/-- The turns of a cycle: a context is chosen whose instruction is of no such kind, one whose QPROD is put among the requests of the cycle,
one that may not issue; and the first of those requests takes its turn. -/
theorem witness_StepRunsTheDecoded_choice :
    (let s : State := { stRun 16 0x0001 with agenda := [] }
     s.asyncNow 0 = false ∧ s.mayIssue 0 = true ∧ s.lateKey 0 = none) ∧
    (let s : State := { stRun 32 0x1150F8C0 with agenda := [] }
     s.asyncNow 0 = false ∧ s.mayIssue 0 = true ∧ (s.lateKey 0).isSome = true) ∧
    ((stRun 16 0x0001).setCore 0 { issued := true }).mayIssue 0 = false ∧
    ({ st with agenda := [.lates [(5, [0, 4])]] } : State).agenda = .lates ((5, 0 :: [4]) :: []) :: [] := by decide +kernel
theorem witness_MemoryStaysCanonical : Safe (stRun 16 0x0001) ∧ StepsOn (stRun 16 0x0001) :=
  ⟨by change Memory.wf _ = true; decide +kernel, _, rfl⟩
theorem witness_FalseGuardSkips :
    (st.P 1 = false ∧ st.t.hold = none ∧ st.t.vec.bodyLeft = 0 ∧ rowOf (.add { g := 1 }) = some (rowAdd, { g := 1 }) ∧
      rowOf (.vadd { g := 1 }) = some (rowVadd, { g := 1 })) ∧
    (({ mode := 1 } : Kind).allowed st.t = false ∧ ({ mode := 2 } : Kind).allowed st.t = false ∧
      ({ mode := 3 } : Kind).allowed st.t = false ∧ st.speculative st.cur = false ∧ st.t.completeAt ≤ st.gtime) :=
  ⟨⟨by decide, rfl, rfl, rfl, rfl⟩, by decide⟩
theorem witness_PredicatesHold : 0 < 5 ∧ 5 < 8 ∧ (st.setP 5 true).P 5 = true ∧ st.P 5 = false ∧ (st.setP 0 false).P 0 = true := by decide
theorem witness_ScalarFrame : st.t.hold = none ∧ st.speculative st.cur = false ∧ st.t.win.n ≤ 64 ∧ 1 < st.t.win.n ∧ 2 < st.t.win.n ∧
    (∃ t, exec (.add { a := 1, b := 2 }) st = .next t) ∧ ∃ t, exec (.eq { a := 1, b := 2 }) st = .next t :=
  ⟨rfl, by decide, by decide, by decide, by decide, ⟨_, rfl⟩, _, rfl⟩

/-! ## Tests: expected values from the manual's text and worked examples -/

/-- An instruction's next state is as asked. -/
def lands (o : Host.Outcome State Fault Refusal) (p : State → Bool) : Bool := match o with | .next t => p t | _ => false

/-! ### Well-formedness: a term that each check refuses -/

theorem test_wf_guard : (Instr.br { g := 1 }).wf = false := by decide
theorem test_wf_register_class : (Instr.vadd { a := 24, ext := 8 }).wf = false := by decide
theorem test_wf_pair_class : (Instr.mma { a := 4, ext := 0x24, b := 2 }).wf = true ∧ (Instr.mma { a := 63, ext := 0x24, b := 2 }).wf = false := by
  decide
theorem test_wf_raw_field : (Instr.cmov { d := 16 }).wf = false := by decide
theorem test_wf_zero_field : (Instr.nop { a := 1 }).wf = false := by decide
theorem test_wf_field_the_format_lacks : (Instr.addi { b := 1 }).wf = false := by decide
theorem test_wf_destination_predicate : (Instr.add { x := 1 }).wf = false := by decide
theorem test_wf_ext_on_page_0 : (Instr.add { ext := 1 }).wf = false := by decide
theorem test_wf_ext_type : (Instr.vmulh { ext := 0x20 }).wf = false := by decide
theorem test_wf_ext_mode : (Instr.vmul { ext := 0x03 }).wf = false := by decide
theorem test_wf_hint_not_allowed : (Instr.add { h := 1 }).wf = false := by decide
theorem test_wf_hint_reserved : (Instr.ld { h := 1 }).wf = false := by decide
theorem test_wf_immediate_width : (Instr.addi { imm := 256 }).wf = false := by decide
theorem test_wf_no_immediate : (Instr.add { k := 1 }).wf = false := by decide
theorem test_wf_shift_amount : (Instr.shli { k := 1, imm := 64 }).wf = false := by decide
theorem test_wf_prefix_count : (Instr.addi { k := 4, g := 1 }).wf = false := by decide

/-! ### Encodings -/

/-- Every word list decodes to the instruction beside it, and to no more words than it has. -/
def DecodesTo (l : List (List Half × Instr)) : Prop := (l.map fun p => decodeChain p.1) = l.map fun p => .ok p.2 p.1.length

/-- The example of the chapter on scalar instructions: a constant built, a division by zero, a choice. -/
theorem test_words_scalar_example : DecodesTo [
  ([0xF004, 0xF234, 0xF159, 0xF389, 0x25AB], .li { a := 5, k := 4, imm := 0x0123456789AB }),
  ([0xF001, 0x3050], .shli { a := 5, k := 1, imm := 16 }),
  ([0xF003, 0xF0DE, 0x345F], .ori { a := 5, k := 2, imm := 0xCDEF }),
  ([0x2600], .li { a := 6 }),
  ([0x0F75], .mov { a := 7, b := 5 }),
  ([0x4176], .divu { a := 7, b := 6 }),
  ([0x4685], .popc { a := 8, b := 5 }),
  ([0x4495], .clz { a := 9, b := 5 }),
  ([0xF418, 0x6097], .eqi { a := 9, x := 3, imm := 7 }),
  ([0xA3A7], .cmov { d := 3, a := 10, b := 7 })] := rfl
/-- The reservation example of the chapter on memory instructions, and its VAMO. -/
theorem test_words_memory_example : DecodesTo [
  ([0xF8A0, 0x4523], .arsv { d := 5, a := 2, b := 3, ext := 0x20 }),
  ([0x1501], .addi { a := 5, imm := 1 }),
  ([0xF003, 0x26E8], .li { a := 6, k := 1, imm := 1000 }),
  ([0x0D56], .minu { a := 5, b := 6 }),
  ([0xF8A0, 0x5523], .arel { d := 5, a := 2, b := 3, ext := 0x20 }),
  ([0xF8A0, 0x7046], .vamoAadd { a := 4, b := 6, ext := 0x20 })] := rfl
theorem test_words_page0_0 : DecodesTo [
  ([0x0012], .add { a := 1, b := 2 }),
  ([0x0112], .sub { a := 1, b := 2 }),
  ([0x0212], .and { a := 1, b := 2 }),
  ([0x0312], .or { a := 1, b := 2 }),
  ([0x0412], .xor { a := 1, b := 2 }),
  ([0x0512], .shl { a := 1, b := 2 }),
  ([0x0612], .shr { a := 1, b := 2 }),
  ([0x0712], .sra { a := 1, b := 2 }),
  ([0x0812], .mul { a := 1, b := 2 }),
  ([0x0912], .mulh { a := 1, b := 2 }),
  ([0x0A12], .mulhu { a := 1, b := 2 }),
  ([0x0B12], .min { a := 1, b := 2 }),
  ([0x0C12], .max { a := 1, b := 2 }),
  ([0x0D12], .minu { a := 1, b := 2 }),
  ([0x0E12], .maxu { a := 1, b := 2 }),
  ([0x0F12], .mov { a := 1, b := 2 }),
  ([0x1105], .addi { a := 1, imm := 5 }),
  ([0x2105], .li { a := 1, imm := 5 }),
  ([0x3015], .shli { a := 1, imm := 5 }),
  ([0x3115], .shri { a := 1, imm := 5 }),
  ([0x3215], .srai { a := 1, imm := 5 }),
  ([0x3315], .andi { a := 1, imm := 5 }),
  ([0x3415], .ori { a := 1, imm := 5 }),
  ([0x3515], .xori { a := 1, imm := 5 }),
  ([0x3615], .muli { a := 1, imm := 5 }),
  ([0x4012], .div { a := 1, b := 2 }),
  ([0x4112], .divu { a := 1, b := 2 }),
  ([0x4212], .rem { a := 1, b := 2 }),
  ([0x4312], .remu { a := 1, b := 2 }),
  ([0x4412], .clz { a := 1, b := 2 }),
  ([0x4512], .ctz { a := 1, b := 2 }),
  ([0x4612], .popc { a := 1, b := 2 })] := rfl
theorem test_words_page0_1 : DecodesTo [
  ([0x4712], .brev { a := 1, b := 2 }),
  ([0x4812], .sextb { a := 1, b := 2 }),
  ([0x4912], .sexth { a := 1, b := 2 }),
  ([0x4A12], .sextw { a := 1, b := 2 }),
  ([0x4B12], .zextb { a := 1, b := 2 }),
  ([0x4C12], .zexth { a := 1, b := 2 }),
  ([0x4D12], .zextw { a := 1, b := 2 }),
  ([0x4E12], .abs { a := 1, b := 2 }),
  ([0x4F12], .neg { a := 1, b := 2 }),
  ([0x5012], .eq { a := 1, b := 2 }),
  ([0x5112], .ne { a := 1, b := 2 }),
  ([0x5212], .lt { a := 1, b := 2 }),
  ([0x5312], .ge { a := 1, b := 2 }),
  ([0x5412], .ltu { a := 1, b := 2 }),
  ([0x5512], .geu { a := 1, b := 2 }),
  ([0x5612], .tst { a := 1, b := 2 }),
  ([0x5712], .tstn { a := 1, b := 2 }),
  ([0x6015], .eqi { a := 1, imm := 5 }),
  ([0x6115], .nei { a := 1, imm := 5 }),
  ([0x6215], .lti { a := 1, imm := 5 }),
  ([0x6315], .gei { a := 1, imm := 5 }),
  ([0x6415], .ltui { a := 1, imm := 5 }),
  ([0x6515], .geui { a := 1, imm := 5 }),
  ([0x7012], .pand { a := 1, b := 2 }),
  ([0x7112], .por { a := 1, b := 2 }),
  ([0x7212], .pxor { a := 1, b := 2 }),
  ([0x7312], .pnot { a := 1, b := 2 }),
  ([0x7412], .pmov { a := 1, b := 2 }),
  ([0x7510], .pset { a := 1 }),
  ([0x7610], .pclr { a := 1 }),
  ([0x7712], .psel { a := 1, b := 2 }),
  ([0x7810], .prdw { a := 1 })] := rfl
theorem test_words_page0_2 : DecodesTo [
  ([0x7902], .pwrw { b := 2 }),
  ([0x8315], .ld { d := 3, a := 1, imm := 5 }),
  ([0x9315], .st { d := 3, a := 1, imm := 5 }),
  ([0xAD12], .cmov { d := 13, a := 1, b := 2 }),
  ([0xB805], .call { a := 8, imm := 5 }),
  ([0xC401], .br { a := 2, imm := 1 }),
  ([0xD401], .brn { a := 2, imm := 1 }),
  ([0xE000], .nop {}),
  ([0xE110], .jmpr { a := 1 }),
  ([0xE218], .callr { a := 1, b := 8 }),
  ([0xE300], .ret {}),
  ([0xE415], .lpc { a := 1, imm := 5 }),
  ([0xE500], .yield {}),
  ([0xE612], .qput { a := 1, b := 2 }),
  ([0xE712], .qget { a := 1, b := 2 }),
  ([0xE815], .entry { a := 1, b := 5 }),
  ([0xE900], .vwait {}),
  ([0xEA10], .gtime { a := 1 }),
  ([0xEB10], .tid { a := 1 })] := rfl
theorem test_words_page1_0 : DecodesTo [
  ([0xF860, 0x0012], .vadd { ext := 32, a := 1, b := 2 }),
  ([0xF860, 0x0112], .vsub { ext := 32, a := 1, b := 2 }),
  ([0xF860, 0x0212], .vmul { ext := 32, a := 1, b := 2 }),
  ([0xF840, 0x0312], .vmulh { ext := 0, a := 1, b := 2 }),
  ([0xF860, 0x0412], .vmin { ext := 32, a := 1, b := 2 }),
  ([0xF860, 0x0512], .vmax { ext := 32, a := 1, b := 2 }),
  ([0xF860, 0x0612], .vand { ext := 32, a := 1, b := 2 }),
  ([0xF860, 0x0712], .vor { ext := 32, a := 1, b := 2 }),
  ([0xF860, 0x0812], .vxor { ext := 32, a := 1, b := 2 }),
  ([0xF840, 0x0912], .vshl { ext := 0, a := 1, b := 2 }),
  ([0xF840, 0x0A12], .vshr { ext := 0, a := 1, b := 2 }),
  ([0xF840, 0x0B12], .vsra { ext := 0, a := 1, b := 2 }),
  ([0xF860, 0x0C12], .vabs { ext := 32, a := 1, b := 2 }),
  ([0xF860, 0x0D12], .vneg { ext := 32, a := 1, b := 2 }),
  ([0xF860, 0x0E12], .vmov { ext := 32, a := 1, b := 2 }),
  ([0xF860, 0x0F12], .vavg { ext := 32, a := 1, b := 2 }),
  ([0xF860, 0x1312], .vfma { ext := 32, d := 3, a := 1, b := 2 }),
  ([0xF860, 0x2312], .vfms { ext := 32, d := 3, a := 1, b := 2 }),
  ([0xF860, 0x3012], .veq { ext := 32, a := 1, b := 2 }),
  ([0xF860, 0x3112], .vne { ext := 32, a := 1, b := 2 }),
  ([0xF860, 0x3212], .vlt { ext := 32, a := 1, b := 2 }),
  ([0xF860, 0x3312], .vge { ext := 32, a := 1, b := 2 }),
  ([0xF860, 0x3412], .vle { ext := 32, a := 1, b := 2 }),
  ([0xF860, 0x3512], .vgt { ext := 32, a := 1, b := 2 }),
  ([0xF860, 0x3612], .vunord { ext := 32, a := 1, b := 2 }),
  ([0xF860, 0x3712], .vord { ext := 32, a := 1, b := 2 }),
  ([0xF860, 0x4312], .vsel { ext := 32, d := 3, a := 1, b := 2 }),
  ([0xF860, 0x5012], .vrcp { ext := 32, a := 1, b := 2 }),
  ([0xF860, 0x5112], .vrsq { ext := 32, a := 1, b := 2 }),
  ([0xF860, 0x5212], .vrcpr { ext := 32, a := 1, b := 2 }),
  ([0xF860, 0x5312], .vrsqr { ext := 32, a := 1, b := 2 }),
  ([0xF860, 0x5412], .vexp2 { ext := 32, a := 1, b := 2 })] := rfl
theorem test_words_page1_1 : DecodesTo [
  ([0xF860, 0x5512], .vlog2 { ext := 32, a := 1, b := 2 }),
  ([0xF860, 0x5612], .vsqrt { ext := 32, a := 1, b := 2 }),
  ([0xF860, 0x5712], .vdiv { ext := 32, a := 1, b := 2 }),
  ([0xF860, 0x5812], .vfloor { ext := 32, a := 1, b := 2 }),
  ([0xF860, 0x5912], .vceil { ext := 32, a := 1, b := 2 }),
  ([0xF860, 0x5A12], .vrndn { ext := 32, a := 1, b := 2 }),
  ([0xF860, 0x5B12], .vtrunc { ext := 32, a := 1, b := 2 }),
  ([0xF860, 0x5C12], .vclass { ext := 32, a := 1, b := 2 }),
  ([0xF860, 0x6210], .vcvt { ext := 32, d := 2, a := 1, b := 0 }),
  ([0xF860, 0x7012], .vshuf { ext := 32, a := 1, b := 2 }),
  ([0xF860, 0x7112], .vbcast { ext := 32, a := 1, b := 2 }),
  ([0xF860, 0x7212], .vzipl { ext := 32, a := 1, b := 2 }),
  ([0xF860, 0x7312], .vziph { ext := 32, a := 1, b := 2 }),
  ([0xF860, 0x7412], .vuzpl { ext := 32, a := 1, b := 2 }),
  ([0xF860, 0x7512], .vuzph { ext := 32, a := 1, b := 2 }),
  ([0xF860, 0x7612], .vrsum { ext := 32, a := 1, b := 2 }),
  ([0xF860, 0x7712], .vrmin { ext := 32, a := 1, b := 2 }),
  ([0xF860, 0x7812], .vrmax { ext := 32, a := 1, b := 2 }),
  ([0xF864, 0x7912], .vdot { ext := 36, a := 1, b := 2 }),
  ([0xF860, 0x8011], .vsplat { ext := 32, a := 1, b := 1 }),
  ([0xF860, 0x8122], .vputq { ext := 32, a := 2, b := 2 }),
  ([0xF860, 0x8222], .vputqh { ext := 32, a := 2, b := 2 }),
  ([0xF860, 0x8311], .vgetq2 { ext := 32, a := 1, b := 1 }),
  ([0xF860, 0x9015], .vld { ext := 32, a := 1, imm := 5 }),
  ([0xF860, 0x9115], .vld1 { ext := 32, a := 1, imm := 5 }),
  ([0xF860, 0x9215], .vst { ext := 32, a := 1, imm := 5 }),
  ([0xF860, 0x9315], .vst1 { ext := 32, a := 1, imm := 5 }),
  ([0xF860, 0x9415], .vlde { ext := 32, a := 1, imm := 5 }),
  ([0xF840, 0xA304], .vloop { a := 3, imm := 4 })] := rfl
theorem test_words_page2_0 : DecodesTo [
  ([0xF8B2, 0x0312], .ldr { ext := 50, d := 3, a := 1, b := 2 }),
  ([0xF8B0, 0x1312], .str { ext := 48, d := 3, a := 1, b := 2 }),
  ([0xF8B2, 0x2315], .ldi { ext := 50, d := 3, a := 1, imm := 5 }),
  ([0xF8B0, 0x3315], .sti { ext := 48, d := 3, a := 1, imm := 5 }),
  ([0xF8B2, 0x4312], .arsv { ext := 50, d := 3, a := 1, b := 2 }),
  ([0xF8B0, 0x5312], .arel { ext := 48, d := 3, a := 1, b := 2 }),
  ([0xF8B2, 0x6012], .aadd { ext := 50, a := 1, b := 2 }),
  ([0xF8B2, 0x6112], .aand { ext := 50, a := 1, b := 2 }),
  ([0xF8B2, 0x6212], .aor { ext := 50, a := 1, b := 2 }),
  ([0xF8B2, 0x6312], .axor { ext := 50, a := 1, b := 2 }),
  ([0xF8B2, 0x6412], .amin { ext := 50, a := 1, b := 2 }),
  ([0xF8B2, 0x6512], .amax { ext := 50, a := 1, b := 2 }),
  ([0xF8B2, 0x6612], .aminu { ext := 50, a := 1, b := 2 }),
  ([0xF8B2, 0x6712], .amaxu { ext := 50, a := 1, b := 2 }),
  ([0xF8B2, 0x6812], .aswap { ext := 50, a := 1, b := 2 }),
  ([0xF8B2, 0x6912], .acas { ext := 50, a := 1, b := 2 }),
  ([0xF8A2, 0x6A12], .afadd { ext := 34, a := 1, b := 2 }),
  ([0xF8A2, 0x6B12], .afmin { ext := 34, a := 1, b := 2 }),
  ([0xF8A2, 0x7012], .vamoAadd { ext := 34, a := 1, b := 2 }),
  ([0xF8A2, 0x7112], .vamoAand { ext := 34, a := 1, b := 2 }),
  ([0xF8A2, 0x7212], .vamoAor { ext := 34, a := 1, b := 2 }),
  ([0xF8A2, 0x7312], .vamoAxor { ext := 34, a := 1, b := 2 }),
  ([0xF8A2, 0x7412], .vamoAmin { ext := 34, a := 1, b := 2 }),
  ([0xF8A2, 0x7512], .vamoAmax { ext := 34, a := 1, b := 2 }),
  ([0xF8A2, 0x7612], .vamoAminu { ext := 34, a := 1, b := 2 }),
  ([0xF8A2, 0x7712], .vamoAmaxu { ext := 34, a := 1, b := 2 }),
  ([0xF8A2, 0x7812], .vamoAswap { ext := 34, a := 1, b := 2 }),
  ([0xF8A2, 0x7912], .vamoAcas { ext := 34, a := 1, b := 2 }),
  ([0xF8A2, 0x7A12], .vamoAfadd { ext := 34, a := 1, b := 2 }),
  ([0xF8A2, 0x7B12], .vamoAfmin { ext := 34, a := 1, b := 2 }),
  ([0xF880, 0x8000], .fenceCore {}),
  ([0xF880, 0x8100], .fenceCluster {})] := rfl
theorem test_words_page2_1 : DecodesTo [
  ([0xF880, 0x8200], .fenceDie {}),
  ([0xF880, 0x8300], .fenceDevice {}),
  ([0xF880, 0x8400], .fenceSystem {}),
  ([0xF880, 0x8500], .fenceLoop {}),
  ([0xF880, 0x9010], .pref { a := 1 }),
  ([0xF880, 0x9110], .cwb { a := 1 }),
  ([0xF880, 0x9210], .cinv { a := 1 }),
  ([0xF880, 0x9312], .pin { a := 1, b := 2 }),
  ([0xF880, 0x9410], .unpin { a := 1 }),
  ([0xF880, 0x9500], .lsync {}),
  ([0xF880, 0x9612], .migr { a := 1, b := 2 })] := rfl
theorem test_words_page3_0 : DecodesTo [
  ([0xF8C0, 0x0012], .cfetch { a := 1, b := 2 }),
  ([0xF8C0, 0x0112], .cstore { a := 1, b := 2 }),
  ([0xF8C0, 0x0212], .csend { a := 1, b := 2 }),
  ([0xF8C0, 0x0312], .cmcast { a := 1, b := 2 }),
  ([0xF8C0, 0x0412], .cgath { a := 1, b := 2 }),
  ([0xF8C0, 0x0512], .cscat { a := 1, b := 2 }),
  ([0xF8C0, 0x0610], .cfree { a := 1 }),
  ([0xF8C0, 0x0712], .cseal { a := 1, b := 2 }),
  ([0xF8C0, 0x0812], .copen { a := 1, b := 2 }),
  ([0xF8C0, 0x1012], .qinit { a := 1, b := 2 }),
  ([0xF8C0, 0x1110], .qprod { a := 1 }),
  ([0xF8C0, 0x1210], .qarrive { a := 1 }),
  ([0xF8C0, 0x1312], .qexpect { a := 1, b := 2 }),
  ([0xF8C0, 0x1410], .qcons { a := 1 }),
  ([0xF8C0, 0x1510], .qretire { a := 1 }),
  ([0xF8C0, 0x1610], .qdrop { a := 1 }),
  ([0xF8C0, 0x1712], .qstat { a := 1, b := 2 })] := rfl
theorem test_words_page4_0 : DecodesTo [
  ([0xF900, 0x0012], .sopen { a := 1, b := 2 }),
  ([0xF900, 0x0110], .sclose { a := 1 }),
  ([0xF900, 0x0212], .ssave { a := 1, b := 2 }),
  ([0xF900, 0x0312], .sload { a := 1, b := 2 }),
  ([0xF900, 0x0412], .schild { a := 1, b := 2 }),
  ([0xF900, 0x1312], .sisect { d := 3, a := 1, b := 2 }),
  ([0xF900, 0x2312], .sunion { d := 3, a := 1, b := 2 }),
  ([0xF900, 0x3010], .snext { a := 1 }),
  ([0xF900, 0x3112], .scrd { a := 1, b := 2 }),
  ([0xF900, 0x3212], .spos { a := 1, b := 2 }),
  ([0xF900, 0x3312], .sskip { a := 1, b := 2 }),
  ([0xF900, 0x3412], .sskipn { a := 1, b := 2 }),
  ([0xF900, 0x3512], .svalq { a := 1, b := 2 }),
  ([0xF900, 0x3612], .scrdq { a := 1, b := 2 }),
  ([0xF900, 0x3710], .sdone { a := 1 }),
  ([0xF900, 0x3812], .slen { a := 1, b := 2 }),
  ([0xF900, 0x3912], .sbatch { a := 1, b := 2 }),
  ([0xF900, 0x4012], .svld { a := 1, b := 2 }),
  ([0xF900, 0x5012], .sapp { a := 1, b := 2 }),
  ([0xF900, 0x5112], .sappv { a := 1, b := 2 }),
  ([0xF900, 0x5210], .sseal { a := 1 })] := rfl
theorem test_words_page5_0 : DecodesTo [
  ([0xF940, 0x0012], .mconv { a := 1, b := 2 }),
  ([0xF940, 0x0110], .mleave { a := 1 }),
  ([0xF940, 0x0210], .msave { a := 1 }),
  ([0xF940, 0x0310], .mrest { a := 1 }),
  ([0xF940, 0x0410], .mstat { a := 1, b := 0 }),
  ([0xF940, 0x0512], .mucode { a := 1, b := 2 }),
  ([0xF940, 0x0612], .msets { a := 1, b := 2 }),
  ([0xF940, 0x0712], .mplog { a := 1, b := 2 }),
  ([0xF964, 0x1312], .mma { ext := 36, d := 3, a := 1, b := 2 }),
  ([0xF964, 0x2312], .mmas { ext := 36, d := 3, a := 1, b := 2 }),
  ([0xF96C, 0x3312], .mmax { ext := 44, d := 3, a := 1, b := 2 }),
  ([0xF960, 0x4312], .mrec { ext := 32, d := 3, a := 1, b := 2 }),
  ([0xF960, 0x5010], .mzero { ext := 32, a := 1 }),
  ([0xF960, 0x5112], .mldt { ext := 32, a := 1, b := 2 }),
  ([0xF940, 0x5212], .mstt { a := 1, b := 2 }),
  ([0xF940, 0x5312], .mtrans { a := 1, b := 2 }),
  ([0xF960, 0x5412], .mcvt { ext := 32, a := 1, b := 2 }),
  ([0xF940, 0x5512], .mrsum { a := 1, b := 2 }),
  ([0xF940, 0x5612], .mcopy { a := 1, b := 2 }),
  ([0xF940, 0x6012], .mlup { a := 1, b := 2 }),
  ([0xF940, 0x6112], .mchol { a := 1, b := 2 }),
  ([0xF940, 0x6212], .mtrsm { a := 1, b := 2 }),
  ([0xF940, 0x6310], .mfxchk { a := 1 })] := rfl
theorem test_words_page6_0 : DecodesTo [
  ([0xF980, 0x0012], .send { a := 1, b := 2 }),
  ([0xF980, 0x0110], .recv { a := 1 }),
  ([0xF980, 0x0212], .recvt { a := 1, b := 2 }),
  ([0xF980, 0x0310], .mpeek { a := 1 }),
  ([0xF980, 0x0412], .alarm { a := 1, b := 2 }),
  ([0xF980, 0x0510], .mcount { a := 1 }),
  ([0xF980, 0x0612], .sends { a := 1, b := 2 }),
  ([0xF980, 0x0712], .slotrd { a := 1, b := 2 }),
  ([0xF980, 0x1003], .dsync { b := 3 }),
  ([0xF980, 0x1103], .dsyncw { b := 3 }),
  ([0xF980, 0x1213], .dphase { a := 1, b := 3 }),
  ([0xF980, 0x1303], .dcomm { b := 3 }),
  ([0xF980, 0x1413], .dprobe { a := 1, b := 3 }),
  ([0xF980, 0x1512], .dlevel { a := 1, b := 2 }),
  ([0xF980, 0x1612], .launch { a := 1, b := 2 }),
  ([0xF980, 0x2012], .tenq { a := 1, b := 2 }),
  ([0xF980, 0x2113], .tnext { a := 1, b := 3 }),
  ([0xF980, 0x2200], .tdone {}),
  ([0xF980, 0x2300], .tabort {}),
  ([0xF980, 0x2411], .vtrd { a := 1, b := 1 }),
  ([0xF980, 0x2513], .gvtrd { a := 1, b := 3 }),
  ([0xF980, 0x2600], .spoff {}),
  ([0xF980, 0x2700], .spon {})] := rfl
theorem test_words_page7_0 : DecodesTo [
  ([0xF9C0, 0x0004], .trap { imm := 4 }),
  ([0xF9C0, 0x0100], .eret {}),
  ([0xF9C0, 0x0215], .rdsr { a := 1, imm := 5 }),
  ([0xF9C0, 0x0315], .wrsr { a := 1, imm := 5 }),
  ([0xF9C0, 0x0412], .tlbinv { a := 1, b := 2 }),
  ([0xF9C0, 0x0510], .tlbinva { a := 1 }),
  ([0xF9C0, 0x0610], .ctxsave { a := 1, b := 0 }),
  ([0xF9C0, 0x0710], .ctxrest { a := 1, b := 0 }),
  ([0xF9C0, 0x0812], .ringrd { a := 1, b := 2 }),
  ([0xF9C0, 0x0912], .thaw { a := 1, b := 2 }),
  ([0xF9C0, 0x0A00], .ebrk {}),
  ([0xF9C0, 0x0B10], .kill { a := 1 })] := rfl

/-! ### Values -/

theorem test_div_rem_signs : lands (exec (.div { b := 1 }) (stW (-7) 2)) (fun t => t.W 0 == -3) = true ∧
    lands (exec (.rem { b := 1 }) (stW (-7) 2)) (fun t => t.W 0 == -1) = true := by decide +kernel
theorem test_divu_by_zero : lands (exec (.divu { b := 1 }) (stW 5 0)) (fun t => t.W 0 == -1) = true := by decide +kernel
/-- w5 of the example: LI, then SHLI by 16, then ORI. -/
theorem test_constant_steps :
    lands (exec (.li { k := 4, imm := 0x0123456789AB }) st) (fun t => t.W 0 == 0x0123456789AB) = true ∧
    lands (exec (.shli { k := 1, imm := 16 }) (stW 0x0123456789AB 0)) (fun t => t.W 0 == 0x0123456789AB0000) = true ∧
    lands (exec (.ori { k := 2, imm := 0xCDEF }) (stW 0x0123456789AB0000 0)) (fun t => t.W 0 == 0x0123456789ABCDEF) = true := by
  decide +kernel
theorem test_counts : lands (exec (.popc { a := 1 }) (stW 0x0123456789ABCDEF 0)) (fun t => t.W 1 == 32) = true ∧
    lands (exec (.clz { a := 1 }) (stW 0x0123456789ABCDEF 0)) (fun t => t.W 1 == 7) = true := by decide +kernel
theorem test_eqi_to_p3 : lands (exec (.eqi { imm := 7, x := 3 }) (stW 7 0)) (fun t => t.P 3 && !t.P 1) = true := by decide +kernel
theorem test_cmov_on_p3 : lands (exec (.cmov { d := 3, b := 1 }) ((stW 0 9).setP 3 true)) (fun t => t.W 0 == 9) = true ∧
    lands (exec (.cmov { d := 3, b := 1 }) (stW 0 9)) (fun t => t.W 0 == 0) = true := by decide +kernel
theorem test_add_wraps : lands (exec (.add { b := 1 }) (stW (-1) 1)) (fun t => t.W 0 == 0) = true := by decide +kernel
theorem test_lpc_next_block : lands (exec (.lpc { imm := 1 }) { st with ir := { next := 0x4000003002, words := [0xE4B1] } }) (fun t => t.W 0 == 0x4000003040) = true := by
  decide +kernel
/-- F32: the reciprocal of 3 and one refinement; the order of a sum. -/
theorem test_reciprocal : (vecCompute 5 0 8 0 0 0 0 0 0 0 0x40400000).1.setWidth 32 = (0x3EAAAA00 : BitVec 32) ∧
    (vecCompute 5 2 8 0 0 0 0 0 0 0x3EAAAA00 0x40400000).1.setWidth 32 = (0x3EAAAAAB : BitVec 32) ∧
    (vecCompute 5 0 8 0 0 0 0 0 0 0 0x40400000).2.nx = true := by decide +kernel
theorem test_order_of_a_sum : (vRsum 8 0 0x3F8000003F8000003F8000004B800000).1.setWidth 32 = (0x4B800001 : BitVec 32) ∧
    (vRsum 8 0 0x3F8000003F8000003F8000004B800000).2.nx = true := by decide +kernel
/-- A k-block of BF16 ones against 2^24 and fifteen ones: the exact sum rounds once. -/
theorem test_k_block : (blockF32 (0, {}) (((0x4B80 : Nat) :: List.replicate 15 0x3F80).map fun b =>
    prodFv [inFv 9 0x3F80, inFv 9 b])).1 = 0x4B800008 := by decide +kernel
/-- The unit that a CALL #12 of an entry frame with ENTRY 40 leaves spills at g's ENTRY: the example of the chapter on thread state. -/
def exWin : Win :=
  { fb := 27, n := 25, rbsp := 0x1000000000, rbsl := 0x1000001000,
    units := [{ ret := 0x4000000080, k := 15, nc := 40 }, { ret := 0x4000001040, k := 12, nc := 40 }],
    ring := (List.range 12).map fun i => (i, BitVec.ofNat 64 (0x100 + i)) }
def stSpill (w : Win) : State := { stT { ctx with win := w } with tlb := [{ placeTlb with va := 0x1000000000, w := true, r := true }], dram := online }
theorem test_spill :
    lands (exec (.entry { a := 2, b := 8 }) (stSpill exWin)) (fun t =>
      t.t.wstat == 0x0000000100010F28 && t.t.win.rbsp == 0x1000000070 && t.t.win.fb == 27 && t.t.win.n == 40) = true := by decide +kernel
/-- The same with RBSL too low: SPILL with reason LIMIT and the end address, and nothing stored. -/
theorem test_spill_limit :
    lands (exec (.entry { a := 2, b := 8 }) (stSpill { exWin with rbsl := 0x1000000060 })) (fun t =>
      t.t.sys.tval == 0x0100001000000070 && t.t.wstat == 0x21B19 && t.t.win.rbsp == 0x1000000000) = true := by decide +kernel
/-- An indirect jump to a word that is no ENTRY: BADENTRY with the target. -/
theorem test_badentry :
    lands (exec (.jmpr {}) (({ stW placePc 0 with dram := online, tlb := [placeTlb] } : State).writeAt (.phys placePa) [1, 0x21]))
      (fun t => t.t.sys.tval == placePc && t.t.sys.tpc == 0x4000000000) = true ∧
    lands (exec (.jmpr {}) stEntry) (fun t => t.t.pc == placePc && t.t.win.n == 8) = true := by decide +kernel

/-! ### The graph of the chapter on program objects -/

/-- A to B, B to C, C to A. -/
def exGraph (d p : Nat) : Sdf :=
  { bodies := [{}, {}, {}], edges := [{ src := 0, dst := 1, p := 2, c := 3, d := 0, size := 64 }, { src := 1, dst := 2, p := 1, c := 2, d := 0, size := 64 },
      { src := 2, dst := 0, p := p, c := 1, d := d, size := 64 }] }
def okIs {α : Type} [DecidableEq α] (x : Except DruinErr α) (v : α) : Bool := match x with | .ok a => a == v | .error _ => false
def errIs {α : Type} (x : Except DruinErr α) (v : DruinErr) : Bool := match x with | .ok _ => false | .error e => e == v
theorem test_graph : okIs (exGraph 3 3).repetition [3, 2, 1] = true ∧
    okIs ((exGraph 3 3).period [3, 2, 1]) ([0, 0, 1, 0, 1, 2], [4, 2, 3]) = true ∧
    errIs ((exGraph 2 3).period [3, 2, 1]) .deadlock = true ∧ errIs (exGraph 3 2).repetition .inconsistent = true := by decide +kernel

/-! ### The error log of the chapter on DRAM -/

/-- Stack 2 holds 61 entries and ELOG_GSEQ reads 1,000; in one cycle channels 5, 9 and 40 of stack 2 and channel 3 of stack 6 count
correctable errors, noted here in another order. -/
def exErrs : State :=
  let ev (s : State) (b c : Nat) : State := s.logErr b (some c) 1 0 0 (b * 512 + c * 4)
  (ev (ev (ev (ev { State.reset with dram := { State.reset.dram with elog := [(2, { ents := List.replicate 61 {} })], gseq := 1000 } } 6 3)
    2 40) 2 5) 2 9).countErrs
theorem test_error_order :
    ((exErrs.elog 2).ents.drop 61).map (fun e => (e.w0.toNat, e.w2.toNat)) =
      [(1000 + 2 ^ 48, 0), (1001 + 2 ^ 48, 0), (1002 + 7 * 2 ^ 48, 1)] ∧
    (exErrs.elog 2).reg 0 0x800 = 2 ^ 63 + 64 ∧ mget 0 (exErrs.elog 2).eseq 40 = 1002 ∧ mget 0 (exErrs.elog 2).ecnt 40 = 1 ∧
    (exErrs.elog 6).ents.map (fun e => e.w0.toNat) = [1003 + 2 ^ 48] ∧ exErrs.dram.gseq = 1004 := by decide +kernel

end Sys2Proof.Tests
end

/-! # Predicates (R111)

The predicates as the state's operations see them: what a read returns after a write of one predicate, after a write of the whole of PW,
after a call or a return, and at reset. -/

namespace Sys2Proof.Machine

/-! ## One predicate of a context -/

/-- Bit n of PW is p(n), for every predicate but p0. -/
theorem Thread.p_eq_pw_bit (t : Thread) {n : Nat} (h : n ≠ 0) : t.p n = t.pw.getLsbD n := if_neg h

/-- PW has eight bits: a number past them reads as no predicate at all. -/
theorem Thread.p_of_eight_le (t : Thread) {n : Nat} (h : 8 ≤ n) : t.p n = false := by
  rw [t.p_eq_pw_bit (by omega), BitVec.getLsbD_of_ge _ _ h]

/-- `Thread.p_setP_other` for a reader of any number. -/
theorem Thread.p_setP_ne (t : Thread) {n m : Nat} (b : Bool) (hn : n < 8) (h : m ≠ n) : (t.setP n b).p m = t.p m := by
  by_cases hm : m < 8
  · exact t.p_setP_other b hn hm h
  · rw [Thread.p_of_eight_le _ (Nat.le_of_not_lt hm), Thread.p_of_eight_le _ (Nat.le_of_not_lt hm)]

/-! ## One predicate of the context in execution -/

@[simp] theorem State.P_zero (s : State) : s.P 0 = true := s.t.p_zero

@[simp] theorem State.P_setT (s : State) (t : Thread) (n : Nat) : (s.setT t).P n = t.p n := by rw [State.P, State.t_setT]

theorem State.P_setP_same (s : State) {n : Nat} (b : Bool) (h0 : n ≠ 0) (h : n < 8) : (s.setP n b).P n = b := by
  rw [State.setP, State.P_setT, Thread.p_setP_same _ b h0 h]

theorem State.P_setP_ne (s : State) {n m : Nat} (b : Bool) (hn : n < 8) (h : m ≠ n) : (s.setP n b).P m = s.P m := by
  rw [State.setP, State.P_setT, Thread.p_setP_ne _ b hn h, State.P]

/-- A write to p0 is discarded: the context is put back as it stood. -/
theorem State.setP_zero (s : State) (b : Bool) : s.setP 0 b = s.setT s.t := rfl

/-! ## Calls and returns: the predicates are not windowed -/

@[simp] theorem State.P_called (s : State) (k n : Nat) : (s.called k).P n = s.P n := State.P_setT ..

@[simp] theorem State.P_returned (s : State) (u : Link) (us : List Link) (n : Nat) : (s.returned u us).P n = s.P n := State.P_setT ..

/-! ## PW, system register 4 -/

theorem State.sysReg_pw (s : State) : s.sysReg 4 = some ((s.t.pw ||| 1).setWidth 64) := rfl

theorem Thread.pw_setSysReg_pw (t : Thread) (w : Word) : (t.setSysReg 4 w).pw = w.setWidth 8 ||| 1 := rfl

/-- What PW reads after a write: the low eight bits of the word, with bit 0 set. -/
theorem pw_readback (w : Word) : ((w.setWidth 8 ||| 1 ||| 1 : BitVec 8).setWidth 64 : Word) = (w &&& 0xFF) ||| 1 := by
  have mask : (w &&& 0xFF).toNat = w.toNat % 2 ^ 8 := Nat.and_two_pow_sub_one_eq_mod _ 8
  have low : ((w.setWidth 8).setWidth 64 : Word) = w &&& 0xFF := by
    apply BitVec.eq_of_toNat_eq
    rw [BitVec.toNat_setWidth, BitVec.toNat_setWidth, mask]
    omega
  rw [BitVec.or_assoc, BitVec.or_self, BitVec.setWidth_or, low]
  rfl

theorem State.sysReg_setSysReg_pw (s : State) (w : Word) :
    (s.setT (s.t.setSysReg 4 w)).sysReg 4 = some ((w &&& 0xFF) ||| 1) := by
  rw [State.sysReg_pw, State.t_setT, Thread.pw_setSysReg_pw, pw_readback]

/-- A write of PW writes p1 to p7 from the bits of their numbers. -/
theorem Thread.p_setSysReg_pw (t : Thread) (w : Word) {n : Nat} (h0 : n ≠ 0) (h : n < 8) :
    (t.setSysReg 4 w).p n = w.getLsbD n := by
  rw [Thread.p_eq_pw_bit _ h0, Thread.pw_setSysReg_pw]
  simp only [BitVec.ofNat_eq_ofNat, BitVec.getLsbD_or, BitVec.getLsbD_setWidth, BitVec.getLsbD_one, h, h0, decide_true, decide_false,
    Bool.true_and, Bool.and_false, Bool.or_false]

/-! ## Reset -/

@[simp] theorem State.thread_reset (c : Nat) : State.reset.thread c = {} := rfl

/-- At reset p1 to p7 are 0. -/
theorem State.p_reset (c : Nat) {n : Nat} (h0 : n ≠ 0) : (State.reset.thread c).p n = false := by
  rw [State.thread_reset, Thread.p_eq_pw_bit _ h0]
  simp only [BitVec.ofNat_eq_ofNat, BitVec.getLsbD_one, h0, decide_false, Bool.and_false]

/-! ## The obligation -/

/-- Settles O59, from the laws above: a write of one predicate, PW as a whole, calls and returns, and reset. -/
theorem predicatesHold : Obligations.PredicatesHold := by
  unfold Obligations.PredicatesHold
  intro s p q v
  have pos : 0 < p → p ≠ 0 := Nat.ne_of_gt
  refine ⟨s.P_zero, s.setP_zero v, fun h0 h => ?_, fun h0 _ => s.t.p_eq_pw_bit (pos h0), s.sysReg_pw, fun k => s.P_called k q,
    fun u us => s.P_returned u us q, fun w => ⟨s.sysReg_setSysReg_pw w, fun h0 h => ?_⟩,
    fun c => ⟨Thread.p_zero _, fun h0 => State.p_reset c (pos h0)⟩⟩
  · have hw : (s.setP p v).P p = v := s.P_setP_same v (pos h0) h
    have hpw : (s.setP p v).t.pw.getLsbD p = v := by rw [← Thread.p_eq_pw_bit _ (pos h0)]; exact hw
    exact ⟨hw, hpw, s.P_setP_ne v h⟩
  · rw [State.P_setT, Thread.p_setSysReg_pw _ w (pos h0) h]

end Sys2Proof.Machine

/-! # Closing a stream register (R304, R312)

A stream register as the state's operations see it: what a read returns after a write to the same and to another register, and that
neither such a write nor the move to the next instruction touches the stores of the context, on their way or buffered. -/

namespace Sys2Proof.Machine

/-! ## A stream register of a context -/

@[simp] theorem Thread.sr_setSr_same (t : Thread) (n : Nat) (r : Strm) : (t.setSr n r).sr n = r := mget_mset_same ..

theorem Thread.sr_setSr_other (t : Thread) {n m : Nat} (r : Strm) (h : m ≠ n) : (t.setSr n r).sr m = t.sr m :=
  mget_mset_other _ _ _ h

@[simp] theorem Thread.setSr_pend (t : Thread) (n : Nat) (r : Strm) : (t.setSr n r).pend = t.pend := rfl
@[simp] theorem Thread.setSr_spec (t : Thread) (n : Nat) (r : Strm) : (t.setSr n r).spec = t.spec := rfl

/-! ## A stream register of the context in execution -/

@[simp] theorem State.t_setSr (s : State) (n : Nat) (r : Strm) : (s.setSr n r).t = s.t.setSr n r := s.t_setT _

@[simp] theorem State.sr_setSr_same (s : State) (n : Nat) (r : Strm) : (s.setSr n r).sr n = r := by
  rw [State.sr, State.t_setSr, Thread.sr_setSr_same]

theorem State.sr_setSr_other (s : State) {n m : Nat} (r : Strm) (h : m ≠ n) : (s.setSr n r).sr m = s.sr m := by
  rw [State.sr, State.t_setSr, Thread.sr_setSr_other _ r h, State.sr]

@[simp] theorem State.setSr_mem (s : State) (n : Nat) (r : Strm) : (s.setSr n r).mem = s.mem := s.setT_mem _
@[simp] theorem State.setSr_cores (s : State) (n : Nat) (r : Strm) : (s.setSr n r).cores = s.cores := s.setT_cores _

/-! ## The move to the next instruction -/

/-- Past its chain a context differs in nothing but its PC (R73). -/
theorem State.t_advance (s : State) : s.advance.t = { s.t with pc := s.ir.next } := s.t_setT _

@[simp] theorem State.advance_sr (s : State) (n : Nat) : s.advance.sr n = s.sr n := by rw [State.sr, State.t_advance]; rfl
@[simp] theorem State.advance_pend (s : State) : s.advance.t.pend = s.t.pend := by rw [State.t_advance]
@[simp] theorem State.advance_spec (s : State) : s.advance.t.spec = s.t.spec := by rw [State.t_advance]

/-! ## SCLOSE -/

/-- An effect that may not be speculative goes on in a context that does not speculate (R304). -/
theorem State.irrevocable_ok {s : State} {b : Bool} (h : b = true → s.speculative s.cur = false) (k : State → Res) :
    s.irrevocable b k = k s := by
  cases b with
  | false => rfl
  | true => simp only [State.irrevocable, h rfl, Bool.and_false, Bool.false_eq_true, ↓reduceIte]

/-- SCLOSE of any register but a speculative context's WRITE register completes (R304, R312). -/
theorem exec_sclose {f : Fld} {s s1 : State} (h : StrmOpens false [] [f.a.toNat] f s s1)
    (hw : (s1.sr f.a.toNat).mode = 4 → s1.speculative s1.cur = false) :
    exec (.sclose f) s = .next (s1.setSr f.a.toNat {}).advance :=
  strmIssue_ok h (State.irrevocable_ok (fun hm => hw (beq_iff_eq.1 hm)) _)

/-! ## The obligation -/

/-- Settles O26: the way through the irrevocable effect, then the rules of `setSr` and `advance` for each part of the state named. -/
theorem streamCloses : Obligations.StreamCloses := by
  unfold Obligations.StreamCloses
  intro f s s1 h hw
  have closed : (s1.setSr f.a.toNat {}).advance.sr f.a.toNat = {} := by rw [State.advance_sr, State.sr_setSr_same]
  refine ⟨exec_sclose h hw, closed, by rw [closed], fun n hn => ?other, ?mem, ?cores, ?pend, ?buffered⟩
  case other => rw [State.advance_sr, State.sr_setSr_other _ _ hn]
  case mem => rw [State.advance_mem, State.setSr_mem]
  case cores => rw [State.advance_cores, State.setSr_cores]
  case pend => rw [State.advance_pend, State.t_setSr, Thread.setSr_pend]
  case buffered => rw [State.advance_spec, State.t_setSr, Thread.setSr_spec]

end Sys2Proof.Machine

/-! # Aborts of a speculative thread (R379, R385)

What an abort makes of the aborted context, as an operation on the context alone; what it does to the rest of the machine; and TABORT,
which adds the wait for the end of speculation. -/

namespace Sys2Proof.Machine

/-! ## What an abort discards from a context -/

/-- A context without its speculative work (R379): the buffered stores, the entries with their late faults, and what it waited for. -/
def Thread.workDiscarded (t : Thread) : Thread :=
  { t with vec := t.vec.discarded, pend := none, jobs := t.jobs - (t.vec.seq.filter (·.page == 5)).length,
           spec := { t.spec with sb := [], abort := false } }

/-- A context after an abort (R379): its work discarded, and its checkpoint restored where it has one. -/
def Thread.aborted (t : Thread) : Thread :=
  match t.spec.ckpt with
  | some k => t.workDiscarded.rollback k
  | none => t.workDiscarded

theorem Thread.aborted_of_ckpt {t : Thread} {k : Ckpt} (h : t.spec.ckpt = some k) : t.aborted = t.workDiscarded.rollback k := by
  rw [Thread.aborted, h]

theorem Thread.aborted_of_no_ckpt {t : Thread} (h : t.spec.ckpt = none) : t.aborted = t.workDiscarded := by rw [Thread.aborted, h]

/-- What a checkpoint does not hold is, after an abort, what the discarding of the work left. -/
theorem Thread.aborted_of_not_restored {α : Type} (part : Thread → α) (h : ∀ (t : Thread) (k : Ckpt), part (t.rollback k) = part t)
    (t : Thread) : part t.aborted = part t.workDiscarded := by
  cases hk : t.spec.ckpt with
  | some k => rw [Thread.aborted_of_ckpt hk, h]
  | none => rw [Thread.aborted_of_no_ckpt hk]

@[simp] theorem Thread.aborted_sb (t : Thread) : t.aborted.spec.sb = [] := t.aborted_of_not_restored (·.spec.sb) fun _ _ => rfl
@[simp] theorem Thread.aborted_seq (t : Thread) : t.aborted.vec.seq = [] := t.aborted_of_not_restored (·.vec.seq) fun _ _ => rfl
@[simp] theorem Thread.aborted_pend (t : Thread) : t.aborted.pend = none := t.aborted_of_not_restored (·.pend) fun _ _ => rfl

/-- Of the late faults those of matrix jobs stay, which no abort discards. -/
@[simp] theorem Thread.aborted_late (t : Thread) : t.aborted.vec.late = t.vec.late.filter fun x => decide (16 ≤ x.sub) :=
  t.aborted_of_not_restored (·.vec.late) fun _ _ => rfl

@[simp] theorem Thread.aborted_dseq (t : Thread) : t.aborted.vec.dseq = t.vec.dseq :=
  t.aborted_of_not_restored (·.vec.dseq) fun _ _ => rfl
@[simp] theorem Thread.aborted_promise (t : Thread) : t.aborted.promise = t.promise :=
  t.aborted_of_not_restored (·.promise) fun _ _ => rfl
@[simp] theorem Thread.aborted_sys (t : Thread) : t.aborted.sys = t.sys := t.aborted_of_not_restored (·.sys) fun _ _ => rfl
@[simp] theorem Thread.aborted_arr (t : Thread) : t.aborted.spec.arr = t.spec.arr :=
  t.aborted_of_not_restored (·.spec.arr) fun _ _ => rfl

/-! ## The tags and marks of a context -/

@[simp] theorem State.mem_dropMarks_marks {s : State} {c : Nat} {m : Mark} : m ∈ (s.dropMarks c).marks ↔ m ∈ s.marks ∧ m.c ≠ c := by
  rw [State.dropMarks, List.mem_filter, bne_iff_ne]

/-! ## The abort of a context, in the machine -/

/-- An abort clears the context's marks and does to the context what `Thread.aborted` says. -/
theorem State.abortNow_eq (s : State) (c : Nat) : s.abortNow c = (s.dropMarks c).setThread c (s.thread c).aborted := rfl

@[simp] theorem State.abortNow_cur (s : State) (c : Nat) : (s.abortNow c).cur = s.cur := rfl
@[simp] theorem State.abortNow_mem (s : State) (c : Nat) : (s.abortNow c).mem = s.mem := rfl
@[simp] theorem State.abortNow_marks (s : State) (c : Nat) : (s.abortNow c).marks = (s.dropMarks c).marks := rfl

@[simp] theorem State.thread_abortNow_same (s : State) (c : Nat) : (s.abortNow c).thread c = (s.thread c).aborted := by
  rw [State.abortNow_eq, State.thread_setThread_same]

@[simp] theorem State.t_abortNow_cur (s : State) : (s.abortNow s.cur).t = s.t.aborted := s.thread_abortNow_same s.cur

/-! ## The wait after TABORT -/

/-- A context that TABORT made wait issues nothing while it is speculative (R385). -/
theorem State.mayIssue_of_abortWait {s : State} {c : Nat} (hw : (s.thread c).spec.abortWait = true) (hs : s.speculative c = true) :
    s.mayIssue c = false := by
  have held : s.specWait c = true := by simp only [State.specWait, hw, hs, Bool.or_true, Bool.and_true]
  simp only [State.mayIssue, held, Bool.not_true, Bool.and_false]

/-! ## TABORT -/

/-- A context that waits after TABORT. -/
def Thread.abortWaiting (t : Thread) : Thread := { t with spec := { t.spec with abortWait := true } }

/-- The machine after TABORT by the speculative context in execution (R385): the context is aborted and waits. -/
def State.taskAborted (s : State) : State := (s.abortNow s.cur).setT s.t.aborted.abortWaiting

@[simp] theorem State.t_taskAborted (s : State) : s.taskAborted.t = s.t.aborted.abortWaiting := State.t_setT _ _

/-- TABORT of a thread that is not speculative only moves on. -/
theorem exec_tabort_of_not_speculative {f : Fld} {s s1 : State} (h : Opens {} f s s1) (hs : s1.speculative s1.cur = false) :
    exec (.tabort f) s = .next s1.advance :=
  issue_ok h (by rw [hs]; rfl)

theorem exec_tabort_of_speculative {f : Fld} {s s1 : State} (h : Opens {} f s s1) (hs : s1.speculative s1.cur = true) :
    exec (.tabort f) s = .next s1.taskAborted :=
  issue_ok h (by simp only [hs, ↓reduceIte, State.t_abortNow_cur]; rfl)

/-! ## The obligation -/

/-- Settles O34, from the laws above: the two ways of TABORT, what an abort leaves of the context and of the marks, and the wait. -/
theorem taskAbortCompletes : Obligations.TaskAbortCompletes := by
  unfold Obligations.TaskAbortCompletes
  intro f s s1 h
  refine ⟨exec_tabort_of_not_speculative h, fun hs => ⟨s1.taskAborted, exec_tabort_of_speculative h hs, rfl, ?_⟩⟩
  have waits : (s1.taskAborted.thread s1.taskAborted.cur).spec.abortWait = true := congrArg (·.spec.abortWait) s1.t_taskAborted
  have marks (m : Mark) : m ∈ s1.taskAborted.marks ↔ m ∈ s1.marks ∧ m.c ≠ s1.cur := State.mem_dropMarks_marks
  rw [State.t_taskAborted]
  refine ⟨s1.t.aborted_sb, s1.t.aborted_seq, s1.t.aborted_late, s1.t.aborted_pend, s1.t.aborted_promise,
    fun m hm => ((marks m).1 hm).2, fun m hm hc => (marks m).2 ⟨hm, hc⟩, s1.abortNow_mem s1.cur, s1.t.aborted_dseq, s1.t.aborted_sys,
    s1.t.aborted_arr, fun k hk => ?restored, State.mayIssue_of_abortWait waits⟩
  rw [Thread.aborted_of_ckpt hk]
  exact ⟨rfl, rfl, rfl, rfl, rfl, rfl⟩

end Sys2Proof.Machine

/-! # The round trip of the encodings (R79 to R90)

A row's shape says which formats and classes go together; each part of a chain (the prefixes, the base word, the fields) is read
back on its own, and the checks of R88 pass on what `WellFormed` admits. -/

namespace Sys2Proof

/-! ## The rows -/

/-- What the formats and classes of a row have to do with each other: the base word has a place for each field that is not lacking,
and the PXR's x serves one purpose. -/
def Row.shaped (r : Row) : Bool :=
  r.maj < 15 && r.fn.getD 0 < 16 &&
  (r.fn == none || r.fmt == .A || r.fmt == .E || r.fmt == .N) &&
  (r.fmt != .N || r.ca == .lack) && (r.fmt == .A || r.fmt == .C || r.cb == .lack) &&
  (r.fmt == .C || r.fmt == .Ci || r.cd == .lack) &&
  (r.fmt != .D || (!r.xp && !r.ca.isReg)) && (!r.xp || !r.xd) && (!r.cd.isReg || r.xd || (r.cd == .s && !r.xp))

/-- The row is the first of its page that its major and function select, whatever stands in the place of a function it has not. -/
def Row.selected (r : Row) : Bool :=
  (List.range 16).all fun n => !(r.fn == none || r.fn == some n) || findRow r.page r.maj n == some r

theorem rowsOf_shaped : ∀ p < 8, ∀ r ∈ rowsOf p, r.page = p ∧ r.shaped = true ∧ r.selected = true := by decide +kernel

theorem rowOf_mem {i : Instr} {r : Row} {f : Fld} (h : rowOf i = some (r, f)) : r.page < 8 ∧ r ∈ rowsOf r.page := by
  cases i <;> cases h <;> exact ⟨by decide, by decide⟩

theorem rowOf_instr {i : Instr} {r : Row} {f : Fld} (h : rowOf i = some (r, f)) : r.instr f = i := by
  cases i <;> cases h <;> rfl

/-! ## Prefix words -/

/-- Of the prefixes: one of a kind, with its payload (R81). -/
def preWord (kind pay : Nat) : Half := BitVec.ofNat 16 (0xF000 + kind * 1024 + pay)

theorem preWord_toNat {kind pay : Nat} (hk : kind < 4) (hp : pay < 1024) : (preWord kind pay).toNat = 0xF000 + kind * 1024 + pay := by
  rw [preWord, BitVec.toNat_ofNat, Nat.mod_eq_of_lt (by omega)]

theorem isPre_preWord {kind pay : Nat} (hk : kind < 4) (hp : pay < 1024) : isPre (preWord kind pay) = true := by
  rw [isPre, preWord_toNat hk hp, beq_iff_eq]; omega

theorem preKind_preWord {kind pay : Nat} (hk : kind < 4) (hp : pay < 1024) : preKind (preWord kind pay) = kind := by
  rw [preKind, preWord_toNat hk hp]; omega

theorem prePay_preWord {kind pay : Nat} (hk : kind < 4) (hp : pay < 1024) : prePay (preWord kind pay) = pay := by
  rw [prePay, preWord_toNat hk hp]; omega

/-- A chain is split where its prefixes end. -/
theorem prefixesOf_append (ps : List Half) (base : Half) (tail : List Half) (hp : ∀ w ∈ ps, isPre w = true) (hb : isPre base = false) :
    prefixesOf (ps ++ base :: tail) = ps ∧ restOf (ps ++ base :: tail) = base :: tail := by
  induction ps with
  | nil => simp [prefixesOf, restOf, hb]
  | cons w ps ih =>
    obtain ⟨h1, h2⟩ := ih fun v hv => hp v (List.mem_cons_of_mem _ hv)
    simp [prefixesOf, restOf, hp w (List.mem_cons_self ..), h1, h2]

/-! ## PXI words -/

theorem pxiWords_succ (k m : Nat) : pxiWords (k + 1) m = preWord 0 (m / 1024 ^ k % 1024) :: pxiWords k m := rfl

theorem mem_pxiWords {k m : Nat} {w : Half} (h : w ∈ pxiWords k m) : ∃ pay < 1024, w = preWord 0 pay := by
  induction k with
  | zero => cases h
  | succ k ih =>
    rw [pxiWords_succ] at h
    rcases List.mem_cons.1 h with rfl | h
    · exact ⟨_, Nat.mod_lt _ (by decide), rfl⟩
    · exact ih h

theorem preKind_of_mem_pxiWords {k m : Nat} {w : Half} (h : w ∈ pxiWords k m) : preKind w = 0 := by
  obtain ⟨pay, hp, rfl⟩ := mem_pxiWords h
  exact preKind_preWord (by decide) hp

theorem findKind_eq_none {kind : Nat} {ws : List Half} (h : ∀ w ∈ ws, preKind w ≠ kind) (n : Nat) : findKind kind ws n = none := by
  induction ws generalizing n with
  | nil => rfl
  | cons w ws ih =>
    rw [findKind, if_neg (by simpa using h w (List.mem_cons_self ..))]
    exact ih (fun v hv => h v (List.mem_cons_of_mem _ hv)) _

theorem findKind_pxiWords {kind : Nat} (hk : kind ≠ 0) (k m n : Nat) : findKind kind (pxiWords k m) n = none :=
  findKind_eq_none (fun _ hw => by rw [preKind_of_mem_pxiWords hw]; exact hk.symm) n

theorem findKind_zero_pxiWords {k : Nat} (hk : k = 0) (m n : Nat) : findKind 0 (pxiWords k m) n = none := by rw [hk]; rfl

theorem findDup_pxiWords (k m : Nat) : ∀ (seen : List Nat) (n : Nat), findDup (pxiWords k m) seen n = none := by
  induction k with
  | zero => intros; rfl
  | succ k ih =>
    intro seen n
    have hk : preKind (preWord 0 (m / 1024 ^ k % 1024)) = 0 := preKind_preWord (by decide) (Nat.mod_lt _ (by decide))
    simp [pxiWords_succ, findDup, hk, ih]

theorem pxiCount_pxiWords (k m : Nat) : pxiCount (pxiWords k m) = k := by
  induction k with
  | zero => rfl
  | succ k ih =>
    have hk : preKind (preWord 0 (m / 1024 ^ k % 1024)) = 0 := preKind_preWord (by decide) (Nat.mod_lt _ (by decide))
    simp [pxiWords_succ, pxiCount, hk, ih, Nat.add_comm]

/-- The payloads of the PXI words join to the low 10k bits (R83). -/
theorem pxiJoin_pxiWords (k m : Nat) : ∀ acc, pxiJoin (pxiWords k m) acc = acc * 1024 ^ k + m % 1024 ^ k := by
  induction k with
  | zero => intro acc; simp [pxiWords, pxiJoin, Nat.mod_one]
  | succ k ih =>
    intro acc
    have hl : m / 1024 ^ k % 1024 < 1024 := Nat.mod_lt _ (by decide)
    have hk : preKind (preWord 0 (m / 1024 ^ k % 1024)) = 0 := preKind_preWord (by decide) hl
    have hm : m % 1024 ^ (k + 1) = m % 1024 ^ k + 1024 ^ k * (m / 1024 ^ k % 1024) := by
      rw [Nat.pow_succ, Nat.mod_mul]
    simp only [pxiWords_succ, pxiJoin, hk, beq_self_eq_true, ↓reduceIte, prePay_preWord (by decide : 0 < 4) hl, ih, hm]
    rw [Nat.pow_succ, Nat.add_mul, Nat.mul_assoc, Nat.mul_comm 1024 (1024 ^ k), Nat.mul_comm (m / 1024 ^ k % 1024), Nat.add_assoc,
      Nat.add_comm (1024 ^ k * (m / 1024 ^ k % 1024))]

/-! ## The prefixes of an instruction -/

/-- The prefixes that carry `page * 64 + ext`, the PXR payload and the PXH payload, each left out where it says nothing, and the PXI
words after them (R94). -/
def chainPrefixes (page ext xr h k m : Nat) : List Half :=
  (if page = 0 then [] else [preWord 2 (page * 64 + ext)]) ++ (if xr = 0 then [] else [preWord 1 xr]) ++
    (if h = 0 then [] else [preWord 3 h]) ++ pxiWords k m

theorem Row.preWords_eq (r : Row) (f : Fld) :
    r.preWords f = chainPrefixes r.page f.ext.toNat (r.pxr f) f.h.toNat f.k (f.imm.toNat / 2 ^ r.fmt.immBits) := by
  simp only [Row.preWords, chainPrefixes, preWord, ← Nat.add_assoc, Nat.reduceMul, Nat.reduceAdd]

/-- What the decoder reads from the prefixes of an instruction. -/
structure ReadBack (ps : List Half) (page ext xr h k m : Nat) : Prop where
  pre : ∀ w ∈ ps, isPre w = true
  dup : findDup ps [] 0 = none
  pxp : payOf (findKind 2 ps 0) = if page = 0 then 0 else page * 64 + ext
  pxr : payOf (findKind 1 ps 0) = xr
  pxh : payOf (findKind 3 ps 0) = h
  noPxr : xr = 0 → findKind 1 ps 0 = none
  noPxh : h = 0 → findKind 3 ps 0 = none
  noPxi : k = 0 → findKind 0 ps 0 = none
  count : pxiCount ps = k
  join : pxiJoin ps 0 = m % 1024 ^ k

theorem chainPrefixes_readBack {page ext xr h k m : Nat} (hp : page < 8) (he : ext < 64) (hx : xr < 1024) (hh : h < 1024) :
    ReadBack (chainPrefixes page ext xr h k m) page ext xr h k m := by
  have hpe : page * 64 + ext < 1024 := by omega
  have k2 := preKind_preWord (by decide : 2 < 4) hpe
  have k1 := preKind_preWord (by decide : 1 < 4) hx
  have k3 := preKind_preWord (by decide : 3 < 4) hh
  have pre : ∀ w ∈ chainPrefixes page ext xr h k m, isPre w = true := by
    intro w hw
    simp only [chainPrefixes, List.mem_append] at hw
    rcases hw with ((hw | hw) | hw) | hw
    · split at hw <;> simp at hw; subst hw; exact isPre_preWord (by decide) hpe
    · split at hw <;> simp at hw; subst hw; exact isPre_preWord (by decide) hx
    · split at hw <;> simp at hw; subst hw; exact isPre_preWord (by decide) hh
    · obtain ⟨pay, hq, rfl⟩ := mem_pxiWords hw
      exact isPre_preWord (by decide) hq
  by_cases h0 : page = 0 <;> by_cases h1 : xr = 0 <;> by_cases h2 : h = 0 <;>
  constructor <;> first | exact pre |
  simp +contextual [chainPrefixes, h0, h1, h2, findDup, findKind, payOf, k1, k2, k3, findDup_pxiWords, findKind_pxiWords, pxiCount, pxiJoin,
    pxiCount_pxiWords, pxiJoin_pxiWords, findKind_zero_pxiWords,
    prePay_preWord, hpe, hx, hh]

/-! ## The base word -/

theorem Row.baseWord_facts {r : Row} {f : Fld} (hr : r.shaped = true) :
    r.baseWord f < 65536 ∧ r.baseWord f / 4096 = r.maj ∧ (r.fn = none ∨ r.fn = some (r.baseWord f / 256 % 16)) := by
  simp only [Row.shaped, Bool.and_eq_true, Bool.or_eq_true, decide_eq_true_eq, beq_iff_eq] at hr
  obtain ⟨⟨⟨⟨⟨⟨⟨⟨hm, hf⟩, hn⟩, -⟩, -⟩, -⟩, -⟩, -⟩, -⟩ := hr
  have ha := Nat.mod_lt f.a.toNat (by decide : 0 < 16)
  have hb := Nat.mod_lt f.b.toNat (by decide : 0 < 16)
  have hd := Nat.mod_lt f.d.toNat (by decide : 0 < 16)
  cases hfmt : r.fmt <;> simp only [hfmt, reduceCtorEq, or_false, or_true, Row.baseWord] at hn ⊢ <;> cases hq : r.fn <;>
    simp only [hq, Option.getD_none, Option.getD_some, reduceCtorEq, Option.some.injEq, false_or, true_or, and_true] at hf hn ⊢ <;> omega

/-! ## The fields -/

/-- A field that names no register is held by the base word's own bits. -/
theorem Cls.wf_lt {c : Cls} {fmt : Fmt} {ext v : BitVec 6} (h : c.wf fmt ext v = true) (hc : c.isReg = false) :
    v.toNat < (if fmt = .D then 8 else 16) := by
  cases c <;> simp only [Cls.isReg, Bool.true_eq_false] at hc <;> simp only [Cls.wf, Bool.and_eq_true, decide_eq_true_eq, beq_iff_eq] at h
  case lack => subst h; split <;> decide
  all_goals exact h.1

theorem Cls.wf_lim {c : Cls} {fmt : Fmt} {ext v : BitVec 6} (h : c.wf fmt ext v = true) : v.toNat < c.lim ext := by
  cases c <;> simp only [Cls.wf, Bool.and_eq_true, decide_eq_true_eq] at h <;> first | exact v.isLt | exact h.1

theorem Cls.wf_bad7 {c : Cls} {fmt : Fmt} {ext v : BitVec 6} (h : c.wf fmt ext v = true) : c.bad7 v.toNat = false := by
  cases c <;> simp only [Cls.wf, Bool.and_eq_true, Bool.not_eq_true'] at h <;> first | rfl | exact h.2

/-- A field is put together again from the base word's bits and the PXR's. -/
theorem fieldOf_split {c : Cls} {fmt : Fmt} {ext v : BitVec 6} {hi raw : Nat} (h : c.wf fmt ext v = true)
    (hh : c.isReg = true → hi = v.toNat / 16) (hr : (c = .lack ∧ raw = 0) ∨ raw = v.toNat % 16 ∨ (fmt = .D ∧ c.isReg = false ∧ raw = v.toNat % 8)) :
    fieldOf c hi raw = v := by
  apply BitVec.eq_of_toNat_eq
  have hv := v.isLt
  rw [fieldOf, BitVec.toNat_ofNat]
  cases hc : c.isReg
  · have hl := Cls.wf_lt h hc
    rw [if_neg (by decide)]
    rcases hr with ⟨rfl, rfl⟩ | rfl | ⟨rfl, -, rfl⟩
    · simp only [Cls.wf, beq_iff_eq] at h; subst h; rfl
    · split at hl <;> omega
    · simp only [↓reduceIte] at hl; omega
  · rw [if_pos rfl, hh hc]
    rcases hr with ⟨rfl, -⟩ | rfl | ⟨-, h0, -⟩
    · cases hc
    · omega
    · rw [h0] at hc; cases hc

/-- What well-formedness says of the fields of a row. -/
theorem Row.wf_iff {r : Row} {f : Fld} : r.wf f = true ↔
    (r.ca.wf r.fmt f.ext f.a = true ∧ r.cb.wf r.fmt f.ext f.b = true ∧ r.cd.wf r.fmt f.ext f.d = true) ∧
    (r.xWf f = true ∧ r.guardWf f = true) ∧ (r.extWf f = true ∧ r.hintWf f = true) ∧ r.immWf f = true ∧ r.excl.bad f = false ∧
    r.lenWf f = true := by
  simp only [Row.wf, Bool.and_eq_true, Bool.not_eq_true', and_assoc]

/-- The bits of the PXR payload of a well-formed instruction (R84). -/
theorem Row.pxr_facts {r : Row} {f : Fld} (hr : r.shaped = true) (h : r.wf f = true) :
    r.pxr f < 1024 ∧ r.pxr f % 8 = f.g.toNat ∧ r.pxr f / 256 % 4 = (if r.ca.isReg then f.a.toNat / 16 else 0) ∧
    r.pxr f / 64 % 4 = (if r.cb.isReg then f.b.toNat / 16 else 0) ∧
    (r.xd = true → r.pxr f / 8 % 8 = f.d.toNat / 16) ∧ (r.xd = false → r.pxr f / 8 % 8 = f.x.toNat) ∧
    (r.fmt = .D → r.pxr f = 0) := by
  obtain ⟨-, ⟨hx, hg⟩, -⟩ := Row.wf_iff.1 h
  simp only [Row.shaped, Bool.and_eq_true, Bool.or_eq_true, bne_iff_ne, ne_eq, beq_iff_eq, Bool.not_eq_true'] at hr
  obtain ⟨⟨⟨⟨⟨⟨-, -⟩, hcb⟩, hcd⟩, hD⟩, -⟩, -⟩ := hr
  have la := f.a.isLt
  have lb := f.b.isLt
  have ld := f.d.isLt
  have lx := f.x.isLt
  have lg := f.g.isLt
  have ka : (if r.ca.isReg then f.a.toNat / 16 else 0) < 4 := by split <;> omega
  have kb : (if r.cb.isReg then f.b.toNat / 16 else 0) < 4 := by split <;> omega
  have kx : (if r.xd then f.d.toNat / 16 else f.x.toNat) < 8 := by split <;> omega
  unfold Row.pxr
  refine ⟨by omega, by omega, by omega, by omega, fun e => ?_, fun e => ?_, fun e => ?_⟩
  · rw [if_pos e] at kx ⊢; omega
  · rw [e] at kx ⊢; simp only [Bool.false_eq_true, ↓reduceIte] at kx ⊢; omega
  · simp only [e, not_true_eq_false, false_or, reduceCtorEq] at hD hcb hcd
    simp only [Row.xWf, hD.1, Bool.false_or, beq_iff_eq] at hx
    simp only [Row.guardWf, e, bne_self_eq_false, Bool.false_or, beq_iff_eq] at hg
    have hb0 : r.cb.isReg = false := by rw [hcb]; rfl
    have hd0 : r.xd = false := by rw [Row.xd, hcd]; rfl
    simp [hD.2, hb0, hd0, hx, hg]

theorem Row.fields_a {r : Row} {f : Fld} (hr : r.shaped = true) (h : r.wf f = true) :
    fieldOf r.ca (r.pxr f / 256 % 4) (rawA r.fmt (r.baseWord f)) = f.a := by
  obtain ⟨-, -, ha, -⟩ := Row.pxr_facts hr h
  simp only [Row.shaped, Bool.and_eq_true, Bool.or_eq_true, bne_iff_ne, ne_eq, beq_iff_eq, Bool.not_eq_true'] at hr
  obtain ⟨⟨⟨⟨⟨⟨-, hN⟩, -⟩, -⟩, hD⟩, -⟩, -⟩ := hr
  refine fieldOf_split (Row.wf_iff.1 h).1.1 (fun e => by rw [ha, if_pos e]) ?_
  cases hfmt : r.fmt <;> simp only [hfmt, not_true_eq_false, false_or, reduceCtorEq, not_false_eq_true, true_or] at hN hD <;>
    simp only [rawA, Row.baseWord, hfmt]
  case N => exact .inl ⟨hN, trivial⟩
  case D => exact .inr (.inr ⟨trivial, hD.2, by omega⟩)
  all_goals exact .inr (.inl (by omega))

theorem Row.fields_b {r : Row} {f : Fld} (hr : r.shaped = true) (h : r.wf f = true) :
    fieldOf r.cb (r.pxr f / 64 % 4) (rawB r.fmt (r.baseWord f)) = f.b := by
  obtain ⟨-, -, -, hb, -⟩ := Row.pxr_facts hr h
  simp only [Row.shaped, Bool.and_eq_true, Bool.or_eq_true, bne_iff_ne, ne_eq, beq_iff_eq, Bool.not_eq_true'] at hr
  obtain ⟨⟨⟨⟨⟨-, hcb⟩, -⟩, -⟩, -⟩, -⟩ := hr
  refine fieldOf_split (Row.wf_iff.1 h).1.2.1 (fun e => by rw [hb, if_pos e]) ?_
  cases hfmt : r.fmt <;> simp only [hfmt, false_or, reduceCtorEq, true_or, or_true] at hcb <;> simp only [rawB, Row.baseWord, hfmt]
  case A | C => exact .inr (.inl (by omega))
  all_goals exact .inl ⟨hcb, trivial⟩

theorem Row.fields_d {r : Row} {f : Fld} (hr : r.shaped = true) (h : r.wf f = true) :
    fieldOf r.cd (r.pxr f / 8 % 4) (rawD r.fmt (r.baseWord f)) = f.d := by
  obtain ⟨-, -, -, -, hd, hx, -⟩ := Row.pxr_facts hr h
  obtain ⟨⟨-, -, wd⟩, ⟨wx, -⟩, -⟩ := Row.wf_iff.1 h
  simp only [Row.shaped, Bool.and_eq_true, Bool.or_eq_true, bne_iff_ne, ne_eq, beq_iff_eq, Bool.not_eq_true'] at hr
  obtain ⟨⟨⟨⟨-, hcd⟩, -⟩, hxp⟩, hs⟩ := hr
  have ld := f.d.isLt
  refine fieldOf_split wd (fun e => ?_) ?_
  · cases hq : r.xd
    · obtain ⟨hs, hp⟩ := hs.resolve_left (by simp [e, hq])
      have l8 : f.d.toNat < 8 := by have := Cls.wf_lim wd; rwa [hs] at this
      have x0 : f.x.toNat = 0 := by
        simp only [Row.xWf, hp, Bool.false_or, beq_iff_eq] at wx
        rw [wx]; rfl
      have := hx hq
      omega
    · have := hd hq; omega
  · cases hfmt : r.fmt <;> simp only [hfmt, false_or, reduceCtorEq, true_or, or_true] at hcd <;> simp only [rawD, Row.baseWord, hfmt]
    case C | Ci => exact .inr (.inl (by omega))
    all_goals exact .inl ⟨hcd, trivial⟩

theorem Row.fields_x {r : Row} {f : Fld} (hr : r.shaped = true) (h : r.wf f = true) :
    (if r.xp then BitVec.ofNat 3 (r.pxr f / 8 % 8) else 0) = f.x := by
  obtain ⟨-, -, -, -, -, hx, -⟩ := Row.pxr_facts hr h
  obtain ⟨-, ⟨wx, -⟩, -⟩ := Row.wf_iff.1 h
  simp only [Row.shaped, Bool.and_eq_true, Bool.or_eq_true, Bool.not_eq_true'] at hr
  obtain ⟨⟨-, hxp⟩, -⟩ := hr
  cases hq : r.xp
  · simp only [Row.xWf, hq, Bool.false_or, beq_iff_eq] at wx
    rw [wx, if_neg (by decide)]
  · rw [if_pos rfl, hx (hxp.resolve_left (by rw [hq]; rintro ⟨⟩)), BitVec.ofNat_toNat, BitVec.setWidth_eq]

/-- The immediate is put together again from the PXI payloads and the base word's bits (R83). -/
theorem Row.fields_imm {r : Row} {f : Fld} (hw : r.wf f = true) :
    (if r.fmt.immBits = 0 then 0 else
      BitVec.ofNat 49 (f.imm.toNat / 2 ^ r.fmt.immBits % 1024 ^ f.k * 2 ^ r.fmt.immBits + r.baseWord f % 2 ^ r.fmt.immBits)) = f.imm := by
  obtain ⟨-, -, -, hi, -⟩ := Row.wf_iff.1 hw
  simp only [Row.immWf] at hi
  split at hi
  · rename_i h0
    simp only [Bool.and_eq_true, beq_iff_eq] at hi
    rw [if_pos h0, hi.2]
  · rename_i h0
    rw [if_neg h0]
    simp only [decide_eq_true_eq, Nat.pow_add, Nat.pow_mul] at hi
    have hq : f.imm.toNat / 2 ^ r.fmt.immBits < 1024 ^ f.k := Nat.div_lt_of_lt_mul hi
    have hb : r.baseWord f % 2 ^ r.fmt.immBits = f.imm.toNat % 2 ^ r.fmt.immBits := by
      cases hfmt : r.fmt <;> simp only [hfmt, Fmt.immBits, not_true_eq_false, Row.baseWord] at h0 ⊢ <;> omega
    rw [Nat.mod_eq_of_lt hq, hb, Nat.div_add_mod', BitVec.ofNat_toNat, BitVec.setWidth_eq]

/-- The fields of an instruction are read back from its chain. -/
theorem Row.fields_readBack {r : Row} {f : Fld} {ps : List Half} (hr : r.shaped = true) (hw : r.wf f = true)
    (h : ReadBack ps r.page f.ext.toNat (r.pxr f) f.h.toNat f.k (f.imm.toNat / 2 ^ r.fmt.immBits)) :
    r.fields ps (r.baseWord f) = f := by
  obtain ⟨-, hg, -⟩ := Row.pxr_facts hr hw
  obtain ⟨-, -, ⟨he, -⟩, -⟩ := Row.wf_iff.1 hw
  have ext : BitVec.ofNat 6 ((if r.page = 0 then 0 else r.page * 64 + f.ext.toNat) % 64) = f.ext := by
    apply BitVec.eq_of_toNat_eq
    have le := f.ext.isLt
    simp only [Row.extWf, Bool.and_eq_true, Bool.or_eq_true, bne_iff_ne, beq_iff_eq] at he
    rw [BitVec.toNat_ofNat]
    split
    · rw [he.1.1.resolve_left (fun n => n ‹_›)]; rfl
    · omega
  have g : BitVec.ofNat 3 (r.pxr f % 8) = f.g := by rw [hg, BitVec.ofNat_toNat, BitVec.setWidth_eq]
  have hh : BitVec.ofNat 10 f.h.toNat = f.h := by rw [BitVec.ofNat_toNat, BitVec.setWidth_eq]
  simp only [Row.fields, h.pxr, h.pxp, h.pxh, h.count, h.join, Row.fields_a hr hw, Row.fields_b hr hw, Row.fields_d hr hw,
    Row.fields_x hr hw, Row.fields_imm hw, ext, g, hh]

/-! ## The checks of R88 -/

theorem whenBad_false (p : Option (Nat × Half)) : whenBad false p = none := rfl

theorem whenBad_none (b : Bool) : whenBad b none = none := by cases b <;> rfl

/-- No check of R88 stops a well-formed instruction. -/
theorem Row.verdict_none {r : Row} {f : Fld} {ps : List Half} {base : Half} (hr : r.shaped = true) (hw : r.wf f = true)
    (h : ReadBack ps r.page f.ext.toNat (r.pxr f) f.h.toNat f.k (f.imm.toNat / 2 ^ r.fmt.immBits)) (hb : base.toNat = r.baseWord f) :
    r.verdict ps base = none := by
  obtain ⟨-, -, pa, pb, pd, px, pD⟩ := Row.pxr_facts hr hw
  obtain ⟨⟨wa, wb, wd⟩, ⟨wx, -⟩, ⟨we, wh⟩, wi, wex, -⟩ := Row.wf_iff.1 hw
  have ld := f.d.isLt
  simp only [Row.extWf, Bool.and_eq_true, Bool.not_eq_true', beq_iff_eq] at we
  simp only [Row.hintWf, Bool.and_eq_true, Bool.or_eq_true, bne_iff_ne, beq_iff_eq] at wh
  have x4 : (if r.xp = true then false else if r.xd = true then decide (r.pxr f / 8 % 8 ≥ 4) else r.pxr f / 8 % 8 != 0) = false := by
    cases hxp : r.xp
    · cases hxd : r.xd
      · simp only [Row.xWf, hxp, Bool.false_or, beq_iff_eq] at wx
        simp [px hxd, wx]
      · have := pd hxd
        simp; omega
    · rfl
  have i8 : whenBad (r.fmt.immBits == 0) (findKind 0 ps 0) = none := by
    by_cases h0 : r.fmt.immBits = 0
    · simp only [Row.immWf, h0, ↓reduceIte, Bool.and_eq_true, beq_iff_eq] at wi
      rw [h.noPxi wi.1, whenBad_none]
    · rw [beq_eq_false_iff_ne.2 h0, whenBad_false]
  have r8 : whenBad (r.fmt == .D || (r.pxr f / 256 % 4 != 0 && !r.ca.isReg) || (r.pxr f / 64 % 4 != 0 && !r.cb.isReg)) (findKind 1 ps 0) =
      none := by
    by_cases hD : r.fmt = .D
    · rw [h.noPxr (pD hD), whenBad_none]
    · rw [pa, pb, beq_eq_false_iff_ne.2 hD]
      cases r.ca.isReg <;> cases r.cb.isReg <;> simp [whenBad_false]
  have h8 : whenBad (r.hint == .none) (findKind 3 ps 0) = none := by
    by_cases hh : r.hint = .none
    · rw [h.noPxh (by rw [wh.1.resolve_left (fun n => n hh)]; rfl), whenBad_none]
    · rw [beq_eq_false_iff_ne.2 hh, whenBad_false]
  have a11 := Cls.wf_lim wa
  have b11 := Cls.wf_lim wb
  have d11 := Cls.wf_lim wd
  simp only [Row.verdict, hb, Row.fields_readBack hr hw h, h.pxr, h.pxh, we.1.2, we.2, wh.2, x4, i8, r8, h8, whenBad_false, earlier,
    Cls.wf_bad7 wa, Cls.wf_bad7 wb, Cls.wf_bad7 wd, wex, bne_self_eq_false, Bool.or_self, Bool.false_eq_true, ↓reduceIte,
    ge_iff_le, Nat.not_le.2 a11, Nat.not_le.2 b11, Nat.not_le.2 d11, decide_false]
  rfl

/-! ## The obligation -/

/-- A row is decoded from the chain of its instruction. -/
theorem decodeRow_encode {r : Row} {f : Fld} (hp : r.page < 8) (hm : r ∈ rowsOf r.page) (hw : r.wf f = true) (tail : List Half) :
    decodeRow (r.encode f ++ tail) = .ok r f (r.encode f).length := by
  obtain ⟨-, hr, hs⟩ := rowsOf_shaped _ hp r hm
  obtain ⟨lt, maj, fn⟩ := Row.baseWord_facts (f := f) hr
  obtain ⟨px, -⟩ := Row.pxr_facts hr hw
  obtain ⟨-, -, -, -, -, hl⟩ := Row.wf_iff.1 hw
  have hb : (BitVec.ofNat 16 (r.baseWord f)).toNat = r.baseWord f := by rw [BitVec.toNat_ofNat, Nat.mod_eq_of_lt lt]
  have rb := chainPrefixes_readBack (m := f.imm.toNat / 2 ^ r.fmt.immBits) (k := f.k) hp f.ext.isLt px f.h.isLt
  rw [← Row.preWords_eq] at rb
  have nb : isPre (BitVec.ofNat 16 (r.baseWord f)) = false := by
    simp only [Row.shaped, Bool.and_eq_true, decide_eq_true_eq] at hr
    obtain ⟨⟨⟨⟨⟨⟨⟨⟨hm, -⟩, -⟩, -⟩, -⟩, -⟩, -⟩, -⟩, -⟩ := hr
    rw [isPre, hb, maj, beq_eq_false_iff_ne]; omega
  obtain ⟨e1, e2⟩ := prefixesOf_append (r.preWords f) (BitVec.ofNat 16 (r.baseWord f)) tail rb.pre nb
  have page : payOf (findKind 2 (r.preWords f) 0) / 64 = r.page := by
    have := f.ext.isLt
    rw [rb.pxp]; split <;> omega
  have row : findRow r.page r.maj (r.baseWord f / 256 % 16) = some r := by
    have := List.all_eq_true.1 hs _ (List.mem_range.2 (Nat.mod_lt (r.baseWord f / 256) (by decide : 0 < 16)))
    rcases fn with fn | fn <;> simpa [fn] using this
  have short : (r.preWords f).drop 4 = [] := List.drop_eq_nil_of_le (by simpa [Row.lenWf] using hl)
  have w8 : ¬ 8 ≤ r.page := Nat.not_le.2 hp
  simp only [Row.encode, List.append_assoc, List.singleton_append, List.length_append, List.length_singleton, decodeRow, e1, e2, short,
    rb.dup, page, hb, maj, w8, ↓reduceIte, row, Row.verdict_none hr hw rb hb, Row.fields_readBack hr hw rb]

/-- Settles O52, from the row's shape, the words read back one by one, and the checks that pass on well-formed fields. -/
theorem encodingRoundTrip : Obligations.EncodingRoundTrip := by
  unfold Obligations.EncodingRoundTrip
  intro i tail hs hw
  obtain ⟨⟨r, f⟩, h⟩ := Option.isSome_iff_exists.1 hs
  obtain ⟨hp, hm⟩ := rowOf_mem h
  simp only [Instr.wf, h] at hw
  simp only [decodeChain, encode, h, decodeRow_encode hp hm hw, rowOf_instr h]

end Sys2Proof

/-! # The scalar instructions (R123 to R136)

An open way leads each of them to its body; what is left to say is that the body's value is the one that R123 to R136 give. -/

namespace Sys2Proof.Machine

/-! ## Two registers -/

/-- Settles O1: each body writes the value that the statement names. -/
theorem binaryAluCompletes : Obligations.BinaryAluCompletes := by
  unfold Obligations.BinaryAluCompletes
  intro f
  and_intros <;> exact fun _ _ h => issue_ok h rfl

/-! ## Products and quotients -/

/-- The high half of the signed product (R127). -/
theorem mulhW_eq (x y : Word) : mulhW x y = (x.signExtend 128 * y.signExtend 128).extractLsb' 64 64 := by
  have e : x.signExtend 128 * y.signExtend 128 = BitVec.ofInt 128 (x.toInt * y.toInt) := by
    rw [BitVec.ofInt_mul]; rfl
  apply BitVec.eq_of_toNat_eq
  rw [e, mulhW, BitVec.extractLsb'_toNat, Nat.shiftRight_eq_div_pow]
  simp only [BitVec.toNat_ofInt]
  generalize x.toInt * y.toInt = z
  omega

theorem mulhuW_eq (x y : Word) : mulhuW x y = (x.setWidth 128 * y.setWidth 128).extractLsb' 64 64 := by
  apply BitVec.eq_of_toNat_eq
  have hx := x.isLt
  have hy := y.isLt
  have hxy : x.toNat * y.toNat < 2 ^ 128 := by
    calc x.toNat * y.toNat < 2 ^ 64 * 2 ^ 64 := Nat.mul_lt_mul'' hx hy
      _ = 2 ^ 128 := rfl
  simp only [mulhuW, BitVec.toNat_ofNat, BitVec.extractLsb'_toNat, BitVec.toNat_mul, BitVec.toNat_setWidth, Nat.shiftRight_eq_div_pow]
  rw [Nat.mod_eq_of_lt (a := x.toNat) (by omega), Nat.mod_eq_of_lt (a := y.toNat) (by omega), Nat.mod_eq_of_lt hxy]

/-- A quotient of signed words that a divisor of 0 makes all ones (R131). -/
theorem divW_eq (x y : Word) : divW x y = if y = 0 then BitVec.allOnes 64 else x.sdiv y := by
  unfold divW
  split
  · rfl
  · apply BitVec.eq_of_toInt_eq
    rw [BitVec.toInt_sdiv, BitVec.toInt_ofInt]

theorem divuW_eq (x y : Word) : divuW x y = if y = 0 then BitVec.allOnes 64 else x / y := by
  unfold divuW
  split
  · rfl
  · rw [← BitVec.toNat_udiv, BitVec.ofNat_toNat, BitVec.setWidth_eq]

theorem remW_eq (x y : Word) : remW x y = if y = 0 then x else x.srem y := by
  unfold remW
  split
  · rfl
  · rw [← BitVec.toInt_srem, BitVec.ofInt_toInt]

theorem remuW_eq (x y : Word) : remuW x y = if y = 0 then x else x % y := by
  unfold remuW
  split
  · rfl
  · rw [← BitVec.toNat_umod, BitVec.ofNat_toNat, BitVec.setWidth_eq]

/-- Settles O3: the late result and the divider's hold are the bodies'; the values are those of R127 and R131. -/
theorem multiplyAndDivideComplete : Obligations.MultiplyAndDivideComplete := by
  unfold Obligations.MultiplyAndDivideComplete
  simp only [← mulhW_eq, ← mulhuW_eq, ← divW_eq, ← divuW_eq, ← remW_eq, ← remuW_eq]
  intro f
  and_intros <;> exact fun _ _ h => issue_ok h rfl

/-! ## Immediates and scalar reads -/

/-- Settles O4: each body writes the value that the statement names; CMOV's two cases are those of its predicate. -/
theorem immediateAluCompletes : Obligations.ImmediateAluCompletes := by
  unfold Obligations.ImmediateAluCompletes
  intro f
  refine ⟨?_, ?_, ?_, ?_, ?_, ?_, ?_, ?_, ?_, fun s s1 h => ?cmov, ?_, ?_, ?_⟩
  case cmov =>
    by_cases hp : s1.P (f.d.toNat % 8) = !f.d.getLsbD 3
    · simp only [if_pos hp]
      exact issue_ok h (by rw [if_pos hp]; rfl)
    · simp only [if_neg hp]
      exact issue_ok h (by rw [if_neg hp])
  all_goals exact fun _ _ h => issue_ok h rfl

/-! ## Compares and predicates -/

/-- Settles O5: each body sets the predicate that the statement names to the relation it names. -/
theorem compareAndPredicateComplete : Obligations.CompareAndPredicateComplete := by
  unfold Obligations.CompareAndPredicateComplete
  have ne (x y : Word) : decide (x ≠ y) = (x != y) := by rw [Bool.eq_iff_iff]; simp
  simp only [ne]
  intro f
  and_intros <;> exact fun _ _ h => issue_ok h rfl

/-! ## Branches -/

/-- The vector stream of the context has nothing left: an instruction that waits for it goes on. -/
theorem State.afterVec_idle {s : State} (h : (s.t.vec.seq.all fun e => e.page != 1) = true) (hu : s.t.vec.under s.gtime = 0)
    (k : State → Res) : s.afterVec k = k s := by
  have h1 : (s.t.vec.seq.any fun e => e.page == 1) = false := by
    rw [List.any_eq_false]
    intro e he
    simpa using List.all_eq_true.1 h e he
  rw [State.afterVec, if_neg (by simp [h1, hu])]

/-- Settles O6: the bodies of the control instructions that name no register. -/
theorem branchCompletes : Obligations.BranchCompletes := by
  unfold Obligations.BranchCompletes
  intro f
  exact ⟨fun _ _ h => issue_ok h rfl, fun _ _ h => issue_ok h rfl, fun _ _ h => issue_ok h rfl, fun _ _ h => issue_ok h rfl,
    fun _ _ h hp => issue_ok h (State.afterVec_idle hp.1 hp.2 _)⟩

end Sys2Proof.Machine

/-! # Counts and extensions (R132) -/

namespace Sys2Proof.Machine

/-- The first number below 64 with a property, where there is one. -/
theorem find?_range_spec {p : Nat → Bool} (h : ∃ i < 64, p i = true) :
    ∃ k < 64, (BitVec.ofNat 64 (((List.range 64).find? p).getD 64)).toNat = k ∧ p k = true ∧ ∀ j < k, p j = false := by
  cases hf : (List.range 64).find? p with
  | none =>
    obtain ⟨i, hi, hp⟩ := h
    rw [List.find?_range_eq_none] at hf
    simpa [hp] using hf i hi
  | some k =>
    obtain ⟨hp, hk, hj⟩ := List.find?_range_eq_some.1 hf
    have hk := List.mem_range.1 hk
    exact ⟨k, hk, by simp; omega, hp, fun j hjk => by simpa using hj j hjk⟩

theorem exists_bit_of_ne_zero {y : Word} (h : y ≠ 0) : ∃ i < 64, y.getLsbD i = true := by
  refine Classical.byContradiction fun hn => h (BitVec.eq_of_getLsbD_eq fun i hi => ?_)
  exact (eq_false_of_ne_true fun hb => hn ⟨i, hi, hb⟩).trans BitVec.getLsbD_zero.symm

theorem clzW_zero : clzW 0 = 64 := by decide +kernel
theorem ctzW_zero : ctzW 0 = 64 := by decide +kernel

/-- CLZ of a nonzero word: the bits above the highest set bit. -/
theorem clzW_spec {y : Word} (h : y ≠ 0) :
    (clzW y).toNat < 64 ∧ y.toNat < 2 ^ (64 - (clzW y).toNat) ∧ 2 ^ (63 - (clzW y).toNat) ≤ y.toNat := by
  obtain ⟨i, hi, hb⟩ := exists_bit_of_ne_zero h
  obtain ⟨k, hk, e, top, above⟩ := find?_range_spec (p := fun i => y.getLsbD (63 - i)) ⟨63 - i, by omega, by
    simpa [show 63 - (63 - i) = i by omega] using hb⟩
  rw [clzW, e]
  refine ⟨hk, Nat.lt_pow_two_of_testBit _ fun j hj => ?_, Nat.ge_two_pow_of_testBit top⟩
  rcases Nat.lt_or_ge j 64 with h64 | h64
  · have hj' := above (63 - j) (by omega)
    simp only [show 63 - (63 - j) = j by omega] at hj'
    exact hj'
  · exact BitVec.getLsbD_of_ge y j h64

/-- CTZ of a nonzero word: the bits below the lowest set bit. -/
theorem ctzW_spec {y : Word} (h : y ≠ 0) :
    (ctzW y).toNat < 64 ∧ y.toNat % 2 ^ (ctzW y).toNat = 0 ∧ y.getLsbD (ctzW y).toNat = true := by
  obtain ⟨k, hk, e, low, below⟩ := find?_range_spec (exists_bit_of_ne_zero h)
  rw [ctzW, e]
  refine ⟨hk, Nat.eq_of_testBit_eq fun j => ?_, low⟩
  rw [Nat.testBit_mod_two_pow, Nat.zero_testBit]
  by_cases hj : j < k
  · rw [show y.toNat.testBit j = false from below j hj, Bool.and_false]
  · simp [hj]

/-- The sign extension of the low n bits. -/
theorem sextW_eq (y : Word) {n : Nat} (h0 : 0 < n) (hn : n < 64) : sextW y n = (y.setWidth n).signExtend 64 := by
  obtain ⟨k, rfl⟩ : ∃ k, n = k + 1 := ⟨n - 1, by omega⟩
  have hp : 2 ^ (k + 1) ≤ 2 ^ 63 := Nat.pow_le_pow_right (by decide) (by omega)
  have hm := Nat.mod_lt y.toNat (Nat.two_pow_pos (k + 1))
  apply BitVec.eq_of_toNat_eq
  rw [BitVec.toNat_signExtend, BitVec.msb_eq_decide, BitVec.toNat_setWidth, BitVec.toNat_setWidth, sextW]
  simp only [Nat.add_sub_cancel, decide_eq_true_eq]
  rw [Nat.mod_eq_of_lt (b := 2 ^ 64) (by omega)]
  split <;> rename_i hl
  · rw [if_neg (by omega), BitVec.toNat_ofNat]; omega
  · rw [if_pos (by omega), BitVec.toNat_ofNat]; omega

theorem zextW_eq (y : Word) (n : Nat) : zextW y n = (y.setWidth n).setWidth 64 := by
  apply BitVec.eq_of_toNat_eq
  simp [zextW]

/-- Settles O2, from what each count and extension computes. -/
theorem countsAndExtensionsValues : Obligations.CountsAndExtensionsValues := by
  unfold Obligations.CountsAndExtensionsValues
  intro y
  refine ⟨?_, clzW_spec, ctzW_spec, sextW_eq y ?_ ?_, sextW_eq y ?_ ?_, sextW_eq y ?_ ?_, zextW_eq y 8, zextW_eq y 16, zextW_eq y 32⟩
  · rintro rfl; exact ⟨clzW_zero, ctzW_zero⟩
  all_goals decide

end Sys2Proof.Machine

/-! # Calls, returns, frames and queues (R103, R112, R139 to R147) -/

namespace Sys2Proof.Machine

/-! ## A window that needs no spill -/

/-- The registers of a run of units. -/
def unitRegs (us : List Link) : Nat := (us.map (·.k)).foldl (· + ·) 0

theorem foldl_add_eq (l : List Nat) (a : Nat) : l.foldl (· + ·) a = a + l.foldl (· + ·) 0 := by
  induction l generalizing a with
  | nil => rfl
  | cons x l ih => rw [List.foldl_cons, List.foldl_cons, ih, ih (0 + x)]; omega

theorem unitRegs_cons (u : Link) (us : List Link) : unitRegs (u :: us) = u.k + unitRegs us := by
  simp only [unitRegs, List.map_cons, List.foldl_cons]
  rw [foldl_add_eq, Nat.zero_add]

/-- Units that fit their registers and their places are all kept. -/
theorem keepUnits_all : ∀ (us : List Link) (room slots : Nat), unitRegs us ≤ room → us.length ≤ slots → keepUnits us room slots = us
  | [], _, _, _, _ => rfl
  | u :: us, room, slots, hr, hs => by
    rw [unitRegs_cons] at hr
    rw [List.length_cons] at hs
    rw [keepUnits, if_pos ⟨by omega, by omega⟩, keepUnits_all us _ _ (by omega) (by omega)]

/-- A window that fits is settled without a spill: the registers that enter the frame read zero (R103). -/
theorem State.settle_fits {s : State} {w : Win} (z cnt : Nat) (h : w.n + unitRegs w.units ≤ 64) (hl : w.units.length ≤ 16) :
    s.settle w z cnt = .ok (s.setT { s.t with win := { w with ring := zeroRun w.ring z cnt } }) := by
  have hk := keepUnits_all w.units (64 - w.n) 16 (by omega) hl
  simp [State.settle, hk, spillBytes]

/-! ## Calls -/

theorem State.callTo_fits {s : State} {k : Nat} (h : s.callFits k) (target : Word) :
    s.callTo k target = .ok ((s.called k).jump target) := by
  obtain ⟨hr, hl⟩ := h
  have fits : (s.t.win.call k (s.baseBlock + 64)).n + unitRegs (s.t.win.call k (s.baseBlock + 64)).units ≤ 64 := by
    simp only [Win.call, unitRegs_cons]
    have : unitRegs s.t.win.units = s.t.win.nres := rfl
    omega
  rw [State.callTo, State.settle_fits _ _ fits (by simp only [Win.call, List.length_cons]; omega)]
  rfl

theorem State.checkEntry_ok {s : State} {t : Word} (h : s.entryAt t) (k : State → Res) : s.checkEntry t k = k s := by
  obtain ⟨ha, l, hf, hd, hb⟩ := h
  simp [State.checkEntry, ha, hf, hd, hb]

/-- Settles O7: the target is checked, and the new frame fits. -/
theorem callCompletes : Obligations.CallCompletes := by
  unfold Obligations.CallCompletes
  intro f
  refine ⟨fun s s1 h hp => issue_ok h (State.callTo_fits hp _), fun s s1 h ⟨hf, he⟩ => issue_ok h ?callr, fun s s1 h he => issue_ok h ?jmpr⟩
  case callr => rw [State.checkEntry_ok he, State.callTo_fits hf]
  case jmpr => rw [State.checkEntry_ok he]

/-! ## Returns -/

theorem State.retTo_fits {s : State} {u : Link} {us : List Link} (ha : u.ret.toNat % 64 = 0) (h : s.returnFits u us) :
    s.retTo s.t.win u us = .ok ((s.returned u us).jump u.ret) := by
  obtain ⟨hr, hl, -⟩ := h
  simp only [State.retTo, ha, ne_eq, not_true_eq_false, ↓reduceIte, Win.ret]
  rw [State.settle_fits _ _ (by simpa [unitRegs] using hr) hl]
  rfl

/-- A thread with no vector work and no jobs that is not speculative ends (R143). -/
theorem State.endThread_idle {s : State} (hs : s.speculative s.cur = false) (hq : s.t.vec.seq = []) (hu : s.t.vec.under s.gtime = 0)
    (hj : s.t.jobs = 0) : s.endThread = .ok (s.setT { s.t with st := .done }) := by
  rw [State.endThread, if_neg (by simp [hs]), State.afterVec_idle (by simp [hq]) hu]
  simp [hq, hj]

/-- Settles O8: a return through a resident unit, and the end of the thread. -/
theorem returnCompletes : Obligations.ReturnCompletes := by
  unfold Obligations.ReturnCompletes
  intro f
  refine ⟨fun s s1 u us h ha hf => issue_ok h ?unit, fun s s1 h ⟨hn, h0, hs, hq, hu, hj⟩ => issue_ok h ?last⟩
  case unit => simp only [hf.2.2, State.retTo_fits ha hf]
  case last => simp only [hn, h0, ↓reduceIte, State.endThread_idle hs hq hu hj]

/-! ## Frames and queues -/

/-- Settles O9: the new frame, a queue with room, a queue with an entry. -/
theorem frameAndQueueCompletes : Obligations.FrameAndQueueCompletes := by
  unfold Obligations.FrameAndQueueCompletes
  intro f
  refine ⟨fun s s1 s2 h hr => issue_ok h ?entry, fun s s1 h hq => issue_ok h ?qput, fun s s1 v vs h hq => issue_ok h ?qget⟩
  case entry => simp only [hr, Res.bind]
  case qput => rw [if_neg (Nat.not_le.2 hq)]
  case qget => simp only [hq]

end Sys2Proof.Machine

/-! # Every instruction goes one of two ways, and every step goes on (R85, R88, R417) -/

namespace Sys2Proof.Machine

/-! ## The ways of the encoded instructions -/

/-- The two ways in which an encoded instruction runs: the way to issue, with a kind whose mode only page 7 restricts, or the dispatch
of a vector instruction. -/
inductive RunsBy (page : Nat) (f : Fld) (s : State) (o : Host.Outcome State Fault Refusal) : Prop where
  | issue (k : Kind) (body : State → Res) (mode : page ≠ 7 → k.mode = 0) (eq : o = issue k f s body)
  | vec (id : Nat) (eq : o = dispatchVec id f s)

/-- Every encoded instruction goes one of the two ways. -/
theorem exec_runsBy {i : Instr} {r : Row} {f : Fld} (h : rowOf i = some (r, f)) (s : State) : RunsBy r.page f s (exec i s) := by
  cases i <;> cases h <;> first
    | exact .issue _ _ (fun _ => rfl) rfl
    | exact .vec _ rfl
    | exact .issue _ _ (fun n => absurd rfl n) rfl

/-! ## Every step goes on -/

theorem finish_next (s : State) (r : Res) : ∃ t, finish s r = .next t := by cases r <;> exact ⟨_, rfl⟩

theorem dispatchVec_next (id : Nat) (f : Fld) (s : State) : ∃ t, dispatchVec id f s = .next t := by
  unfold dispatchVec
  dsimp only
  split <;> exact finish_next ..

theorem RunsBy.next {page : Nat} {f : Fld} {s : State} {o : Host.Outcome State Fault Refusal} (h : RunsBy page f s o) :
    ∃ t, o = .next t := by
  cases h with
  | issue k body mode eq => rw [eq]; exact finish_next ..
  | vec id eq => rw [eq]; exact dispatchVec_next ..

theorem execPageWalk_next (pcl asid va : Nat) (s : State) : ∃ t, execPageWalk pcl asid va s = .next t := by
  unfold execPageWalk
  dsimp only
  split <;> exact ⟨_, rfl⟩

/-- An instruction or an event answers a next state, whatever the state (log entry 42). -/
theorem exec_next (i : Instr) (s : State) : ∃ t, exec i s = .next t := by
  cases h : rowOf i with
  | some p => exact (exec_runsBy h s).next
  | none =>
    cases i <;> first
      | exact ⟨_, rfl⟩
      | exact execPageWalk_next ..
      | cases h

theorem afterIssue_next {c : Nat} {o : Host.Outcome State Fault Refusal} (h : ∃ t, o = .next t) : ∃ t, afterIssue c o = .next t := by
  obtain ⟨t, rfl⟩ := h
  exact ⟨_, rfl⟩

theorem issueTurn_next (c : Nat) (s : State) : ∃ t, issueTurn c s = .next t := by
  unfold issueTurn
  dsimp only
  split
  · exact ⟨_, rfl⟩
  · split
    · split
      · exact afterIssue_next (exec_next _ _)
      · exact ⟨_, rfl⟩
    · exact ⟨_, rfl⟩

theorem runTurn_next (c : Nat) (s : State) : ∃ t, runTurn c s = .next t := by
  unfold runTurn
  split
  · exact ⟨_, rfl⟩
  · split
    · exact issueTurn_next c s
    · exact ⟨_, rfl⟩

theorem chooseTurn_next (c : Nat) (s : State) : ∃ t, chooseTurn c s = .next t := by
  unfold chooseTurn
  split
  · split
    · exact ⟨_, rfl⟩
    · exact issueTurn_next c s
  · exact runTurn_next c s

theorem lateTurn_next (s : State) (q : List (Nat × List Nat)) : ∃ t, lateTurn s q = .next t := by
  unfold lateTurn
  split
  · exact runTurn_next ..
  · exact ⟨_, rfl⟩
  · exact ⟨_, rfl⟩

/-- Settles O55: each kind of turn answers a next state. -/
theorem everyStepGoesOn : Obligations.EveryStepGoesOn := by
  unfold Obligations.EveryStepGoesOn StepsOn
  intro s
  unfold step
  split
  case h_3 =>
    split
    · exact ⟨_, rfl⟩
    · exact exec_next _ _
  case h_4 => exact runTurn_next ..
  case h_5 => exact chooseTurn_next ..
  case h_6 => exact lateTurn_next ..
  all_goals exact ⟨_, rfl⟩

/-! ## A step runs the decoded instruction -/

/-- The turn to be chosen is the turn to issue where no request is put in order. -/
theorem chooseTurn_eq_runTurn {c : Nat} {s : State} (h : s.asyncNow c = true ∨ s.mayIssue c = false ∨ s.lateKey c = none) :
    chooseTurn c s = runTurn c s := by
  unfold chooseTurn
  cases ha : s.asyncNow c
  · cases hm : s.mayIssue c
    · rfl
    · have hk : s.lateKey c = none := by simpa [ha, hm] using h
      simp only [hk, Bool.not_false, Bool.and_self, ↓reduceIte, runTurn, ha, hm, Bool.false_eq_true]
  · rfl

/-- Settles O54: the turns by their definitions, one branch of the fetch and of the decoder at a time. -/
theorem stepRunsTheDecoded : Obligations.StepRunsTheDecoded := by
  unfold Obligations.StepRunsTheDecoded
  refine ⟨fun s c rest h => ⟨fun hc => ?run, fun key ha hm hk => ?key⟩, fun s key c cs q rest h => ?late, fun s c rest h ha => ?issue⟩
  case run =>
    have e : step s = chooseTurn c { s with agenda := rest } := by rw [step, h]
    rw [e, chooseTurn_eq_runTurn hc]; rfl
  case key =>
    have e : step s = chooseTurn c { s with agenda := rest } := by rw [step, h]
    rw [e, chooseTurn]
    simp only [ha, hm, hk, Bool.not_false, Bool.and_self, ↓reduceIte]
  case late => rw [step, h]; rfl
  case issue =>
    have e : step s = runTurn c { s with agenda := rest } := by rw [step, h]
    rw [e, runTurn]
    have pc : ({ s with agenda := rest } : State).thread c = s.thread c := rfl
    refine ⟨fun hm => ?_, fun ws i len hm hw hd => ⟨fun ho => ?_, fun t ho ht => ?_⟩, fun hm => ⟨fun ws sub w p hw hd => ?_, fun x hw => ?_⟩⟩
    · simp only [ha, hm, Bool.false_eq_true, ↓reduceIte]
    · simp only [ha, hm, Bool.false_eq_true, ↓reduceIte, issueTurn, pc, hw, hd, ho]
    · simp only [ha, hm, Bool.false_eq_true, ↓reduceIte, issueTurn, pc, hw, hd, ho, ht, afterIssue]
    · simp only [ha, hm, Bool.false_eq_true, ↓reduceIte, issueTurn, pc, hw, hd, afterIssue]
    · simp only [ha, hm, Bool.false_eq_true, ↓reduceIte, issueTurn, pc, hw]

/-! ## A false guard and the wrong mode -/

theorem dispatchVec_guard_false {id : Nat} {f : Fld} {s : State} (hg : s.P f.g.toNat = false) (hh : s.t.hold = none)
    (hb : s.t.vec.bodyLeft = 0) (hs : s.speculative s.cur = true → s.t.spec.spen = true) :
    dispatchVec id f s = .next (s.setT s.t).advance := by
  simp only [dispatchVec, hb, Nat.lt_irrefl, decide_false, Bool.not_false, Bool.or_true, ↓reduceIte]
  exact issue_guard_false _ hg rfl hh hs

/-- A trap that nothing holds up is taken (R393). -/
theorem State.stopped_trap {s : State} (hs : s.speculative s.cur = false) (hc : s.t.completeAt ≤ s.gtime) (cause acc level reason : Nat)
    (val : Word) : s.stopped (.trap cause acc level reason val) s =
      s.takeTrap s.cur cause (causeWord cause acc level reason) s.t.pc val none := by
  simp only [State.stopped, hs, Nat.not_lt.2 hc, decide_false, Bool.or_self, Bool.false_eq_true, ↓reduceIte]

/-- Settles O58: the guard on each way, and the mode, which is checked before it. -/
theorem falseGuardSkips : Obligations.FalseGuardSkips := by
  unfold Obligations.FalseGuardSkips
  refine fun s hs => ⟨fun i r f hi hp hg hh hb => ?skip, fun i m f hi hm hn hc => ?priv⟩
  case skip =>
    cases exec_runsBy hi s with
    | issue k body mode eq => rw [eq]; exact issue_guard_false _ hg (by simp only [Kind.allowed, mode hp]) hh hs
    | vec id eq => rw [eq]; exact dispatchVec_guard_false hg hh hb hs
  case priv =>
    have wrong {names : List (BitVec 6)} (body : State → Res) :
        issue { mode := m, irrev := true, names := names } f s body = .next (s.takeTrap s.cur cPRIV (causeWord cPRIV 0 0 0) s.t.pc 0 none) := by
      rw [issue_priv (k := { mode := m, irrev := true, names := names }) body hm hs, State.stopped_trap hn hc]
    simp only [List.mem_cons, Prod.mk.injEq, List.not_mem_nil, or_false] at hi
    rcases hi with ⟨rfl, rfl⟩ | ⟨rfl, rfl⟩ | ⟨rfl, rfl⟩ | ⟨rfl, rfl⟩ | ⟨rfl, rfl⟩ | ⟨rfl, rfl⟩ <;> exact wrong _

/-! ## Words of the spec -/

/-- Settles O53: the decoder evaluates each chain. -/
theorem specWordsDecode : Obligations.SpecWordsDecode := by
  unfold Obligations.SpecWordsDecode
  and_intros <;> rfl

end Sys2Proof.Machine

/-! # The frame of the scalar instructions (R127 to R134) -/

namespace Sys2Proof.Machine

/-- Outside a hold and speculation, with its registers within the frame, an instruction whose kind is free of a mode either is skipped
or has its body's effect in the same state. -/
theorem issue_plain {k : Kind} {f : Fld} {s t : State} {body : State → Res} (hm : k.mode = 0) (hh : s.t.hold = none)
    (hs : s.speculative s.cur = false) (hn : ∀ a ∈ k.names, a.toNat < s.t.win.n) (h : issue k f s body = .next t)
    {Q : State → Prop} (skip : Q (s.setT s.t).advance) (run : ∃ u, body (s.setT s.t) = .ok u ∧ Q u) : Q t := by
  have allowed : k.allowed s.t = true := by simp only [Kind.allowed, hm]
  cases hg : s.P f.g.toNat
  · rw [issue_guard_false body hg allowed hh (fun e => by rw [hs] at e; cases e)] at h
    cases h; exact skip
  · obtain ⟨u, hu, hq⟩ := run
    rw [issue_ok (Opens.plain allowed hg hh hs hn) hu] at h
    cases h; exact hq

/-! ## What stays the same -/

/-- All of the machine that a scalar instruction has nothing to do with. -/
def State.SameElse (s u : State) : Prop := u.cur = s.cur ∧ u.mem = s.mem ∧ ∀ c, c ≠ s.cur → u.thread c = s.thread c

theorem State.SameElse.refl (s : State) : s.SameElse s := ⟨rfl, rfl, fun _ _ => rfl⟩

theorem State.SameElse.setT {s u : State} (h : s.SameElse u) (x : Thread) : s.SameElse (u.setT x) := by
  obtain ⟨hc, hm, ht⟩ := h
  exact ⟨hc, hm, fun c hn => by rw [State.thread_setT_other _ _ (by rw [hc]; exact hn), ht c hn]⟩

theorem State.SameElse.setCore {s u : State} (h : s.SameElse u) (k : Nat) (x : Core) : s.SameElse (u.setCore k x) := h

theorem State.SameElse.advance {s u : State} (h : s.SameElse u) : s.SameElse u.advance := h.setT _

theorem State.SameElse.setW {s u : State} (h : s.SameElse u) (a : BitVec 6) (v : Word) : s.SameElse (u.setW a v) := h.setT _

/-- All of a context but window register `a`, the PC and the cycles of readiness. -/
structure Thread.SameButW (a : Nat) (t u : Thread) : Prop where
  w : ∀ n, n < 64 → n ≠ a → u.w n = t.w n
  pw : u.pw = t.pw
  n : u.win.n = t.win.n
  fb : u.win.fb = t.win.fb
  units : u.win.units = t.win.units
  vec : u.vec = t.vec
  q : u.q = t.q
  sys : u.sys = t.sys

theorem Thread.SameButW.refl (a : Nat) (t : Thread) : t.SameButW a t := ⟨fun _ _ _ => rfl, rfl, rfl, rfl, rfl, rfl, rfl, rfl⟩

theorem Thread.SameButW.setW {a : Nat} (t : Thread) (ha : a < 64) (v : Word) : t.SameButW a (t.setW a v) :=
  ⟨fun _ hn h => Thread.w_setW_other t v ha hn h, rfl, rfl, rfl, rfl, rfl, rfl, rfl⟩

/-- The PC and the cycles of readiness do not count. -/
theorem Thread.SameButW.move {a : Nat} {t u : Thread} (h : t.SameButW a u) (pc : Word) (rdy : List (Nat × Nat)) :
    t.SameButW a { u with pc := pc, rdy := rdy } := ⟨h.w, h.pw, h.n, h.fb, h.units, h.vec, h.q, h.sys⟩

/-! ## Instructions that write one register -/

/-- What an instruction that writes W[a] leaves: the frame, and the PC past the chain. -/
def FrameW (f : Fld) (s u : State) : Prop := s.SameElse u ∧ s.t.SameButW f.a.toNat u.t ∧ u.t.pc = s.ir.next

/-- The start of an instruction's effect in the plain case. -/
theorem t_start (s : State) : (s.setT s.t).t = s.t := s.t_setT _

section
variable {f : Fld} {s : State}

theorem FrameW.nothing : FrameW f s (s.setT s.t).advance := by
  refine ⟨((State.SameElse.refl s).setT _).advance, ?_, State.advance_pc _⟩
  rw [State.t_advance, t_start]
  exact (Thread.SameButW.refl _ _).move _ _

theorem FrameW.result (v : Word) : FrameW f s ((s.setT s.t).result f v) := by
  refine ⟨(((State.SameElse.refl s).setT _).setW _ _).advance, ?_, State.advance_pc _⟩
  rw [State.result, State.t_advance, State.setW, State.t_setT, t_start]
  exact (Thread.SameButW.setW _ f.a.isLt v).move _ _

theorem FrameW.lateResult (n : Nat) (v : Word) : FrameW f s ((s.setT s.t).lateResult f n v) := by
  refine ⟨((((State.SameElse.refl s).setT _).setW _ _).setT _).advance, ?_, State.advance_pc _⟩
  rw [State.lateResult, State.t_advance, State.t_setT, State.setW, State.t_setT, t_start]
  exact (Thread.SameButW.setW _ f.a.isLt v).move _ _

theorem FrameW.holdDivider {u : State} (h : FrameW f s u) : FrameW f s u.holdDivider := h

end

/-! ## Compares -/

/-- What a compare leaves: all but predicate `p`, and the PC past the chain. -/
def FrameX (p : Nat) (s u : State) : Prop :=
  s.SameElse u ∧ (u.t.win = s.t.win ∧ (∀ n, n < 8 → n ≠ p → u.P n = s.P n) ∧ u.t.vec = s.t.vec ∧ u.t.q = s.t.q ∧ u.t.sys = s.t.sys) ∧
    u.t.pc = s.ir.next

theorem FrameX.nothing {p : Nat} {s : State} : FrameX p s (s.setT s.t).advance := by
  refine ⟨((State.SameElse.refl s).setT _).advance, ?_, State.advance_pc _⟩
  simp only [State.P, State.t_advance, t_start]
  exact ⟨trivial, fun _ _ _ => rfl, trivial, trivial, trivial⟩

theorem FrameX.setP {p : Nat} {s : State} (hp : p < 8) (b : Bool) : FrameX p s ((s.setT s.t).setP p b).advance := by
  refine ⟨(((State.SameElse.refl s).setT _).setT _).advance, ?_, State.advance_pc _⟩
  simp only [State.P, State.t_advance, State.setP, State.t_setT]
  exact ⟨s.t.setP_win p b, fun n _ h => s.t.p_setP_ne b hp h, s.t.setP_vec p b, s.t.setP_q p b, s.t.setP_sys p b⟩

theorem destP_lt (x : BitVec 3) : destP x < 8 := by
  unfold destP
  split
  · decide
  · exact x.isLt

theorem mem_two {α : Type} {a b c : α} : a ∈ [b, c] ↔ a = b ∨ a = c := by simp only [List.mem_cons, List.not_mem_nil, or_false]

/-! ## The obligation -/

section
variable {f : Fld} {s t : State} (hh : s.t.hold = none) (hs : s.speculative s.cur = false) (ha : f.a.toNat < s.t.win.n)
  (hb : f.b.toNat < s.t.win.n)
include hh hs ha hb

/-- An instruction of the scalar kinds keeps the frame where its body does. -/
theorem FrameW.of_issue {k : Kind} {body : State → Res} (h : issue k f s body = .next t) (hm : k.mode = 0)
    (hn : k.names ⊆ [f.a, f.b]) (run : ∃ u, body (s.setT s.t) = .ok u ∧ FrameW f s u) : FrameW f s t :=
  issue_plain hm hh hs (fun a h => by rcases mem_two.1 (hn h) with rfl | rfl <;> assumption) h .nothing run

theorem FrameX.of_issue {p : Nat} {k : Kind} {body : State → Res} (h : issue k f s body = .next t) (hm : k.mode = 0)
    (hn : k.names ⊆ [f.a, f.b]) (run : ∃ u, body (s.setT s.t) = .ok u ∧ FrameX p s u) : FrameX p s t :=
  issue_plain hm hh hs (fun a h => by rcases mem_two.1 (hn h) with rfl | rfl <;> assumption) h .nothing run

/-- The instructions that write W[a] keep its frame. -/
theorem FrameW.of_exec {i : Instr} (h : exec i s = .next t)
    (hi : i ∈ [Instr.add f, .sub f, .and f, .or f, .xor f, .shl f, .shr f, .sra f, .mul f, .mulh f, .mulhu f, .div f, .divu f, .rem f, .remu f,
      .min f, .max f, .minu f, .maxu f, .mov f, .clz f, .ctz f, .popc f, .brev f, .sextb f, .sexth f, .sextw f, .zextb f, .zexth f,
      .zextw f, .abs f, .neg f, .addi f, .li f, .shli f, .shri f, .srai f, .andi f, .ori f, .xori f, .muli f, .prdw f, .cmov f, .lpc f,
      .gtime f, .tid f]) : FrameW f s t := by
  have pair : [f.a, f.b] ⊆ [f.a, f.b] := List.Subset.refl _
  have one : [f.a] ⊆ [f.a, f.b] := by simp
  simp only [List.mem_cons, List.not_mem_nil, or_false] at hi
  rcases hi with rfl | rfl | rfl | rfl | rfl | rfl | rfl | rfl | rfl | rfl | rfl | rfl | rfl | rfl | rfl | rfl | rfl | rfl | rfl | rfl |
    rfl | rfl | rfl | rfl | rfl | rfl | rfl | rfl | rfl | rfl | rfl | rfl | rfl | rfl | rfl | rfl | rfl | rfl | rfl | rfl | rfl | rfl |
    rfl | rfl | rfl | rfl
  -- ADD to SRA
  iterate 8 exact FrameW.of_issue hh hs ha hb h rfl pair ⟨_, rfl, .result _⟩
  -- MUL, MULH, MULHU
  iterate 3 exact FrameW.of_issue hh hs ha hb h rfl pair ⟨_, rfl, .lateResult _ _⟩
  -- DIV, DIVU, REM, REMU
  iterate 4 exact FrameW.of_issue hh hs ha hb h rfl pair ⟨_, rfl, (FrameW.lateResult _ _).holdDivider⟩
  -- MIN to NEG
  iterate 17 exact FrameW.of_issue hh hs ha hb h rfl pair ⟨_, rfl, .result _⟩
  -- ADDI to XORI
  iterate 8 exact FrameW.of_issue hh hs ha hb h rfl one ⟨_, rfl, .result _⟩
  -- MULI
  · exact FrameW.of_issue hh hs ha hb h rfl one ⟨_, rfl, .lateResult _ _⟩
  -- PRDW
  · exact FrameW.of_issue hh hs ha hb h rfl one ⟨_, rfl, .result _⟩
  -- CMOV
  · refine FrameW.of_issue hh hs ha hb h rfl pair ⟨_, rfl, ?_⟩
    split
    · exact .result _
    · exact .nothing
  -- LPC, GTIME, TID
  iterate 3 exact FrameW.of_issue hh hs ha hb h rfl one ⟨_, rfl, .result _⟩

/-- The compares keep all but the predicate that x names. -/
theorem FrameX.of_exec {i : Instr} (h : exec i s = .next t)
    (hi : i ∈ [Instr.eq f, .ne f, .lt f, .ge f, .ltu f, .geu f, .tst f, .tstn f, .eqi f, .nei f, .lti f, .gei f, .ltui f, .geui f]) :
    FrameX (destP f.x) s t := by
  have pair : [f.a, f.b] ⊆ [f.a, f.b] := List.Subset.refl _
  have one : [f.a] ⊆ [f.a, f.b] := by simp
  simp only [List.mem_cons, List.not_mem_nil, or_false] at hi
  rcases hi with rfl | rfl | rfl | rfl | rfl | rfl | rfl | rfl | rfl | rfl | rfl | rfl | rfl | rfl
  iterate 8 exact FrameX.of_issue hh hs ha hb h rfl pair ⟨_, rfl, .setP (destP_lt _) _⟩
  iterate 6 exact FrameX.of_issue hh hs ha hb h rfl one ⟨_, rfl, .setP (destP_lt _) _⟩

end

/-- Settles O60, from the frames of the two shapes. -/
theorem scalarFrame : Obligations.ScalarFrame := by
  unfold Obligations.ScalarFrame
  refine fun s t f i hh hs hn ha hb h => ⟨fun hi => ?w, fun hi => ?x⟩
  case w =>
    obtain ⟨⟨-, hm, ho⟩, k, hp⟩ := FrameW.of_exec hh hs ha hb h hi
    exact ⟨fun n h1 h2 => k.w n (by omega) h2, k.pw, k.n, k.fb, k.units, k.vec, k.q, k.sys, hp, hm, ho⟩
  case x =>
    obtain ⟨⟨-, hm, ho⟩, ⟨hw, hP, hv, hq, hy⟩, hp⟩ := FrameX.of_exec hh hs ha hb h hi
    exact ⟨hw, hP, hv, hq, hy, hp, hm, ho⟩

end Sys2Proof.Machine

/-! # The values of reset (R53, R59, R60, R109 to R118, R246 to R260, R400, R424, R433) -/

namespace Sys2Proof.Machine

/-- A slot's registers read 0 at reset. -/
theorem qschReg_reset (e o : Nat) (h1 : 0x100 ≤ o) (h2 : o < 0x1100) : State.reset.qschReg e o = 0 := by
  have hs (n : Nat) : State.reset.slot n = {} := rfl
  obtain ⟨k, hk⟩ : ∃ k, o / 8 = k + 9 := ⟨o / 8 - 9, by omega⟩
  simp only [State.qschReg, hk, hs, if_pos (show 0x100 ≤ o ∧ o < 0x1100 from ⟨h1, h2⟩)]
  split <;> rfl

theorem pmigReg_reset (e o : Nat) : State.reset.regAt (.pmig e) o = 0 := by
  have hp : State.reset.pmig e = {} := rfl
  simp only [State.regAt, hp]
  split <;> rfl

/-- The steward records are clear at reset. -/
theorem kctlReg_reset (o : Nat) (h1 : 0x100 ≤ o) (h2 : o < 0x2100) : State.reset.regAt .kctl o = 0 := by
  have hr (k : Nat) : (mget {} State.reset.srec k : SRec) = {} := rfl
  simp only [State.regAt, State.kctlReg, hr, if_neg (show ¬ o = 0 by omega), if_neg (show ¬ o = 0x18 by omega),
    if_pos (show 0x100 ≤ o ∧ o < 0x2100 from ⟨h1, h2⟩)]
  split <;> rfl

/-- The delays of a channel's lanes stand at 0x20. -/
theorem hphyDelay_reset (k c l : Nat) (hl : l < 34) : State.reset.regAt (.hphy k) (0x400 * c + 8 * l) = 0x20 ∧
    State.reset.regAt (.hphy k) (0x400 * c + 0x110 + 8 * l) = 0x20 := by
  have hp (a b : Nat) : State.reset.phy a b = {} := rfl
  have e1 : (0x400 * c + 8 * l) % 0x400 = 8 * l := by omega
  have e2 : (0x400 * c + 0x110 + 8 * l) % 0x400 = 0x110 + 8 * l := by omega
  constructor
  · simp only [State.regAt, hp, e1, Phy.reg, if_pos (show 8 * l < 0x110 by omega)]; rfl
  · simp only [State.regAt, hp, e2, Phy.reg, if_neg (show ¬ 0x110 + 8 * l < 0x110 by omega),
      if_pos (show 0x110 + 8 * l < 0x220 by omega)]; rfl

theorem hphyReg_reset (k c o : Nat) (h1 : 0x220 ≤ o) (h2 : o < 0x400) : State.reset.regAt (.hphy k) (0x400 * c + o) = 0 := by
  have hp (a b : Nat) : State.reset.phy a b = {} := rfl
  have e : (0x400 * c + o) % 0x400 = o := by omega
  simp only [State.regAt, hp, e, Phy.reg, if_neg (show ¬ o < 0x110 by omega), if_neg (show ¬ o < 0x220 by omega)]
  repeat' split
  all_goals rfl

/-- The matrices of the address map are the identity at reset. -/
theorem amapRow_reset : ∀ i < 34, State.reset.regAt .amap (0x200 + 8 * i) = 2 ^ i ∧ State.reset.regAt .amap (0x2200 + 8 * i) = 2 ^ i := by
  decide +kernel

theorem amapMid_reset : ∀ n < 8, 1 ≤ n → State.reset.regAt .amap (8 + 8 * n) = 0 := by decide +kernel

/-- Settles O57: each register's value, and the contexts, which reset leaves empty. -/
theorem resetValues : Obligations.ResetValues := by
  unfold Obligations.ResetValues
  have thread (c : Nat) : State.reset.thread c = {} := rfl
  refine ⟨State.reset_mem_wf, rfl, fun c => by rw [thread], rfl, rfl, rfl, rfl, rfl, rfl, rfl, rfl, by decide +kernel,
    fun o h1 h2 _ => qschReg_reset 0 o h1 h2, rfl, by decide +kernel, fun n h1 h2 => amapMid_reset n h2 h1, amapRow_reset,
    fun e o _ _ => pmigReg_reset e o, rfl, rfl, fun o h1 h2 _ => kctlReg_reset o h1 h2, rfl, rfl, rfl, rfl, rfl, fun k => ?elog,
    fun k => ?rmap, fun k c l _ hl => hphyDelay_reset k c l hl, fun k c _ => ?hphy, by decide +kernel, fun c => ?thread⟩
  case elog =>
    have log : State.reset.elog k = {} := rfl
    simp only [State.regAt, log]
    decide +kernel
  case rmap =>
    have map : State.reset.rmap k = {} := rfl
    simp only [State.regAt, map]
    decide +kernel
  case hphy =>
    refine ⟨hphyReg_reset k c 0x230 ?_ ?_, hphyReg_reset k c 0x238 ?_ ?_, hphyReg_reset k c 0x240 ?_ ?_, hphyReg_reset k c 0x248 ?_ ?_⟩ <;>
      decide
  case thread => rw [thread]; decide +kernel

end Sys2Proof.Machine

/-! # Memory instructions at their issue (R216 to R241, R377) -/

namespace Sys2Proof.Machine

/-! ## What a body goes on through -/

theorem State.afterRelease_free {s : State} {rel : Bool} (h : rel = true → s.released s.cur = true) (k : State → Res) :
    s.afterRelease rel k = k s := by
  cases rel
  · simp [State.afterRelease]
  · simp [State.afterRelease, h rfl]

theorem State.afterDrain_empty {s : State} (h : s.t.spec.sb = []) (k : State → Res) : s.afterDrain k = k s := by
  simp [State.afterDrain, h]

theorem orStop_ok {α : Type} {x : Except Stop α} {a : α} (h : x = .ok a) (k : α → Res) : orStop x k = k a := by rw [h]; rfl

theorem State.load_ok {s : State} {f : Fld} {va : Word} {size ord : Nat} {l : Loc} (sx : Bool) (win : Win)
    (hc : s.check va size { r := true } 0 = .ok l) (hr : ord = 3 → s.released s.cur = true) :
    s.load f va size ord sx win =
      .ok (s.startPend { s.mkPend 1 ord l va size f win with sx := sx, d := f.d.toNat, acq := ord != 0 }) := by
  rw [State.load, State.afterRelease_free (by simpa using hr), orStop_ok hc]

theorem extOrd_lt (f : Fld) : extOrd f < 4 := Nat.mod_lt _ (by decide)

theorem State.store_path {s : State} {f : Fld} {va : Word} {size ord : Nat} {l : Loc} (v : Nat) (win : Win)
    (hs : s.speculative s.cur = false) (hb : s.t.spec.sb = []) (hc : s.check va size { w := true } 1 = .ok l) (ho : ord < 3)
    (hr : ord = 2 → s.released s.cur = true) :
    s.store f va size ord v win = .ok (s.pushStore l size v (temporal f) false (pathOf s.cur va l)).advance := by
  rw [State.store, State.afterRelease_free (fun h => hr (by have := of_decide_eq_true h; omega)), orStop_ok hc]
  simp [hs, hb, show ord ≠ 3 by omega]

theorem State.store_buffered {s : State} {f : Fld} {va : Word} {size : Nat} {l : Loc} (v : Nat) (win : Win)
    (hs : s.speculative s.cur = true) (hb : s.t.spec.sb.length < 64) (hc : s.check va size { w := true } 1 = .ok l) :
    s.store f va size 0 v win = .ok (s.bufStore s.cur { loc := l, va := va, size := size, v := v, cls := temporal f }).advance := by
  rw [State.store, State.afterRelease_free (by simp), orStop_ok hc]
  simp [hs, Nat.not_le.2 hb]

/-- Settles O10: each body is a load, whose checks pass. -/
theorem loadIssueCompletes : Obligations.LoadIssueCompletes := by
  unfold Obligations.LoadIssueCompletes
  intro f s s1 l
  exact ⟨fun h hc => issue_ok h (State.load_ok _ _ hc (by simp)), fun h hc hr => issue_ok h (State.load_ok _ _ hc hr),
    fun h hc hr => issue_ok h (State.load_ok _ _ hc hr)⟩

/-- Settles O12: each body is a store, whose checks pass. -/
theorem storeIssueCompletes : Obligations.StoreIssueCompletes := by
  unfold Obligations.StoreIssueCompletes
  intro f s s1 l
  have lt (h : extOrd f ≠ 3) : extOrd f < 3 := by have := extOrd_lt f; omega
  exact ⟨fun hs hb => ⟨fun h hc => issue_ok h (State.store_path _ _ hs hb hc (by decide) (by simp)),
    fun h hc h3 hr => issue_ok h (State.store_path _ _ hs hb hc (lt h3) hr),
    fun h hc h3 hr => issue_ok h (State.store_path _ _ hs hb hc (lt h3) hr)⟩,
    fun h hs hb hc => issue_ok h (State.store_buffered _ _ hs hb hc)⟩

/-! ## Atomics -/

theorem amo_issues {fn : Nat} {f : Fld} {s s1 : State} {l : Loc} (hb : s1.t.spec.sb = [])
    (h : Opens { irrev := true, names := if fn = 9 then [f.a, f.b, f.b + 1] else [f.a, f.b] } f s s1)
    (hr : 2 ≤ extOrd f → s1.released s1.cur = true) (hc : s1.checkAmo fn (extSize f) (s1.W f.a) = .ok l) :
    amo fn f s = .next ((s1.storeDrop s1.cur l).startPend
      { (s1.storeDrop s1.cur l).mkPend 3 fn l (s1.W f.a) (extSize f) f s.t.win with
        sx := extSx f, d := f.b.toNat, acq := extOrd f % 2 == 1, opnd := s1.W f.b, new := s1.Wn f.b 1 }) := by
  refine issue_ok h ?_
  rw [State.afterRelease_free (by simpa using hr), State.afterDrain_empty hb, orStop_ok hc]

theorem vamo_issues {fn k : Nat} {f : Fld} {s s1 : State} {l : Loc} (hb : s1.t.spec.sb = [])
    (h : Opens { irrev := true, names := [f.a] } f s s1) (hv : s1.t.vec.seq = []) (hu : s1.t.vec.under s1.gtime = 0)
    (hr : 2 ≤ extOrd f → s1.released s1.cur = true) (hk : vamoLane s1.t.sys.tamask 4 0 = some k)
    (hc : s1.checkAmo fn (extSize f) (s1.W f.a + sextW (BitVec.ofNat 64 (lane 32 (s1.t.vr f.b.toNat) k)) 32) = .ok l) :
    vamo fn f s = .next ((s1.storeDrop s1.cur l).startPend
      { s1.mkPend 4 fn l (s1.W f.a + sextW (BitVec.ofNat 64 (lane 32 (s1.t.vr f.b.toNat) k)) 32) (extSize f) f s.t.win with
        sx := extSx f, d := f.b.toNat, acq := extOrd f % 2 == 1, rh := s1.W f.a, lane := k,
        opnd := BitVec.ofNat 64 (lane 32 (s1.t.vr (f.b.toNat + 1)) k),
        new := BitVec.ofNat 64 (lane 32 (s1.t.vr (f.b.toNat + 2)) k) }) := by
  refine issue_ok h ?_
  rw [State.afterVec_idle (by simp [hv]) hu, State.afterRelease_free (by simpa using hr), State.afterDrain_empty hb, State.vamoNext]
  simp only [hk, State.mkPend, hc]

/-- Settles O15: every atomic's body is the shared one. -/
theorem atomicIssueCompletes : Obligations.AtomicIssueCompletes := by
  unfold Obligations.AtomicIssueCompletes
  intro f s s1 l hb
  refine ⟨fun h hr hc ho => issue_ok h ?arsv, fun i fn hi h hr hc => ?amo, fun i fn k hi h hv hu hr hk hc => ?vamo⟩
  case arsv =>
    rw [State.afterRelease_free (by simpa using hr), State.afterDrain_empty hb, orStop_ok hc, ho]
    rfl
  case amo =>
    have e := amo_issues hb h hr hc
    simp only [List.mem_cons, Prod.mk.injEq, List.not_mem_nil, or_false] at hi
    rcases hi with ⟨rfl, rfl⟩ | ⟨rfl, rfl⟩ | ⟨rfl, rfl⟩ | ⟨rfl, rfl⟩ | ⟨rfl, rfl⟩ | ⟨rfl, rfl⟩ | ⟨rfl, rfl⟩ | ⟨rfl, rfl⟩ | ⟨rfl, rfl⟩ |
      ⟨rfl, rfl⟩ | ⟨rfl, rfl⟩ | ⟨rfl, rfl⟩
    all_goals exact e
  case vamo =>
    have e := vamo_issues hb h hv hu hr hk hc
    simp only [List.mem_cons, Prod.mk.injEq, List.not_mem_nil, or_false] at hi
    rcases hi with ⟨rfl, rfl⟩ | ⟨rfl, rfl⟩ | ⟨rfl, rfl⟩ | ⟨rfl, rfl⟩ | ⟨rfl, rfl⟩ | ⟨rfl, rfl⟩ | ⟨rfl, rfl⟩ | ⟨rfl, rfl⟩ | ⟨rfl, rfl⟩ |
      ⟨rfl, rfl⟩ | ⟨rfl, rfl⟩ | ⟨rfl, rfl⟩
    all_goals exact e

/-! ## Fences -/

theorem State.loopDone_eq {s : State} (h0 : s.ownIn s.cur 0 = false) (h1 : s.ownIn s.cur 1 = false) (hb : s.t.spec.sb = [])
    (hv : s.t.vmemPending = false) : s.loopDone = true := by simp [State.loopDone, h0, h1, hb, hv]

theorem wideFence_ok {f : Fld} {s s1 : State} (h : Opens { irrev := true } f s s1) (hr : s1.released s1.cur = true) :
    wideFence f s = .next (s1.acquire s1.cur).advance := issue_ok h (State.afterRelease_free (fun _ => hr) _)

/-- Settles O17: the wide fences share one body; the others wait for the paths of the core. -/
theorem fenceCompletes : Obligations.FenceCompletes := by
  unfold Obligations.FenceCompletes
  intro f
  refine ⟨fun i hi s s1 h hr => ?wide, fun i hi s s1 h ⟨h0, h1, hb, hv⟩ => ?core, fun s s1 h => issue_ok h rfl⟩
  case wide =>
    have e := wideFence_ok h hr
    simp only [List.mem_cons, List.not_mem_nil, or_false] at hi
    rcases hi with rfl | rfl | rfl | rfl
    all_goals exact e
  case core =>
    have e : (if s1.loopDone then Res.ok s1.advance else .stop .wait none) = .ok s1.advance :=
      if_pos (State.loopDone_eq h0 h1 hb hv)
    simp only [List.mem_cons, List.not_mem_nil, or_false] at hi
    rcases hi with rfl | rfl
    all_goals exact issue_ok h e

/-! ## Cache control -/

/-- Settles O18: the address is translated, and the unit that holds the line is free. -/
theorem cacheControlCompletes : Obligations.CacheControlCompletes := by
  unfold Obligations.CacheControlCompletes
  intro f
  refine ⟨fun s s1 h hp => issue_ok h ?none, fun s s1 s2 pa h hp ht hs hr hl => issue_ok h ?pref,
    fun s s1 pa h hp ho hv hb => issue_ok h ?cwb, fun s s1 pa h hp => issue_ok h ?cinv, fun s s1 p h hp ht => issue_ok h ?pin,
    fun s s1 h hi hr => issue_ok h ?unpin, fun s s1 pa h hp => issue_ok h ?migr⟩
  case none => simp only [hp]
  case pref => simp only [hp, hr, ht, hl, hs, Bool.not_true, Bool.false_eq_true, ↓reduceIte, Bool.or_self, decide_false]
  case cwb => simp only [hp, ho, hv, hb, List.isEmpty_nil, Bool.not_true, Bool.or_self, Bool.false_eq_true, ↓reduceIte]
  case cinv => simp only [hp]
  case pin => simp only [hp, ht, Bool.false_eq_true, ↓reduceIte]; rfl
  case unpin => simp only [hi, hr, ne_eq, not_true_eq_false, ↓reduceIte]; rfl
  case migr => simp only [hp]

end Sys2Proof.Machine

/-! # What an access at a home leaves alone (R207, R211, R220)

A read or a write of DRAM touches the error state, the L2 and the pinned arrays, a write memory too; a write of any home notes the
aborts of the threads whose marks it meets. -/

namespace Sys2Proof.Machine

/-! ## DRAM -/

/-- The two states differ in the DRAM units, the L2 and the pinned arrays alone. -/
def State.DramStep (s t : State) : Prop := ∃ d l a, t = { s with dram := d, l2 := l, arrs := a }

theorem State.DramStep.refl (s : State) : s.DramStep s := ⟨s.dram, s.l2, s.arrs, rfl⟩

theorem State.DramStep.trans {s t u : State} (h : s.DramStep t) (g : t.DramStep u) : s.DramStep u := by
  obtain ⟨d, l, a, rfl⟩ := h
  obtain ⟨d', l', a', rfl⟩ := g
  exact ⟨d', l', a', rfl⟩

theorem State.DramStep.foldl {α : Type} {f : State → α → State} (h : ∀ (s : State) x, s.DramStep (f s x)) (l : List α) :
    ∀ s : State, s.DramStep (l.foldl f s) := by
  induction l with
  | nil => exact State.DramStep.refl
  | cons x l ih => exact fun s => (h s x).trans (ih _)

theorem State.DramStep.thread {s t : State} (h : s.DramStep t) (c : Nat) : t.thread c = s.thread c := by obtain ⟨d, l, a, rfl⟩ := h; rfl

theorem State.DramStep.mem {s t : State} (h : s.DramStep t) : t.mem = s.mem := by obtain ⟨d, l, a, rfl⟩ := h; rfl

theorem State.dramStep_logErr (s : State) (b : Nat) (ch : Option Nat) (t a w p : Nat) : s.DramStep (s.logErr b ch t a w p) :=
  ⟨_, s.l2, s.arrs, rfl⟩

theorem State.dramStep_logAtom (s : State) (ag : Agent) (a t addr : Nat) : s.DramStep (s.logAtom ag a t addr) :=
  State.dramStep_logErr ..

theorem State.dramStep_remapInsert (s : State) (a addr : Nat) (lost : Bool) : s.DramStep (s.remapInsert a addr lost) := by
  dsimp only [State.remapInsert]
  repeat' split
  all_goals exact ⟨_, _, _, rfl⟩

theorem State.dramStep_candidate (s : State) (a addr : Nat) : s.DramStep (s.candidate a addr) := by
  dsimp only [State.candidate]
  split
  · exact .refl s
  · split
    all_goals
      split
      · exact State.dramStep_remapInsert ..
      · exact ⟨_, s.l2, s.arrs, rfl⟩

theorem State.dramStep_readAtomAt (s : State) (ag : Agent) (a addr : Nat) : s.DramStep (s.readAtomAt ag a addr).1 := by
  dsimp only [State.readAtomAt]
  split
  · exact .refl s
  · exact (State.dramStep_logAtom ..).trans (State.dramStep_candidate ..)
  · dsimp only
    split
    · exact State.dramStep_logAtom ..
    · exact (State.dramStep_logAtom ..).trans (State.dramStep_remapInsert ..)
  · exact State.dramStep_logAtom ..

theorem State.dramStep_readAtoms (ag : Agent) (pa k : Nat) : ∀ (n lo : Nat) (s : State), s.DramStep (State.readAtoms ag pa k n lo s).1
  | 0, _, s => .refl s
  | n + 1, _, s => (State.dramStep_readAtomAt s ag _ _).trans (State.dramStep_readAtoms ag pa k n _ _)

theorem State.dramStep_arrHit (s : State) (pa : Nat) : s.DramStep (s.arrHit pa) := by
  dsimp only [State.arrHit]
  split
  · exact ⟨s.dram, s.l2, _, rfl⟩
  · exact .refl s

theorem State.dramStep_l2Mark (s : State) (pa v d : Nat) : s.DramStep (s.l2Mark pa v d) := ⟨s.dram, _, s.arrs, rfl⟩

theorem State.dramStep_l2Install (s : State) (pa cls v d : Nat) : s.DramStep (s.l2Install pa cls v d) := by
  dsimp only [State.l2Install]
  repeat' split
  all_goals exact ⟨_, _, _, rfl⟩

theorem State.dramStep_l2ReadSector (s : State) (ag : Agent) (pa n cls : Nat) (count : Bool) :
    s.DramStep (s.l2ReadSector ag pa n cls count).1 := by
  dsimp only [State.l2ReadSector]
  have h1 : s.DramStep (if count && (s.l2Find pa).isSome then s.arrHit pa else s) := by
    split
    · exact State.dramStep_arrHit ..
    · exact .refl s
  generalize (if count && (s.l2Find pa).isSome then s.arrHit pa else s) = s1 at h1 ⊢
  have h2 := h1.trans (State.dramStep_readAtoms ag pa n 8 (pa / 256 * 256) s1)
  split
  · exact h1.trans (State.dramStep_l2Mark ..)
  · split
    · exact h2
    · split
      · exact h2.trans (State.dramStep_l2Mark ..)
      · exact h2.trans (State.dramStep_l2Install ..)

theorem State.dramStep_l2Read (ag : Agent) (cls : Nat) (count : Bool) : ∀ (ps : List (Nat × Nat)) (s : State),
    s.DramStep (State.l2Read ag cls count ps s).1
  | [], s => .refl s
  | p :: ps, s => (State.dramStep_l2ReadSector s ag p.1 p.2 cls count).trans (State.dramStep_l2Read ag cls count ps _)

/-- A read at a home touches the DRAM units, the L2 and the pinned arrays alone. -/
theorem State.dramStep_homeRead (s : State) (ag : Agent) (l : Loc) (n cls : Nat) : s.DramStep (s.homeRead ag l n cls).1 := by
  dsimp only [State.homeRead]
  split
  · split
    · exact State.dramStep_l2Read ..
    · exact .refl s
  · exact .refl s

theorem State.dramStep_storeAtom (s : State) (ag : Agent) (a addr : Nat) (whole held : Bool) :
    s.DramStep (s.storeAtom ag a addr whole held) := by
  dsimp only [State.storeAtom]
  split
  · exact State.dramStep_logAtom ..
  · split
    · split
      · exact ⟨_, s.l2, s.arrs, rfl⟩
      · exact ⟨_, s.l2, s.arrs, rfl⟩
    · split
      · exact .refl s
      · exact State.dramStep_readAtomAt ..

theorem State.dramStep_writeAtoms (ag : Agent) (pa n : Nat) : ∀ (k lo : Nat) (s : State), s.DramStep (State.writeAtoms ag pa n k lo s)
  | 0, _, s => .refl s
  | k + 1, _, s => (State.dramStep_storeAtom s ..).trans (State.dramStep_writeAtoms ag pa n k _ _)

theorem State.dramStep_noteDirty (s : State) (pa n : Nat) : s.DramStep (s.noteDirty pa n) := by
  dsimp only [State.noteDirty]
  repeat' split
  all_goals exact ⟨_, s.l2, s.arrs, rfl⟩

theorem State.dramStep_l2WriteSector (s : State) (pa cls : Nat) (count : Bool) : s.DramStep (s.l2WriteSector pa cls count) := by
  dsimp only [State.l2WriteSector]
  split
  · split
    · exact (State.dramStep_arrHit ..).trans (State.dramStep_l2Mark ..)
    · exact State.dramStep_l2Mark ..
  · split
    · exact .refl s
    · exact State.dramStep_l2Install ..

/-- A write of DRAM changes memory under the keys that are kept, and the units that a read touches. -/
theorem State.dramWrite_eq (s : State) (ag : Agent) (pa : Nat) (bs : List Byte) (cls : Nat) (count : Bool) :
    ∃ d l a, s.dramWrite ag pa bs cls count = { s with
      mem := memWrite s.mem ((s.keepBytes pa bs).map Prod.fst) ((s.keepBytes pa bs).map Prod.snd), dram := d, l2 := l, arrs := a } := by
  have h := (State.dramStep_noteDirty s pa bs.length).trans (State.dramStep_writeAtoms { ag with code := 6 } pa bs.length
    ((pa % 32 + bs.length + 31) / 32) (pa / 32 * 32) _)
  have g := State.DramStep.foldl (fun (a : State) (p : Nat × Nat) => State.dramStep_l2WriteSector a p.1 cls count) (sectorPieces 9 pa bs.length)
  dsimp only [State.dramWrite]
  generalize State.writeAtoms { ag with code := 6 } pa bs.length _ _ _ = s1 at h ⊢
  obtain ⟨d, l, a, rfl⟩ := h
  obtain ⟨d', l', a', h'⟩ := g { s with
    mem := memWrite s.mem ((s.keepBytes pa bs).map Prod.fst) ((s.keepBytes pa bs).map Prod.snd), dram := d, l2 := l, arrs := a }
  exact ⟨d', l', a', h'⟩

/-! ## Homes -/

theorem State.conflict_eq (s : State) (w : Writer) (l : Loc) (n : Nat) : ∃ t, s.conflict w l n = { s with thr := t } := by
  have h : ∀ (ms : List Mark) (a : State), (∃ t, a = { s with thr := t }) →
      ∃ t, ms.foldl (fun (a : State) m => a.noteAbort m.c) a = { s with thr := t } := by
    intro ms
    induction ms with
    | nil => exact fun a h => h
    | cons m ms ih =>
      rintro a ⟨t, rfl⟩
      exact ih _ ⟨_, rfl⟩
  exact h _ s ⟨s.thr, rfl⟩

/-- Two threads that differ at most in the note of an abort. -/
def Thread.AbortNoted (t u : Thread) : Prop := ∃ b, u = { t with spec := { t.spec with abort := b } }

theorem Thread.AbortNoted.refl (t : Thread) : t.AbortNoted t := ⟨t.spec.abort, rfl⟩

theorem Thread.AbortNoted.pend {t u : Thread} (h : t.AbortNoted u) : u.pend = t.pend := by obtain ⟨b, rfl⟩ := h; rfl

theorem Thread.AbortNoted.noteAbort {t : Thread} {s : State} {c : Nat} (h : t.AbortNoted (s.thread c)) (c' : Nat) :
    t.AbortNoted ((s.noteAbort c').thread c) := by
  dsimp only [State.noteAbort]
  by_cases hm : c = c'
  · obtain ⟨b, hb⟩ := h
    exact ⟨true, by rw [← hm, State.thread_setThread_same, hb]⟩
  · rw [State.thread_setThread_other _ _ hm]
    exact h

/-- A conflict notes aborts and leaves the threads as they are otherwise. -/
theorem State.conflict_thread (s : State) (w : Writer) (l : Loc) (n c : Nat) : (s.thread c).AbortNoted ((s.conflict w l n).thread c) := by
  have h : ∀ (ms : List Mark) (a : State), (s.thread c).AbortNoted (a.thread c) →
      (s.thread c).AbortNoted ((ms.foldl (fun (a : State) m => a.noteAbort m.c) a).thread c) := by
    intro ms
    induction ms with
    | nil => exact fun a h => h
    | cons m ms ih =>
      exact fun a ha => ih _ (ha.noteAbort m.c)
  exact h _ s (.refl _)

/-- A write at a home: what it changes, with the units that a write of DRAM touches. -/
theorem State.homeWrite_eq (s : State) (w : Writer) (l : Loc) (bs : List Byte) (cls : Nat) :
    ∃ m d l2 a ts g, s.homeWrite w l bs cls =
      { s.conflict w l bs.length with mem := m, dram := d, l2 := l2, arrs := a, wts := ts, agenda := g } := by
  dsimp only [State.homeWrite]
  split
  · rename_i pa
    split
    · obtain ⟨d, l2, a, h⟩ := State.dramWrite_eq ((s.conflict w (.phys pa) bs.length).passLeases pa) { code := w.code, c := w.c } pa bs cls
        w.request
      rw [h]
      dsimp only [State.passLeases]
      split
      all_goals exact ⟨_, _, _, _, _, _, rfl⟩
    · split
      all_goals exact ⟨_, _, _, _, _, _, rfl⟩
  · exact ⟨_, _, _, _, _, _, rfl⟩

theorem State.homeWrite_thread (s : State) (w : Writer) (l : Loc) (bs : List Byte) (cls c : Nat) :
    (s.thread c).AbortNoted ((s.homeWrite w l bs cls).thread c) := by
  obtain ⟨m, d, l2, a, ts, g, h⟩ := s.homeWrite_eq w l bs cls
  rw [h]
  exact s.conflict_thread w l bs.length c

/-! ## The bytes that a write leaves -/

theorem State.keepBytes_keys (s : State) (pa : Nat) (bs : List Byte) : ∀ k ∈ (s.keepBytes pa bs).map Prod.fst, k ∈ s.keys (.phys pa) bs.length := by
  intro k hk
  obtain ⟨⟨k', b⟩, hp, rfl⟩ := List.mem_map.1 hk
  obtain ⟨⟨i, b'⟩, hi, he⟩ := List.mem_filterMap.1 hp
  have hl := (List.of_mem_zip hi).1
  dsimp only at he
  split at he
  · cases he
  · cases he
    exact List.mem_map.2 ⟨i, hl, rfl⟩

/-- A write at a home leaves the bytes outside its range. -/
theorem State.homeWrite_mem_other (s : State) (w : Writer) (l : Loc) (bs : List Byte) (cls : Nat) {key : Nat}
    (h : key ∉ s.keys l bs.length) : memGet (s.homeWrite w l bs cls).mem key = memGet s.mem key := by
  obtain ⟨ts, hc⟩ := s.conflict_eq w l bs.length
  dsimp only [State.homeWrite]
  rw [hc]
  split
  · rename_i pa
    split
    · obtain ⟨d, l2, a, hd⟩ := State.dramWrite_eq (({ s with thr := ts } : State).passLeases pa) { code := w.code, c := w.c } pa bs cls w.request
      have hk : (({ s with thr := ts } : State).passLeases pa).keepBytes pa bs = s.keepBytes pa bs := by
        dsimp only [State.passLeases]
        split <;> rfl
      rw [hd, hk, State.passLeases_mem]
      exact memGet_memWrite_other _ _ _ fun hm => h (s.keepBytes_keys pa bs _ hm)
    · split
      · rfl
      · exact memGet_memWrite_other _ _ _ h
  · exact memGet_memWrite_other _ _ _ h

theorem memGet_memWrite_at : ∀ (ks : List Nat) (m : List Host.Cell) (bs : List Byte) (i : Nat) (b : Byte), ks.Nodup → bs.length = ks.length →
    bs[i]? = some b → ∀ k, ks[i]? = some k → memGet (memWrite m ks bs) k = b
  | [], _, _, _, _, _, _, _, k, hk => by simp at hk
  | k0 :: ks, m, [], i, b, _, hl, _, k, hk => by simp at hl
  | k0 :: ks, m, b0 :: bs, 0, b, hn, hl, hb, k, hk => by
    cases hb; cases hk
    rw [memWrite, memGet_memWrite_other _ _ _ (List.nodup_cons.1 hn).1, memGet_memSet_same]
  | k0 :: ks, m, b0 :: bs, i + 1, b, hn, hl, hb, k, hk =>
    memGet_memWrite_at ks _ bs i b (List.nodup_cons.1 hn).2 (by simpa using hl) hb k hk

theorem leBytes_getElem? (n v i : Nat) (h : i < n) : (leBytes n v)[i]? = some (BitVec.ofNat 8 (v / 256 ^ i)) := by
  rw [leBytes, List.getElem?_map, List.getElem?_range h]; rfl

theorem State.keys_getElem? (s : State) (l : Loc) (n i : Nat) (h : i < n) : (s.keys l n)[i]? = some (s.key l i) := by
  rw [State.keys, List.getElem?_map, List.getElem?_range h]; rfl

theorem State.keys_slice_nodup (s : State) (k o n : Nat) : (s.keys (.slice k o) n).Nodup :=
  List.pairwise_map.2 (List.nodup_range.imp fun hne h => hne (by simp only [State.key] at h; omega))

/-- The bytes of a value written to local memory, the least significant first (R4). -/
theorem State.homeWrite_slice_byte (s : State) (w : Writer) (k o n v cls i : Nat) (h : i < n) :
    (s.homeWrite w (.slice k o) (leBytes n v) cls).byteAt (.slice k o) i = BitVec.ofNat 8 (v / 256 ^ i) := by
  have hl : (leBytes n v).length = n := by simp [leBytes]
  dsimp only [State.homeWrite, State.byteAt, State.writeAt]
  rw [hl]
  refine memGet_memWrite_at _ _ _ i _ (State.keys_slice_nodup _ k o n) (by simp [hl, State.keys]) (leBytes_getElem? n v i h) _ ?_
  exact State.keys_getElem? _ _ _ _ h

end Sys2Proof.Machine

/-! # Memory at its events: returns, homes, grants, drains, fetch blocks and walks (R77, R207 to R233, R380, R396) -/

namespace Sys2Proof.Machine

/-! ## Returns of loads -/

theorem State.atHome_free {s : State} {c ord : Nat} (ho : ord ≠ 3) (hs : s.speculative c = false) (hb : (s.thread c).spec.sb = []) :
    s.atHome c ord = false := by simp [State.atHome, ho, hs, hb]

theorem State.sbRead_nil (s : State) (l : Loc) (n : Nat) : s.sbRead [] l n = s.valueAt l n := rfl

theorem exec_loadDataReturn {s : State} {c lease : Nat} {p : Pend} (hp : (s.thread c).pend = some p) :
    exec (.loadDataReturn c lease) s = .next (s.loadReturn c lease) := by
  have e : exec (.loadDataReturn c lease) s = execLoadDataReturn c lease s := rfl
  rw [e, execLoadDataReturn, hp, Option.isNone_some, Bool.and_false, if_neg Bool.false_ne_true]

section
variable {s : State} {c lease : Nat} {p : Pend} (hp : (s.thread c).pend = some p) (hk : p.kind = 1) (ho : s.atHome c p.op = false)
include hp hk ho

/-- A usable copy of the cluster L1 answers (R220). -/
theorem State.loadReturn_l1 {x : L1Line} (hx : s.l1Usable (pclOf c) p.loc p.t0 p.rh.toNat = some x) :
    s.loadReturn c lease = (s.l1Use (pclOf c) x).finishLoad c p (x.at_ p.loc p.size) := by
  simp only [State.loadReturn, hp, hk, ho, hx, ne_eq, not_true_eq_false, ↓reduceIte, Bool.false_eq_true]

/-- Without one the home answers. -/
theorem State.loadReturn_home {s1 : State} {v : Nat} (hx : s.l1Usable (pclOf c) p.loc p.t0 p.rh.toNat = none)
    (hl : s.loadServable c (p.path c) p.loc p.size p.cls p.sq p.sent false = true)
    (hh : s.homeLoad 1 c p.loc p.size p.cls false lease = some (s1, false, v)) :
    s.loadReturn c lease = s1.finishLoad c p v := by
  simp only [State.loadReturn, hp, hk, ho, hx, hl, hh, ne_eq, not_true_eq_false, ↓reduceIte, Bool.false_eq_true, Bool.not_true]

end

section
variable {s r : State} {c n cls lease : Nat} {l : Loc} (hs : s.speculative c = false) (hb : (s.thread c).spec.sb = [])
  (hr : s.homeRead { code := 1, c := some c } l n cls = (r, false))
include hs hb hr

/-- The home's answer to a thread that is not speculative and has no buffered store. -/
theorem State.homeLoad_plain (ha : s.asksLease c l cls false = false) :
    s.homeLoad 1 c l n cls false lease = some (r, false, s.valueAt l n) := by
  simp only [State.homeLoad, hs, hb, hr, ha, State.sbRead_nil, Bool.false_eq_true, ↓reduceIte]

/-- The same where the access asks for a lease: the line enters the cluster L1. -/
theorem State.homeLoad_lease {pa : Nat} (hl : l = .phys pa) (ha : s.asksLease c l cls false = true) :
    s.homeLoad 1 c l n cls false lease = some (r.l1Fill (pclOf c) pa cls lease, false, s.valueAt l n) := by
  subst hl
  simp only [State.homeLoad, hs, hb, hr, ha, State.sbRead_nil, Bool.false_eq_true, ↓reduceIte]

end

/-- Settles O11: the answer of a local home, of an L1 copy, of the home of global memory. -/
theorem loadReturnCompletes : Obligations.LoadReturnCompletes := by
  unfold Obligations.LoadReturnCompletes
  intro s c lease p hp hk hop hs hb
  have ho := State.atHome_free hop hs hb
  rw [exec_loadDataReturn hp]
  refine ⟨fun k o hl hv => ?slice, fun pa x hl hx => ?l1, fun pa s1 hl hx hv hr => ⟨fun ha => ?lease, fun ha => ?plain⟩⟩
  case slice => exact congrArg _ (State.loadReturn_home hp hk ho (by rw [hl]; rfl) hv (State.homeLoad_plain hs hb (by rw [hl]; rfl) (by rw [hl]; rfl)))
  case l1 => rw [State.loadReturn_l1 hp hk ho hx, hl]; rfl
  case lease => exact congrArg _ (State.loadReturn_home hp hk ho hx hv (State.homeLoad_lease hs hb hr hl ha))
  case plain => exact congrArg _ (State.loadReturn_home hp hk ho hx hv (State.homeLoad_plain hs hb hr ha))

/-! ## Stores at their home -/

/-- The state in which a store's home has written it. -/
def State.storeWritten (s : State) (k p n : Nat) (o : PathOp) : State :=
  (s.setCore k ((s.core k).setPath p (((s.core k).path p).eraseIdx n))).homeWrite { c := some o.c, vt := o.vt } o.loc (leBytes o.size o.v) o.cls

theorem State.storeWritten_thread (s : State) (k p n : Nat) (o : PathOp) (c : Nat) :
    (s.thread c).AbortNoted ((s.storeWritten k p n o).thread c) := State.homeWrite_thread ..

theorem State.storeEnds_plain {s : State} {o : PathOp} (ha : o.arel = false) (hv : o.vec = false) : s.storeEnds o = s := by
  simp [State.storeEnds, ha, hv]

/-- Settles O13: no reservation ends with a plain store, and no access of its thread waits for it. -/
theorem storeAtHomeCompletes : Obligations.StoreAtHomeCompletes := by
  unfold Obligations.StoreAtHomeCompletes
  intro s k p n o ho he ha hv hp
  have e : exec (.storeAtHome k p n) s = .next (s.storeHome k p n) := rfl
  have hn : ((s.storeWritten k p n o).thread o.c).pend = none := (s.storeWritten_thread k p n o o.c).pend.trans hp
  rw [e, State.storeHome]
  rw [State.storeWritten] at hn
  simp only [ho, he, hn, Bool.not_true, Bool.false_eq_true, ↓reduceIte, State.storeEnds_plain ha hv]

/-! ## The frames of a load and of a store -/

@[simp] theorem State.acquire_mem (s : State) (c : Nat) : (s.acquire c).mem = s.mem := rfl

@[simp] theorem State.endPend_mem (s : State) (c : Nat) (p : Pend) : (s.endPend c p).mem = s.mem := by
  dsimp only [State.endPend]
  split <;> rfl

theorem State.endPend_thread_other (s : State) (p : Pend) {c c' : Nat} (h : c' ≠ c) : (s.endPend c p).thread c' = s.thread c' := by
  dsimp only [State.endPend, State.acquire]
  split
  · rw [State.thread_setThread_other _ _ h, State.thread_setThread_other _ _ h]
  · rw [State.thread_setThread_other _ _ h]

theorem State.endPend_thread (s : State) (c : Nat) (p : Pend) : (s.endPend c p).thread c =
    { s.thread c with
      pend := none
      pc := p.next
      notBefore := max (s.thread c).notBefore (s.gtime + 1)
      sys := if p.acq then { (s.thread c).sys with rh := BitVec.ofNat 64 s.gtime } else (s.thread c).sys } := by
  dsimp only [State.endPend, State.acquire]
  split
  · simp only [State.thread_setThread_same]
    rfl
  · simp only [State.thread_setThread_same]

@[simp] theorem State.storeEnds_mem (s : State) (o : PathOp) : (s.storeEnds o).mem = s.mem := by
  dsimp only [State.storeEnds]
  repeat' split
  all_goals rfl

theorem State.storeHome_mem {s : State} {k p n : Nat} {o : PathOp} (ho : ((s.core k).path p)[n]? = some o)
    (he : s.storeEnabled k p n = true) : (s.storeHome k p n).mem = (s.storeWritten k p n o).mem := by
  simp only [State.storeHome, ho, he, Bool.not_true, Bool.false_eq_true, ↓reduceIte]
  split
  · split
    · rw [State.endPend_mem, State.storeEnds_mem]; rfl
    · rw [State.storeEnds_mem]; rfl
  · rw [State.storeEnds_mem]; rfl

theorem State.storeHome_disabled {s : State} {k p n : Nat} (he : s.storeEnabled k p n = false) : s.storeHome k p n = s := by
  dsimp only [State.storeHome]
  rw [he]
  split <;> rfl

/-- Settles O14: the return writes one register; the home writes the bytes of the range alone. -/
theorem loadAndStoreFrames : Obligations.LoadAndStoreFrames := by
  unfold Obligations.LoadAndStoreFrames
  refine ⟨fun s c p v => ?load, fun s t k p n o ho ht => ?store⟩
  case load =>
    dsimp only [State.finishLoad]
    rw [State.endPend_thread, State.thread_setThread_same, State.endPend_mem]
    refine ⟨Thread.w_setW_same (s.thread c) p.d _, fun i hi hd hn => Thread.w_setW_other (s.thread c) _ hd hi hn,
      rfl, rfl, rfl, rfl, rfl, rfl, rfl, rfl, fun c' hc => ?_, rfl⟩
    rw [State.endPend_thread_other _ _ hc, State.thread_setThread_other _ _ hc]
  case store =>
    cases ht
    refine ⟨fun key hk => ?others, fun c off i hl hi he => ?bytes⟩
    case others =>
      by_cases he : s.storeEnabled k p n = true
      · rw [State.storeHome_mem ho he]
        refine State.homeWrite_mem_other _ _ _ _ _ ?_
        rwa [show (leBytes o.size o.v).length = o.size by simp [leBytes]]
      · rw [State.storeHome_disabled (eq_false_of_ne_true he)]
    case bytes =>
      rw [State.byteAt, State.storeHome_mem ho he, State.storeWritten, hl]
      exact State.homeWrite_slice_byte _ _ c off o.size o.v o.cls i hi

/-! ## Reservations -/

section
variable {s s1 : State} {c : Nat} {p : Pend} (hp : (s.thread c).pend = some p) (hq : s.rsvq.contains c = true)
  (hh : s.atHead c p = true) (hr : s.ready (some c) p.loc p.size true = true) (hc : s.complete c = true) (ha : s.atomicRefused p = false)
include hp hq hh hr hc ha

/-- An access that stands at the head of the queue of its home, which is ready, is granted. -/
theorem State.grant_head (hk : 2 ≤ p.kind ∧ p.kind ≤ 4) : s.grant c = ({ s with rsvq := s.rsvq.erase c } : State).grantRead c p := by
  have harr : s.arriveHome c p = s := by
    rw [State.arriveHome, if_neg]
    rw [hq]
    simp
  have hk' : ¬(p.kind < 2 ∨ 4 < p.kind) := by omega
  have ha' : ({ s with rsvq := s.rsvq.erase c } : State).atomicRefused p = false := ha
  simp only [State.grant, hp, if_neg hk', harr, hh, hr, hc, ha', Bool.not_true, Bool.false_and, Bool.and_self, Bool.or_self, Bool.false_eq_true,
    ↓reduceIte]

end

/-- Settles O16: AREL's word goes its way; a grant reads the home, and an atomic writes it. -/
theorem reservationCompletes : Obligations.ReservationCompletes := by
  unfold Obligations.ReservationCompletes
  refine ⟨fun f s s1 h ho hh hva hsz hb h3 hr => issue_ok ho ?arel, fun s s1 c p hp hq hh hr hc ha hread => ?grant⟩
  case arel =>
    have hr' : decide (2 ≤ extOrd f) = true → s1.released s1.cur = true :=
      fun h => hr (by have := of_decide_eq_true h; have := extOrd_lt f; omega)
    simp only [hh, hva, hsz, ne_eq, not_true_eq_false, or_self, ↓reduceIte, State.afterRelease_free hr', State.afterDrain_empty hb, h3]
  case grant =>
    have hv : ({ s with rsvq := s.rsvq.erase c } : State).valueAt p.loc p.size = s.valueAt p.loc p.size := rfl
    have e : exec (.reservationGrant c) s = .next (s.grant c) := rfl
    refine ⟨fun hk => ?arsv, fun hk => ?atomic⟩
    case arsv =>
      rw [e, State.grant_head hp hq hh hr hc ha (by omega)]
      simp only [State.grantRead, hread, hv, hk, Bool.false_eq_true, ↓reduceIte]
    case atomic =>
      rw [e, State.grant_head hp hq hh hr hc ha (by omega)]
      simp only [State.grantRead, hread, hv, hk, Bool.false_eq_true, ↓reduceIte, State.doAmo, Nat.reduceEqDiff]

/-! ## Drains, fetch blocks and walks -/

theorem mem_tlbFill {l : List TlbEnt} {e x : TlbEnt} (hx : x ∈ l) (hp : x.pcl ≠ e.pcl) : x ∈ tlbFill l e := by
  simp [tlbFill, hx, hp]

theorem mem_tlbFill_foldl {f : Nat → TlbEnt} {x : TlbEnt} (hp : ∀ k, x.pcl ≠ (f k).pcl) (ks : List Nat) :
    ∀ l : List TlbEnt, x ∈ l → x ∈ ks.foldl (fun l k => tlbFill l (f k)) l := by
  induction ks with
  | nil => exact fun l hx => hx
  | cons k ks ih => exact fun l hx => ih _ (mem_tlbFill hx (hp k))

/-- The reads of a walk touch what a read at a home touches. -/
theorem State.dramStep_walkReadAll (s : State) (asid va : Nat) : s.DramStep (s.walkReadAll asid va) :=
  State.DramStep.foldl (fun s pa => State.dramStep_homeRead s { code := 0 } (.phys pa) 8 0) _ s

/-- Settles O19: a drain, the arrival of a block, the end of a walk. -/
theorem memoryEventsHappen : Obligations.MemoryEventsHappen := by
  unfold Obligations.MemoryEventsHappen
  refine ⟨fun s c e es hs ha hb hne hm hr hc => ?drain, fun s c l hst has hh hf hd s1 hr => ?block, fun s pcl asid va p hw => ?walk⟩
  case drain =>
    have x : exec (.storeDrain c) s = .next (s.drain c) := rfl
    have hne' : es.isEmpty = false := by simpa using hne
    rw [x, State.drain]
    simp only [hs, ha, hb, hm, hr, hc, hne', Bool.or_self, Bool.and_self, Bool.not_true, Bool.false_eq_true, ↓reduceIte]
  case block =>
    have x : exec (.fetchBlockArrival c) s = .next (s.fetchArrive c) := rfl
    rw [x, State.fetchArrive]
    simp only [hst, has, hh, hf, hd, hr, ne_eq, not_true_eq_false, decide_false, Bool.or_self, Bool.not_true, Bool.false_eq_true, ↓reduceIte]
  case walk =>
    have x : exec (.pageWalk pcl asid va) s = execPageWalk pcl asid va s := rfl
    rw [x, execPageWalk]
    simp only [hw]
    have hd := s.dramStep_walkReadAll asid va
    refine ⟨_, rfl, ?_⟩
    dsimp only
    refine ⟨rfl, rfl, fun e he hp => ?_, hd.mem, ?_⟩
    · refine mem_tlbFill ?_ hp
      exact mem_tlbFill_foldl (fun _ => hp) _ _ he
    obtain ⟨d, l, a, h⟩ := hd
    simp only [h]

end Sys2Proof.Machine

/-! # The vector sequencer (R152, R164, R173 to R176, R187, R190, R201) -/

namespace Sys2Proof.Machine

/-! ## Dispatch -/

section
variable {id : Nat} {f : Fld} {s s1 : State}

theorem dispatchVec_free (h : Opens {} f s s1) (hb : s.t.vec.bodyLeft = 0) (hu : s1.entriesUsed < 16) :
    dispatchVec id f s = .next (s1.enqueue 1 id f true false []).advance := by
  simp only [dispatchVec, hb, Nat.lt_irrefl, decide_false, Bool.not_false, Bool.or_true, ↓reduceIte, h.guard]
  refine issue_ok h ?_
  rw [if_neg Bool.false_ne_true, if_neg (Nat.not_le.2 hu)]

theorem dispatchVec_member (h : Opens {} f s s1) (hb : 0 < s.t.vec.bodyLeft) :
    dispatchVec id f s = .next (s1.enqueue 1 id f true true []).advance := by
  simp only [dispatchVec, hb, decide_true, ↓reduceIte, h.guard, Bool.true_or]
  exact issue_ok h rfl

theorem dispatchVec_member_false (hg : s.P f.g.toNat = false) (hb : 0 < s.t.vec.bodyLeft) (hh : s.t.hold = none)
    (hs : s.speculative s.cur = true → s.t.spec.spen = true) :
    dispatchVec id f s = .next (s.enqueue 1 id f false true []).advance := by
  have hx : (s.speculative s.cur && !s.t.spec.spen) = false := by
    cases h : s.speculative s.cur
    · rfl
    · simp [hs h]
  simp only [dispatchVec, hb, hg, decide_true, Bool.not_true, Bool.or_self, Bool.false_eq_true, ↓reduceIte, holdStop_none hh, hx, finish]

end

/-- Settles O20: every vector instruction's meaning is the shared dispatch; VLOOP checks its body. -/
theorem vectorDispatchCompletes : Obligations.VectorDispatchCompletes := by
  unfold Obligations.VectorDispatchCompletes
  intro f
  refine ⟨fun i id hi => ?member, fun s s1 h ⟨hc, hu⟩ => issue_ok h ?vloop⟩
  case member =>
    have e : ∀ s, exec i s = dispatchVec id f s := by
      simp only [List.mem_cons, Prod.mk.injEq, List.not_mem_nil, or_false] at hi
      iterate 59
        rcases hi with ⟨rfl, rfl⟩ | hi
        · exact fun s => rfl
      obtain ⟨rfl, rfl⟩ := hi
      exact fun s => rfl
    simp only [e]
    exact ⟨fun s s1 h hb hu => dispatchVec_free h hb hu, fun s s1 h hb => dispatchVec_member h hb,
      fun s hg hb hh hs => dispatchVec_member_false hg hb hh hs⟩
  case vloop => rw [hc]; exact if_neg (Nat.not_lt.2 hu)

/-! ## Issue -/

/-- What the sequencer notes beside an operation: when its destination can be read and its unit is free. -/
theorem State.vecNote_thread (s : State) (c : Nat) (e : SeqEnt) (v : Vec) : ∃ r b p, (s.vecNote c e v).thread c =
    { s.thread c with vec := { (s.thread c).vec with rdy := r, busy := b, pushed := p } } := by
  dsimp only [State.vecNote]
  split
  · exact ⟨_, _, _, by rw [State.thread_setCore, State.thread_setThread_same]⟩
  · exact ⟨_, _, _, State.thread_setThread_same ..⟩

theorem State.vecNote_thread_other (s : State) (e : SeqEnt) (v : Vec) {c c' : Nat} (h : c' ≠ c) : (s.vecNote c e v).thread c' = s.thread c' := by
  dsimp only [State.vecNote]
  split
  · rw [State.thread_setCore, State.thread_setThread_other _ _ h]
  · exact State.thread_setThread_other _ _ h

@[simp] theorem State.vecNote_mem (s : State) (c : Nat) (e : SeqEnt) (v : Vec) : (s.vecNote c e v).mem = s.mem := by
  dsimp only [State.vecNote]
  split <;> rfl

theorem State.vecLeave_thread (s : State) (c : Nat) (e : SeqEnt) (a b : Option Word) :
    (s.vecLeave c e a b).thread c = { s.thread c with vec := (s.thread c).vec.afterEntry } := by
  rw [State.vecLeave, State.ringUpd, State.thread_setCore, State.thread_setThread_same]

theorem State.vecLeave_thread_other (s : State) (e : SeqEnt) (a b : Option Word) {c c' : Nat} (h : c' ≠ c) :
    (s.vecLeave c e a b).thread c' = s.thread c' := by
  rw [State.vecLeave, State.ringUpd, State.thread_setCore, State.thread_setThread_other _ _ h]

@[simp] theorem State.vecLeave_mem (s : State) (c : Nat) (e : SeqEnt) (a b : Option Word) : (s.vecLeave c e a b).mem = s.mem := rfl

/-- The thread that a computing operation leaves, up to what the sequencer notes. -/
def Thread.computed (t : Thread) (e : SeqEnt) (dst : Nat) (r : V128 × Fl) : Thread :=
  ((t.latch e.maj e.fn e.f.a.toNat e.f.b.toNat).writeV dst r.1).orFlags r.2

/-- The destination of a computing operation (R176). -/
def SeqEnt.target (e : SeqEnt) : Nat := if e.maj = 1 ∨ e.maj = 2 ∨ e.maj = 4 then e.f.d.toNat else e.f.a.toNat

/-- What a computing operation delivers. -/
def SeqEnt.value (e : SeqEnt) (u : Thread) : V128 × Fl :=
  vecCompute e.maj e.fn (e.f.ext.toNat / 4) (e.f.ext.toNat % 4) e.rm ((e.vals.getD 0 0).toNat % 32) e.f.d.toNat e.f.b.toNat
    (u.vr e.f.d.toNat) (u.vr e.f.a.toNat) (u.vr e.f.b.toNat)

theorem State.vecDo_compute (s : State) (c : Nat) {e : SeqEnt} (hm : e.maj < 8) :
    s.vecDo c e e.vals = ((s.setThread c ((s.thread c).computed e e.target (e.value (s.thread c)))).vecNote c e (s.thread c).vec).vecLeave
      c e e.vals[0]? e.vals[1]? := by
  have hd : (if (e.maj == 1 || e.maj == 2 || e.maj == 4) = true then e.f.d.toNat else e.f.a.toNat) = e.target := by
    simp only [SeqEnt.target, Bool.or_eq_true, beq_iff_eq, or_assoc]
  dsimp only [State.vecDo]
  split
  · omega
  · omega
  · omega
  · rw [hd]; rfl

/-- A thread that runs is in no deadlock of queues. -/
theorem State.qdeadNow_run {s : State} {c : Nat} (h : (s.thread c).st = .run) : s.qdeadNow c = s := by
  dsimp only [State.qdeadNow]
  rw [h, ite_self]

section
variable {s : State} {c : Nat} {e : SeqEnt} {es : List SeqEnt} (hst : (s.thread c).st = .run) (hl : (s.thread c).vec.loop = none)
  (hseq : (s.thread c).vec.seq = e :: es) (hp : e.page = 1) (hm : e.maj < 8) (hq : e.queueNeed = none) (hg : e.guard = true)
  (hr : s.vecReady c e = true)
include hst hl hseq hp hm hq hg hr

theorem State.vecTurn_compute : s.vecTurn c = ((s.setThread c ((s.thread c).computed e e.target (e.value (s.thread c)))).vecNote c e
    (s.thread c).vec).vecLeave c e e.vals[0]? e.vals[1]? := by
  have hi : e.irrev = false := by simp [SeqEnt.irrev, hq, hp, show e.maj ≠ 9 by omega]
  have hh : (s.thread c).vec.head = some e := by simp [Vec.head, hl, hseq]
  have hs : s.vecStep c e = s.vecDo c e e.vals := by
    simp only [State.vecStep, hg, hi, hr, hq, Bool.not_true, Bool.false_and, Bool.false_eq_true, ↓reduceIte]
  have hrun : ((s.vecDo c e e.vals).thread c).st = .run := by
    obtain ⟨r, b, p, h⟩ := State.vecNote_thread (s.setThread c ((s.thread c).computed e e.target (e.value (s.thread c)))) c e (s.thread c).vec
    rw [s.vecDo_compute c hm, State.vecLeave_thread, h, State.thread_setThread_same]
    exact hst
  rw [← s.vecDo_compute c hm, State.vecTurn, hh]
  simp only [hp, Nat.reduceEqDiff, ↓reduceIte, State.vecTake, hs, State.qdeadNow_run hrun]

end

/-- The thread after a computing operation, with what the sequencer notes. -/
def Thread.issued (t : Thread) (e : SeqEnt) (dst : Nat) (r : V128 × Fl) (es : List SeqEnt) (rd : List (Nat × Nat))
    (b : List (Nat × Option Nat)) (p : Option (Nat × Nat)) : Thread :=
  let x := t.computed e dst r
  { x with vec := { x.vec with seq := es, rdy := rd, busy := b, pushed := p } }

section
variable (t : Thread) (e : SeqEnt) (dst : Nat) (r : V128 × Fl) (es : List SeqEnt) (rd : List (Nat × Nat)) (b : List (Nat × Option Nat))
  (p : Option (Nat × Nat))

theorem Thread.issued_vr_target : (t.issued e dst r es rd b p).vr dst = r.1 := mget_mset_same ..

theorem Thread.issued_vr_other {n : Nat} (h : n ≠ dst) : (t.issued e dst r es rd b p).vr n = t.vr n := mget_mset_other _ _ _ h

theorem Thread.issued_sys : (t.issued e dst r es rd b p).sys = { t.sys with fpcsr := t.sys.fpcsr ||| r.2.word } := rfl

theorem Thread.issued_rest : (t.issued e dst r es rd b p).vec.seq = es ∧ (t.issued e dst r es rd b p).win = t.win ∧
    (t.issued e dst r es rd b p).q = t.q ∧ (t.issued e dst r es rd b p).pc = t.pc := by
  dsimp only [Thread.issued, Thread.computed, Thread.orFlags, Thread.writeV, Thread.setVr, Thread.latch]
  exact ⟨rfl, rfl, rfl, rfl⟩

end

section
variable {s : State} {c : Nat} {e : SeqEnt} {es : List SeqEnt} (hst : (s.thread c).st = .run) (hl : (s.thread c).vec.loop = none)
  (hseq : (s.thread c).vec.seq = e :: es) (hp : e.page = 1) (hm : e.maj < 8) (hq : e.queueNeed = none) (hg : e.guard = true)
  (hr : s.vecReady c e = true)
include hst hl hseq hp hm hq hg hr

theorem State.vecTurn_thread : ∃ rd b p, (s.vecTurn c).thread c = (s.thread c).issued e e.target (e.value (s.thread c)) es rd b p := by
  obtain ⟨rd, b, p, h⟩ := State.vecNote_thread (s.setThread c ((s.thread c).computed e e.target (e.value (s.thread c)))) c e (s.thread c).vec
  refine ⟨rd, b, p, ?_⟩
  have hl' : ((s.thread c).computed e e.target (e.value (s.thread c))).vec.loop = none := hl
  have hs' : ((s.thread c).computed e e.target (e.value (s.thread c))).vec.seq = e :: es := hseq
  rw [State.vecTurn_compute hst hl hseq hp hm hq hg hr, State.vecLeave_thread, h, State.thread_setThread_same, Thread.issued]
  simp only [Vec.afterEntry, hl', hs', List.drop_succ_cons, List.drop_zero]

theorem State.vecTurn_thread_other {c' : Nat} (h : c' ≠ c) : (s.vecTurn c).thread c' = s.thread c' := by
  rw [State.vecTurn_compute hst hl hseq hp hm hq hg hr, State.vecLeave_thread_other _ _ _ _ h, State.vecNote_thread_other _ _ _ h,
    State.thread_setThread_other _ _ h]

theorem State.vecTurn_mem : (s.vecTurn c).mem = s.mem := by
  rw [State.vecTurn_compute hst hl hseq hp hm hq hg hr, State.vecLeave_mem, State.vecNote_mem, State.setThread_mem]

end

/-- The sequencer of a core that has issued none takes the turn of the head of a stream that may go on. -/
theorem exec_vectorIssue {s : State} {c : Nat} (hst : (s.thread c).st = .run) (hstop : (s.thread c).stopReq = false)
    (hhalt : (s.thread c).vec.halted = false) (hv : (s.core (coreId c)).vissued = false) :
    ∃ t, exec (.vectorIssue c) s = .next t ∧ (∀ c', t.thread c' = (s.vecTurn c).thread c') ∧ t.mem = (s.vecTurn c).mem := by
  have hre : s.restartVec c = s := if_neg (by simp [Thread.mayRestart, hhalt])
  have hx : exec (.vectorIssue c) s = execVectorIssue c s := rfl
  rw [hx, execVectorIssue, hre]
  simp only [hv, hst, hstop, hhalt]
  rw [if_neg (by decide)]
  split
  · exact ⟨_, rfl, fun _ => rfl, rfl⟩
  · exact ⟨_, rfl, fun _ => rfl, rfl⟩

/-- Settles O21: the head computes, and the sequencer notes it and drops the entry. -/
theorem vectorIssueHappens : Obligations.VectorIssueHappens := by
  unfold Obligations.VectorIssueHappens
  intro s c e es u dst r hst hstop hhalt hl hseq hv hp hm hq hg hr
  obtain ⟨t, hx, hthr, hmem⟩ := exec_vectorIssue hst hstop hhalt hv
  obtain ⟨rd, b, p, ht⟩ := State.vecTurn_thread hst hl hseq hp hm hq hg hr
  refine ⟨t, hx, ?_⟩
  rw [hthr c, hmem, ht, State.vecTurn_mem hst hl hseq hp hm hq hg hr]
  obtain ⟨hes, hwin, hqs, hpc⟩ := Thread.issued_rest u e dst r es rd b p
  exact ⟨Thread.issued_vr_target .., Thread.issued_sys .., hes, fun n hn => Thread.issued_vr_other _ _ _ _ _ _ _ _ hn, hwin, hqs, hpc,
    fun c' hc => (hthr c').trans (State.vecTurn_thread_other hst hl hseq hp hm hq hg hr hc), rfl⟩

/-! ## Integer lanes -/

theorem packNat_lt (w : Nat) : ∀ l : List Nat, packNat w l < 2 ^ (w * l.length)
  | [] => by simp [packNat]
  | x :: xs => by
    have hx : x % 2 ^ w < 2 ^ w := Nat.mod_lt _ (Nat.two_pow_pos w)
    have ih := packNat_lt w xs
    rw [packNat, List.length_cons, Nat.mul_succ, Nat.add_comm (w * xs.length) w, Nat.pow_add]
    calc x % 2 ^ w + 2 ^ w * packNat w xs < 2 ^ w + 2 ^ w * packNat w xs := by omega
      _ = 2 ^ w * (packNat w xs + 1) := by rw [Nat.mul_add_one, Nat.add_comm]
      _ ≤ 2 ^ w * 2 ^ (w * xs.length) := Nat.mul_le_mul_left _ ih

theorem packNat_lane (w : Nat) : ∀ (l : List Nat) (i x : Nat), l[i]? = some x → packNat w l / 2 ^ (w * i) % 2 ^ w = x % 2 ^ w
  | [], _, _, h => by simp at h
  | y :: ys, 0, x, h => by
    cases h
    rw [packNat, Nat.mul_zero, Nat.pow_zero, Nat.div_one, Nat.add_mul_mod_self_left, Nat.mod_mod]
  | y :: ys, i + 1, x, h => by
    have hy : y % 2 ^ w < 2 ^ w := Nat.mod_lt _ (Nat.two_pow_pos w)
    rw [packNat, Nat.mul_succ, Nat.add_comm (w * i) w, Nat.pow_add, ← Nat.div_div_eq_div_mul,
      Nat.add_mul_div_left _ _ (Nat.two_pow_pos w), Nat.div_eq_of_lt hy, Nat.zero_add]
    exact packNat_lane w ys i x h

/-- The lanes of a register made of lanes. -/
theorem lane_ofLanes {w i x : Nat} {l : List Nat} (hw : w * l.length ≤ 128) (h : l[i]? = some x) : lane w (ofLanes w l) i = x % 2 ^ w := by
  have hlt : packNat w l < 2 ^ 128 := Nat.lt_of_lt_of_le (packNat_lt w l) (Nat.pow_le_pow_right (by decide) hw)
  rw [lane, ofLanes, BitVec.toNat_ofNat, Nat.mod_eq_of_lt hlt, packNat_lane w l i x h]

theorem lanes_getElem? {w i : Nat} (a : V128) (h : i < 128 / w) : (lanes w a)[i]? = some (lane w a i) := by
  rw [lanes, List.getElem?_map, List.getElem?_range h]; rfl

/-- An operation lane by lane. -/
theorem lane_map2 {ty i : Nat} (op : Nat → Nat → Nat × Fl) (a b : V128) (h : i < 128 / tyBits ty) :
    lane (tyBits ty) (map2 ty op a b).1 i = (op (lane (tyBits ty) a i) (lane (tyBits ty) b i)).1 % 2 ^ tyBits ty := by
  refine lane_ofLanes ?_ ?_
  · simp only [List.length_map, List.length_zipWith, lanes, List.length_range, Nat.min_self]
    exact Nat.mul_div_le 128 (tyBits ty)
  · simp [List.getElem?_zipWith, lanes_getElem? _ h]

/-- An arithmetic operation on integer lanes. -/
theorem lane_arith {ty i : Nat} (m : Nat) (op : Int → Int → Int) (p : Fp → Nat → Nat → Nat × Fl) (a b : V128) (hty : ty < 8)
    (h : i < 128 / tyBits ty) : lane (tyBits ty) (arith ty m op p a b).1 i =
      deliverInt (tySigned ty) (m == 1) (tyBits ty) (op (intVal (tySigned ty) (tyBits ty) (lane (tyBits ty) a i))
        (intVal (tySigned ty) (tyBits ty) (lane (tyBits ty) b i))) % 2 ^ tyBits ty := by
  have hf : isFp ty = false := by simp [isFp]; omega
  rw [arith, hf, if_neg Bool.false_ne_true, if_neg (by omega)]
  exact lane_map2 _ a b h

theorem lane_lt (w : Nat) (a : V128) (i : Nat) : lane w a i < 2 ^ w := Nat.mod_lt _ (Nat.two_pow_pos w)

/-- A lane's value is the lane modulo 2^w, whatever the sign of its type. -/
theorem intVal_emod (sg : Bool) (w v : Nat) : intVal sg w v % (2 ^ w : Nat) = (v : Int) % (2 ^ w : Nat) := by
  cases sg
  · simp [intVal]
  · simp only [intVal, sint, ↓reduceIte]
    split
    · simp
    · rw [show ((2 : Int) ^ w) = ((2 ^ w : Nat) : Int) by simp, Int.sub_emod_right]
      simp

theorem intVal_unsigned {w v : Nat} (h : v < 2 ^ w) : intVal false w v = (v : Int) := by
  simp [intVal, Nat.mod_eq_of_lt h]

theorem wrapN_lt (v : Int) (w : Nat) : wrapN v w < 2 ^ w := by
  have h := Int.emod_lt_of_pos v (show (0 : Int) < 2 ^ w from Int.pow_pos (by decide))
  have h0 := Int.emod_nonneg v (show ((2 : Int) ^ w) ≠ 0 from Int.pow_ne_zero (by decide))
  have : ((v % 2 ^ w).toNat : Int) < ((2 ^ w : Nat) : Int) := by rw [Int.toNat_of_nonneg h0]; push_cast; exact h
  exact_mod_cast this

/-- A natural number wrapped. -/
theorem wrapN_congr {v : Int} {n w : Nat} (h : v % (2 ^ w : Nat) = (n : Int) % (2 ^ w : Nat)) : wrapN v w = n % 2 ^ w := by
  rw [wrapN, show ((2 : Int) ^ w) = ((2 ^ w : Nat) : Int) by simp, h, ← Int.natCast_emod, Int.toNat_natCast]

/-- Unsigned saturation stops at 0 and at 2^w − 1. -/
theorem deliverInt_unsigned_sat (w : Nat) (v : Int) : deliverInt false true w v = min v.toNat (2 ^ w - 1) := by
  have hp : 0 < 2 ^ w := Nat.two_pow_pos w
  have hc : ((2 : Int) ^ w) = ((2 ^ w : Nat) : Int) := by simp
  have he : deliverInt false true w v = wrapN ((min v.toNat (2 ^ w - 1) : Nat) : Int) w := by
    simp only [deliverInt, ↓reduceIte, hc, Bool.false_eq_true]
    congr 1
    generalize 2 ^ w = n at hp
    split
    · omega
    · split <;> omega
  rw [he, wrapN_congr rfl]
  exact Nat.mod_eq_of_lt (by omega)

/-- Settles O22: lanes compute modulo 2^w, and what is unsigned stays below it. -/
theorem integerLaneValues : Obligations.IntegerLaneValues := by
  unfold Obligations.IntegerLaneValues
  intro ty i a b hty hi w x y
  have hx : x < 2 ^ w := lane_lt w a i
  have hy : y < 2 ^ w := lane_lt w b i
  have wrap (op : Int → Int → Int) (p : Fp → Nat → Nat → Nat × Fl) (n : Nat)
      (h : op (intVal (tySigned ty) w x) (intVal (tySigned ty) w y) % (2 ^ w : Nat) = (n : Int) % (2 ^ w : Nat)) :
      lane w (arith ty 0 op p a b).1 i = n % 2 ^ w := by
    rw [lane_arith 0 op p a b hty hi]
    exact (Nat.mod_eq_of_lt (wrapN_lt _ _)).trans (wrapN_congr h)
  have ex := intVal_emod (tySigned ty) w x
  have ey := intVal_emod (tySigned ty) w y
  refine ⟨wrap _ _ _ ?_, wrap _ _ _ ?_, wrap _ _ _ ?_, fun h4 => ?_, ?_, rfl, rfl, rfl, rfl⟩
  · rw [Int.add_emod, ex, ey, ← Int.add_emod, Int.natCast_add]
  · rw [Int.sub_emod, ex, ey, ← Int.sub_emod, Int.natCast_sub (by omega), Int.natCast_add,
      show (x : Int) + ((2 ^ w : Nat) : Int) - y = x - y + ((2 ^ w : Nat) : Int) by omega, Int.add_emod_right]
  · rw [Int.mul_emod, ex, ey, ← Int.mul_emod, Int.natCast_mul]
  · have hu : tySigned ty = false := by simp [tySigned, h4]
    have sat (op : Int → Int → Int) (p : Fp → Nat → Nat → Nat × Fl) :
        lane w (arith ty 1 op p a b).1 i = min (op x y).toNat (2 ^ w - 1) := by
      rw [lane_arith 1 op p a b hty hi, hu, show ((1 : Nat) == 1) = true from rfl, deliverInt_unsigned_sat, intVal_unsigned hx,
        intVal_unsigned hy]
      exact Nat.mod_eq_of_lt (Nat.lt_of_le_of_lt (Nat.min_le_right _ _) (Nat.sub_lt (Nat.two_pow_pos w) Nat.one_pos))
    refine ⟨sat _ _, (sat _ _).trans ?_, (wrap _ _ (min x y) ?_).trans (Nat.mod_eq_of_lt ?_),
      (wrap _ _ (max x y) ?_).trans (Nat.mod_eq_of_lt ?_)⟩
    · omega
    · rw [hu, intVal_unsigned hx, intVal_unsigned hy, show ((min x y : Nat) : Int) = min (x : Int) y by omega]
    · omega
    · rw [hu, intVal_unsigned hx, intVal_unsigned hy, show ((max x y : Nat) : Int) = max (x : Int) y by omega]
    · omega
  · refine (lane_map2 _ a b hi).trans (Nat.mod_eq_of_lt ?_)
    exact Nat.lt_of_le_of_lt (Nat.div_le_self _ _) hx

end Sys2Proof.Machine

/-! # Copies and token queues (R263 to R290) -/

namespace Sys2Proof.Machine

/-! ## Copies -/

theorem State.afterStores_out {s : State} (h : s.storesOut s.cur = false) (k : State → Res) : s.afterStores k = k s := by
  rw [State.afterStores, h, if_neg Bool.false_ne_true]

/-- The answer of a COPY instruction whose block or object a check refuses. -/
def State.copyRefused (s : State) (f : Fld) (c : Nat) (b : Blk) (va : Word) (st : Nat) : State :=
  ((s.postDone (s.clu (pclOf c)).vcl 64 s.t.lid s.t.tid b.tag 0 st va s.t.sys.vt).setW f.b (BitVec.ofNat 64 s.gtime)).advance

section
variable {fn : Nat} {f : Fld} {s s1 s2 : State} {raw : List Byte} (h : Opens { irrev := true, names := [f.a, f.b] } f s s1)
  (ho : s1.storesOut s1.cur = false) (hc : (s1.clu (pclOf s1.cur)).cmds.length < 64) (hl : s1.loadObj (s1.W f.a) 128 64 = .ok s2 raw)
include h ho hc hl

theorem copy_reserved (hr : (parseBlk raw).reserved fn = true) :
    copy fn f s = .next (s2.copyRefused f s1.cur (parseBlk raw) (s1.W f.a) 12) := by
  refine issue_ok h ?_
  simp only [State.afterStores_out ho, Nat.not_le.2 hc, hl, hr, Got.res, ↓reduceIte]
  rfl

variable {s3 : State} {obj : List Byte} (hr : (parseBlk raw).reserved fn = false)
  (hl2 : s2.loadObj (objOf fn (parseBlk raw)).1 (objOf fn (parseBlk raw)).2.1 (objOf fn (parseBlk raw)).2.2 = .ok s3 obj)
include hr hl2

theorem copy_refused {st : Nat}
    (hp : planOf fn (parseBlk raw) obj (s3.clu (pclOf s1.cur)).vcl (coreNo s1.cur) (s3.clu (pclOf s1.cur)).vValid = .error st) :
    copy fn f s = .next (s3.copyRefused f s1.cur (parseBlk raw) (s1.W f.a) st) := by
  refine issue_ok h ?_
  simp only [State.afterStores_out ho, Nat.not_le.2 hc, hl, hr, hl2, hp, Got.res, ↓reduceIte, Bool.false_eq_true]
  rfl

variable {p : Plan}
  (hp : planOf fn (parseBlk raw) obj (s3.clu (pclOf s1.cur)).vcl (coreNo s1.cur) (s3.clu (pclOf s1.cur)).vValid = .ok p)
include hp

theorem copy_late (hs : lateCheck fn (parseBlk raw) p (s3.clu (pclOf s1.cur)) s3.t.tid ≠ 0) : copy fn f s =
    .next (s3.copyRefused f s1.cur (parseBlk raw) (s1.W f.a) (lateCheck fn (parseBlk raw) p (s3.clu (pclOf s1.cur)) s3.t.tid)) := by
  refine issue_ok h ?_
  simp only [State.afterStores_out ho, Nat.not_le.2 hc, hl, hr, hl2, hp, hs, Got.res, ↓reduceIte, Bool.false_eq_true, ne_eq, not_false_eq_true]
  rfl

theorem copy_accepted (hs : lateCheck fn (parseBlk raw) p (s3.clu (pclOf s1.cur)) s3.t.tid = 0) : copy fn f s =
    .next (((s3.acceptCopy fn f (s1.W f.a) (parseBlk raw) p).1.setW f.b
      (BitVec.ofNat 64 (s3.acceptCopy fn f (s1.W f.a) (parseBlk raw) p).2)).advance) := by
  refine issue_ok h ?_
  simp only [State.afterStores_out ho, Nat.not_le.2 hc, hl, hr, hl2, hp, hs, Got.res, ↓reduceIte, Bool.false_eq_true, ne_eq, not_true_eq_false]

end

/-- Settles O23: every COPY instruction's meaning is the shared one; CFREE has the body of its own. -/
theorem copyIssueCompletes : Obligations.CopyIssueCompletes := by
  unfold Obligations.CopyIssueCompletes
  refine ⟨fun f i fn hi s s1 s2 raw h ho hc hl => ?copy, fun f => ⟨fun s s1 p h hc hr hb hf => issue_ok h ?named, fun s s1 h ⟨hc, hr, hb⟩ => issue_ok h ?none⟩⟩
  case copy =>
    have e : exec i s = copy fn f s := by
      simp only [List.mem_cons, Prod.mk.injEq, List.not_mem_nil, or_false] at hi
      rcases hi with ⟨rfl, rfl⟩ | ⟨rfl, rfl⟩ | ⟨rfl, rfl⟩ | ⟨rfl, rfl⟩ | ⟨rfl, rfl⟩ | ⟨rfl, rfl⟩ | ⟨rfl, rfl⟩ | ⟨rfl, rfl⟩
      all_goals rfl
    rw [e]
    exact ⟨copy_reserved h ho hc hl, fun hr s3 obj hl2 => ⟨fun st hp => copy_refused h ho hc hl hr hl2 hp,
      fun p hp => ⟨copy_late h ho hc hl hr hl2 hp, copy_accepted h ho hc hl hr hl2 hp⟩⟩⟩
  case named => simp only [Nat.not_le.2 hc, ↓reduceIte, State.afterRelease_free (fun _ => hr), hb, State.onVclu, hf]
  case none => simp only [Nat.not_le.2 hc, ↓reduceIte, State.afterRelease_free (fun _ => hr), hb]

/-! ## Token queues -/

section
variable {kind : Nat} {rel : Bool} {op : TqOp} {f : Fld} {s s1 : State} {c o : Nat} (h : Opens { irrev := true, names := [f.a] } f s s1)
  (hr : rel = true → s1.released s1.cur = true) (hh : s1.handle (s1.W f.a) = .ok (some (c, o)))
include h hr hh

theorem tqOp_inactive (hq : (s1.core c).tqAt o = none) : tqOp kind rel op f s = .next (s1.answer kind (some (c, o)) none 3).advance := by
  refine issue_ok h ?_
  simp only [State.afterRelease_free hr, orStop_ok hh, hq]

theorem tqOp_refused {q : Tq} {e : Nat} (hq : (s1.core c).tqAt o = some q) (ho : op q s1.t.tid = .error e) :
    tqOp kind rel op f s = .next (s1.answer kind (some (c, o)) (some q) e).advance := by
  refine issue_ok h ?_
  simp only [State.afterRelease_free hr, orStop_ok hh, hq, ho]

theorem tqOp_done {q q1 : Tq} (hq : (s1.core c).tqAt o = some q) (ho : op q s1.t.tid = .ok q1) :
    tqOp kind rel op f s = .next (s1.putTq c q1).advance := by
  refine issue_ok h ?_
  simp only [State.afterRelease_free hr, orStop_ok hh, hq, ho]

end

/-- Settles O24: the five operations share one meaning; QINIT, QEXPECT and QSTAT have their own. -/
theorem tokenQueueCompletes : Obligations.TokenQueueCompletes := by
  unfold Obligations.TokenQueueCompletes
  intro f
  refine ⟨fun i kind rel op hi s s1 c o h hr hh => ?op, fun s s1 c o h hh => ?own⟩
  case op =>
    have e : exec i s = tqOp kind rel op f s := by
      simp only [List.mem_cons, Prod.mk.injEq, List.not_mem_nil, or_false] at hi
      rcases hi with ⟨rfl, rfl, rfl, rfl⟩ | ⟨rfl, rfl, rfl, rfl⟩ | ⟨rfl, rfl, rfl, rfl⟩ | ⟨rfl, rfl, rfl, rfl⟩ | ⟨rfl, rfl, rfl, rfl⟩
      all_goals rfl
    rw [e]
    exact ⟨tqOp_inactive h hr hh, fun q hq => ⟨fun e ho => tqOp_refused h hr hh hq ho, fun q1 ho => tqOp_done h hr hh hq ho⟩⟩
  case own =>
    refine ⟨fun hc => issue_ok h ?other, fun hc hb => issue_ok h ?bad, fun hc hb => issue_ok h ?on, fun hc hb hq => issue_ok h ?idle,
      fun q hc hb hq => issue_ok h ?off, fun q q1 w hq he => issue_ok h ?expect, fun q hq => issue_ok h ?stat, fun hq => issue_ok h ?none⟩
    case other => simp only [orStop_ok hh, hc, ne_eq, not_false_eq_true, ↓reduceIte]
    case bad => simp only [orStop_ok hh, hc, hb, ne_eq, not_true_eq_false, ↓reduceIte]
    case on => simp only [orStop_ok hh, hc, hb, ne_eq, not_true_eq_false, ↓reduceIte]; rfl
    case idle => simp only [orStop_ok hh, hc, hb, ne_eq, not_true_eq_false, ↓reduceIte]; subst hc; simp only [State.deactivate, hq]; rfl
    case off => simp only [orStop_ok hh, hc, hb, ne_eq, not_true_eq_false, ↓reduceIte]; subst hc; simp only [State.deactivate, hq]; rfl
    case expect => simp only [orStop_ok hh, hq, he]
    case stat => simp only [orStop_ok hh, hq]
    case none => simp only [orStop_ok hh, hq]; rfl

end Sys2Proof.Machine

/-! # Sparse streams (R302 to R323) -/

namespace Sys2Proof.Machine

/-! ## What the bodies go on through -/

theorem State.moveReg_ok {s s1 : State} {n : Nat} {g : State → Strm → Got Strm} {r : Strm} (h : g s (s.sr n) = .ok s1 r) :
    s.moveReg n g = .ok (s1.setSr n r) := by
  simp only [State.moveReg, h, Got.keep, Got.res]

theorem State.withIns_ok {s : State} {r : Strm} (ha : (s.sr r.ina).mode = 1) (hb : (s.sr r.inb).mode = 1) (k : Strm → Strm → Res) :
    s.withIns r k = k (s.sr r.ina) (s.sr r.inb) := by simp only [State.withIns, ha, hb, and_self, ↓reduceIte]

theorem Strm.notComb {r : Strm} (h : r.mode = 1) : r.isComb = false := by simp [Strm.isComb, h]

theorem State.query_single {s : State} {n : Nat} (h : (s.sr n).isComb = false) (one : Strm → Word) (two : Nat → Strm → Strm → Word)
    (k : Word → Res) : s.query n one two k = k (one (s.sr n)) := by
  simp only [State.query, h, Bool.false_eq_true, ↓reduceIte]

theorem State.liveIns_live {s : State} {n : Nat} (hm : (s.sr n).mode = 1) (hd : (s.sr n).done = false) (k : List Strm → Res) :
    s.liveIns n k = k [s.sr n] := by
  simp only [State.liveIns, Strm.notComb hm, hm, hd, Bool.false_eq_true, and_self, ↓reduceIte]

theorem State.liveIns_none {s : State} {n : Nat} (hc : (s.sr n).isComb = false) (hd : (s.sr n).mode ≠ 1 ∨ (s.sr n).done = true)
    (k : List Strm → Res) : s.liveIns n k = k [] := by
  have : ¬((s.sr n).mode = 1 ∧ (s.sr n).done = false) := by
    rintro ⟨h1, h2⟩
    rcases hd with h | h
    · exact h h1
    · rw [h2] at h; cases h
  simp only [State.liveIns, hc, Bool.false_eq_true, ↓reduceIte, this]

theorem State.outReg_ok {s s1 : State} {n : Nat} {d : List Byte} (hm : (s.sr n).mode = 4) (hf : s.fibre (s.sr n) = .ok s1 d)
    (k : State → Strm → List Byte → Res) : s.outReg n k = k s1 { s.sr n with dsc := d } d := by
  simp only [State.outReg, hm, hf, ne_eq, not_true_eq_false, ↓reduceIte, Got.res]

theorem State.strmStore_ok {s : State} {va : Word} {n : Nat} {l : Loc} (hc : s.check va n { w := true } 1 = .ok l) (hb : s.t.spec.sb = [])
    (v cls : Nat) (k : State → Loc → Res) : s.strmStore va n v cls k = k (s.pushStore l n v cls false 3) l := by
  simp only [State.strmStore, hc, hb, orStop, List.isEmpty_nil, Bool.not_true, Bool.false_eq_true, ↓reduceIte]

/-! ## Opening, closing and moving -/

theorem State.sopen_read {s s2 s3 : State} {n cls : Nat} {ow p : Word} {d : List Byte} {r1 : Strm} (hm : bitsOf ow 63 60 = 1)
    (hl : s.loadObjAs 4 cls (zextW ow 56) 256 64 = .ok s2 d) (hf : fibreOk d = true) (hlev : bitsOf ow 59 56 < fibLevels d)
    (ho : s2.openRead { mode := 1, level := bitsOf ow 59 56, desc := zextW ow 56, parent := p, cls := cls, dsc := d } d = .ok s3 r1) :
    s.sopen n ow p cls = .ok (s3.setSr n r1).advance := by
  simp only [State.sopen, hl, hm, hf, ho, Nat.not_le.2 hlev, Got.res, Bool.not_true, decide_false, bne_self_eq_false, Bool.false_and,
    Bool.or_self, Bool.false_eq_true, ↓reduceIte, show ((1 : Nat) == 4) = false from rfl]

theorem State.sopen_write {s s2 s3 : State} {n cls : Nat} {ow p : Word} {d : List Byte} {v : Nat} (hm : bitsOf ow 63 60 = 4)
    (hl : s.loadObjAs 4 cls (zextW ow 56) 256 64 = .ok s2 d) (hf : fibreOk d = true) (hlev : bitsOf ow 59 56 < fibLevels d)
    (hk : (levOf d (bitsOf ow 59 56)).kind = 1) (hn : (levOf d (bitsOf ow 59 56)).nu = false)
    (ho : s2.entry { mode := 4, level := bitsOf ow 59 56, desc := zextW ow 56, parent := p, cls := cls, dsc := d }
      ((levOf d (bitsOf ow 59 56)).pos + 4 * p.toNat) 4 = .ok s3 v) :
    s.sopen n ow p cls = .ok (s3.setSr n
      { mode := 4, level := bitsOf ow 59 56, desc := zextW ow 56, parent := p, cls := cls, dsc := d, posn := BitVec.ofNat 64 v,
        send := BitVec.ofNat 64 v, crdv := ones64 }).advance := by
  simp only [State.sopen, hl, hm, hf, hk, hn, ho, Nat.not_le.2 hlev, Got.res, Bool.not_true, decide_false, bne_self_eq_false, Bool.and_false,
    Bool.or_self, Bool.false_eq_true, ↓reduceIte, Nat.reduceEqDiff]

theorem State.openBelow_ok {s s2 s3 : State} {n cls : Nat} {r r1 : Strm} {d : List Byte} (hf : s.fibre r = .ok s2 d)
    (hlev : r.level + 1 < fibLevels d)
    (ho : s2.openRead { mode := 1, level := r.level + 1, desc := r.desc, parent := r.posn, cls := cls, dsc := d, look := r.look } d = .ok s3 r1) :
    s.openBelow n r cls = .ok (s3.setSr n r1).advance := by
  simp only [State.openBelow, hf, Nat.not_le.2 hlev, ho, Got.res, ↓reduceIte]

theorem combine_ok {m : Nat} {f : Fld} {s s1 s2 : State} (h : StrmOpens false [] [f.d.toNat, f.a.toNat, f.b.toNat] f s s1)
    (ha : (s1.sr f.a.toNat).mode = 1) (hb : (s1.sr f.b.toNat).mode = 1)
    (hs : (s1.setSr f.d.toNat { mode := m, ina := f.a.toNat, inb := f.b.toNat }).settleReg f.d.toNat = .ok s2) :
    combine m f s = .next s2.advance := by
  refine strmIssue_ok h ?_
  simp only [State.withIns_ok (r := { mode := m, ina := f.a.toNat, inb := f.b.toNat }) ha hb, hs, Res.bind]

/-- Settles O25: the ways of opening, and the moves of a READ register. -/
theorem streamCompletes : Obligations.StreamCompletes := by
  unfold Obligations.StreamCompletes
  intro f
  refine ⟨fun s s1 s2 s3 d r1 h hm hr hl hf hlev ho => strmIssue_ok h ?read, fun s s1 s2 s3 d v h hm hs hr hl hf hlev hk hn ho => strmIssue_ok h ?write,
    fun s s1 l h hc hb => strmIssue_ok h ?save, fun s s1 s2 b h hr hl hb => strmIssue_ok h ?load,
    fun s s1 s2 s3 d r1 h hr hm hd hf hlev ho => strmIssue_ok h ?child, fun i m hi s s1 s2 h ha hb hs => ?comb,
    fun s s1 h hm => strmIssue_idle h ?nextClosed, fun s s1 s2 r1 h hm ha => strmIssue_idle h ?next,
    fun s s1 s2 r1 h hm hg => strmIssue_ok h ?skip, fun s s1 s2 r1 h hm h0 ha => strmIssue_ok h ?skipn,
    fun s s1 h ⟨hm, h0⟩ => strmIssue_ok h ?skip0⟩
  case read =>
    simp only [State.irrevocable_ok (s := s1) (b := bitsOf (s1.W f.b) 63 60 == 4) (by simp [hm]), State.afterRelease_free (fun _ => hr)]
    exact State.sopen_read hm hl hf hlev ho
  case write =>
    simp only [State.irrevocable_ok (fun _ => hs), State.afterRelease_free (fun _ => hr)]
    exact State.sopen_write hm hl hf hlev hk hn ho
  case save => simp only [orStop_ok hc, hb, List.isEmpty_nil, Bool.not_true, Bool.false_eq_true, ↓reduceIte]
  case load => simp only [State.afterRelease_free (fun _ => hr), hl, hb, Got.res, Bool.false_eq_true, ↓reduceIte]
  case child =>
    simp only [State.afterRelease_free (fun _ => hr), Strm.notComb hm, hm, hd, Bool.false_eq_true, and_self, ↓reduceIte]
    exact State.openBelow_ok hf hlev ho
  case comb =>
    have e : exec i s = combine m f s := by
      simp only [List.mem_cons, Prod.mk.injEq, List.not_mem_nil, or_false] at hi
      rcases hi with ⟨rfl, rfl⟩ | ⟨rfl, rfl⟩
      all_goals rfl
    rw [e]
    exact combine_ok h ha hb hs
  case nextClosed => simp only [hm, Res.bind]
  case next => simp only [hm, State.moveReg_ok (g := fun s x => s.advanceBy x 1) ha, Res.bind]
  case skip => simp only [hm, State.moveReg_ok (g := fun s x => s.gallop x (s1.W f.b).toNat) hg, Res.bind]
  case skipn =>
    have h0' : (s1.W f.b).toNat ≠ 0 := fun h => h0 (BitVec.eq_of_toNat_eq h)
    simp only [hm, h0', ↓reduceIte, State.moveReg_ok (g := fun s x => s.advanceBy x (s1.W f.b).toNat) ha, Res.bind]
  case skip0 =>
    have h0' : (s1.W f.b).toNat = 0 := by rw [h0]; rfl
    simp only [hm, h0', ↓reduceIte, Res.bind]

/-! ## Queries, pushes and fibres -/

theorem pushLive_none {kind : Nat} {f : Fld} {s s1 : State} (h : StrmOpens true [] [f.b.toNat] f s s1)
    (hc : (s1.sr f.b.toNat).isComb = false) (hd : (s1.sr f.b.toNat).mode ≠ 1 ∨ (s1.sr f.b.toNat).done = true) :
    pushLive kind f s = .next (s1.setT (s1.t.setQueue f.a.toNat (s1.t.queue f.a.toNat))).advance := by
  refine strmIssue_ok h ?_
  simp only [State.liveIns_none hc hd, List.length_nil, Nat.lt_irrefl, false_and, ↓reduceIte, State.liveVals, Got.res, List.append_nil]

theorem pushLive_live {kind : Nat} {f : Fld} {s s1 s2 : State} {l : List Word} (h : StrmOpens true [] [f.b.toNat] f s s1)
    (hm : (s1.sr f.b.toNat).mode = 1) (hd : (s1.sr f.b.toNat).done = false) (hq : (s1.t.queue f.a.toNat).length < 8)
    (hl : State.liveVals kind (temporal f) [s1.sr f.b.toNat] s1 = .ok s2 l) :
    pushLive kind f s = .next (s2.setT (s2.t.setQueue f.a.toNat (s2.t.queue f.a.toNat ++ l))).advance := by
  refine strmIssue_ok h ?_
  have hq' : ¬(0 < [s1.sr f.b.toNat].length ∧ 8 < (s1.t.queue f.a.toNat).length + [s1.sr f.b.toNat].length) := by
    simp only [List.length_singleton]; omega
  simp only [State.liveIns_live hm hd, if_neg hq', hl, Got.res]

/-- Settles O27: queries of one register, pushes of its live element, and the writes of a fibre. -/
theorem streamValuesComplete : Obligations.StreamValuesComplete := by
  unfold Obligations.StreamValuesComplete
  intro f
  refine ⟨fun s s1 h hc => strmIssue_ok h (State.query_single hc _ _ _), fun s s1 h hc => strmIssue_ok h (State.query_single hc _ _ _),
    fun s s1 h hc => strmIssue_ok h ?done, fun s s1 h hc => strmIssue_ok h (State.query_single hc _ _ _), fun i kind hi => ?push,
    fun s s1 h hd => strmIssue_ok h ?batchNone, fun s s1 s2 s3 d r1 l h hm hd h0 hq hf hb => strmIssue_ok h ?batch,
    fun s s1 s2 d l h hm hf => ?app, fun s s1 s2 d l h hm hf => ?appv, fun s s1 s2 d l h hm hf ho hb => ?close⟩
  case done =>
    have e (b : Bool) : ((if b then (1 : Word) else 0) == 1) = b := by cases b <;> rfl
    simp only [State.query_single hc, e]
    rfl
  case push =>
    have e : ∀ s, exec i s = pushLive kind f s := by
      simp only [List.mem_cons, Prod.mk.injEq, List.not_mem_nil, or_false] at hi
      rcases hi with ⟨rfl, rfl⟩ | ⟨rfl, rfl⟩ | ⟨rfl, rfl⟩
      all_goals exact fun s => rfl
    exact ⟨fun s s1 h ⟨hc, hd⟩ => (e s).trans (pushLive_none h hc hd),
      fun s s1 s2 l h hm hd hq hl => (e s).trans (pushLive_live h hm hd hq hl)⟩
  case batchNone =>
    have e : ((decide ((s1.sr f.b.toNat).mode ≠ 1) || (s1.sr f.b.toNat).done) = true) := by
      rcases hd with h | h <;> simp [h]
    simp only [e, ↓reduceIte]
    rfl
  case batch =>
    have h0' : (s1.W f.a).toNat ≠ 0 := fun h => h0 (BitVec.eq_of_toNat_eq h)
    have hq' : 8 - (s1.t.queue 0).length ≠ 0 := by omega
    have e : (decide ((s1.sr f.b.toNat).mode ≠ 1) || (s1.sr f.b.toNat).done) = false := by simp [hm, hd]
    dsimp only at hb
    simp only [e, h0', hq', hf, hb, Got.res, Bool.false_eq_true, ↓reduceIte]
    rfl
  case app =>
    intro r x c q hx hcr hq hb hc
    refine strmIssue_ok h ?_
    rw [State.outReg_ok hm hf]
    have hcr' : ¬(r.crdv ≠ ones64 ∧ c ≤ r.crdv.toNat) := fun ⟨h1, h2⟩ => hcr.elim h1 fun h => absurd h2 (Nat.not_le.2 h)
    exact (if_neg (Nat.not_le.2 hx)).trans ((if_neg hcr').trans ((if_neg (Nat.not_le.2 hq)).trans (State.strmStore_ok hc hb _ _ _)))
  case appv =>
    intro r hp hb hc
    refine strmIssue_ok h ?_
    rw [State.outReg_ok hm hf]
    exact (if_neg hp).trans (State.strmStore_ok hc hb _ _ _)
  case close =>
    intro r va hc
    let s3 := s2.pushStore l 4 (r.posn.toNat % 2 ^ 32) r.cls false 3
    let p : Pend := { s3.mkPend 6 0 l va 4 f s3.t.win with sq := (s3.core (coreId s3.cur)).nsq - 1 }
    let t := (s3.setSr f.a.toNat {}).setT { (s3.setSr f.a.toNat {}).t with pend := some p }
    have hx : exec (.sseal f) s = .next t := by
      refine strmIssue_ok h ?_
      rw [State.outReg_ok hm hf]
      exact (if_neg (ne_true_of_eq_false ho)).trans (State.strmStore_ok hc hb _ _ _)
    have ht : t.t = { (s3.setSr f.a.toNat {}).t with pend := some p } := State.t_setT ..
    refine ⟨t, p, hx, by rw [ht], rfl, rfl, ?_⟩
    rw [State.sr, ht]
    exact State.sr_setSr_same s3 f.a.toNat {}

end Sys2Proof.Machine

/-! # Matrix jobs and groups, and messages (R219, R325 to R332, R346, R353 to R365) -/

namespace Sys2Proof.Machine

/-! ## Matrix jobs and groups -/

theorem dispatchJob_ok {names : List (BitVec 6)} {f : Fld} {s s1 : State} (h : Opens { names := names } f s s1)
    (hu : s1.entriesUsed < 16) (ho : s1.storesOut s1.cur = false) : dispatchJob names f s =
      .next (let s2 := s1.enqueue 5 0 f true false (names.map s1.W)
             (s2.setT { s2.t with jobs := s2.t.jobs + 1 }).advance) := by
  refine issue_ok h ?_
  rw [if_neg (Nat.not_le.2 hu), State.afterStores_out ho]

/-- Settles O28: every job instruction's meaning is the shared dispatch. -/
theorem jobDispatchCompletes : Obligations.JobDispatchCompletes := by
  unfold Obligations.JobDispatchCompletes
  intro f i names hi s s1 h ⟨hu, ho⟩
  have e : exec i s = dispatchJob names f s := by
    simp only [List.mem_cons, Prod.mk.injEq, List.not_mem_nil, or_false] at hi
    iterate 18
      rcases hi with ⟨rfl, rfl⟩ | hi
      · rfl
    obtain ⟨rfl, rfl⟩ := hi
    rfl
  rw [e]
  exact dispatchJob_ok h hu ho

/-- Settles O29: the bodies, with a group and without. -/
theorem groupInstructionsComplete : Obligations.GroupInstructionsComplete := by
  unfold Obligations.GroupInstructionsComplete
  intro f
  refine ⟨fun s s1 h => issue_ok h rfl, fun s s1 h ⟨hv, hj⟩ => issue_ok h ?leave, fun s s1 h hg => issue_ok h ?statNone,
    fun s s1 hf n g h hg => ⟨fun hr => issue_ok h ?statRan, fun hr => issue_ok h ?stat⟩, fun s s1 h hg => issue_ok h ?logNone,
    fun s s1 hf n g h hg => ⟨fun hb => issue_ok h ?clear, fun hb => issue_ok h ?entry, fun hb => issue_ok h ?count⟩⟩
  case leave => simp only [hv, hj, Bool.false_eq_true, Nat.lt_irrefl, ↓reduceIte]; rfl
  case statNone => simp only [hg]
  case statRan => simp only [hg, hr, ↓reduceIte]
  case stat => simp only [hg, hr, Bool.false_eq_true, ↓reduceIte]
  case logNone => simp only [hg]; rfl
  case clear => simp only [hg, hb, ↓reduceIte]; rfl
  case entry =>
    have h63 : (s1.W f.b).getLsbD 63 = false := Nat.testBit_lt_two_pow (by omega)
    simp only [hg, h63, hb, Bool.false_eq_true, ↓reduceIte]; rfl
  case count =>
    have h63 : (s1.W f.b).getLsbD 63 = false := Nat.testBit_lt_two_pow (by omega)
    simp only [hg, h63, hb, Bool.false_eq_true, Nat.lt_irrefl, ↓reduceIte]; rfl

/-! ## Messages -/

theorem State.sendBody_ok {s : State} {d p0 p1 : Word} (hs : s.t.mail.slot = none)
    (h0 : (s.sendMsg d p0 p1).dev = 0 → (s.clu (pclOf s.cur)).vValid ((s.sendMsg d p0 p1).dst / 64) = true)
    (h1 : (s.sendMsg d p0 p1).dev ≠ 0 → mhas s.outer.peerPort (s.sendMsg d p0 p1).dev = true) (hc : s.msgCut (s.sendMsg d p0 p1) = false) :
    s.sendBody d p0 p1 = .ok ((s.setT { s.t with mail := { s.t.mail with slot := some (s.sendMsg d p0 p1) } }).launchMsg
      (s.sendMsg d p0 p1)).advance := by
  have hn : ¬(((s.sendMsg d p0 p1).dev = 0 ∧ (s.clu (pclOf s.cur)).vValid ((s.sendMsg d p0 p1).dst / 64) = false) ∨
      ((s.sendMsg d p0 p1).dev ≠ 0 ∧ mhas s.outer.peerPort (s.sendMsg d p0 p1).dev = false) ∨ s.msgCut (s.sendMsg d p0 p1) = true) := by
    rintro (⟨ha, hb⟩ | ⟨ha, hb⟩ | hb)
    · rw [h0 ha] at hb; cases hb
    · rw [h1 ha] at hb; cases hb
    · rw [hc] at hb; cases hb
  simp only [State.sendBody, hs, Option.isSome_none, Bool.false_eq_true, ↓reduceIte, if_neg hn]

/-- What SLOTRD answers for the next entry of the schedule (R365). -/
def slotWord (ph frame : Nat) : Option SlotEnt → Word
  | none => ones64
  | some e => BitVec.ofNat 64 (e.wait ph frame + (if e.wait ph frame = 0 then e.start + e.len - ph else e.len) * 2 ^ 32)

/-- Settles O30: SENDS finds a slot of its schedule and sends as SEND does. -/
theorem messageInstructionsComplete : Obligations.MessageInstructionsComplete := by
  unfold Obligations.MessageInstructionsComplete
  intro f
  refine ⟨fun i hi s s1 h => ?send, fun s s1 n h hn => issue_ok h ?recv, fun s s1 n h hn => issue_ok h ?recvt,
    fun s s1 h ⟨hn, hd⟩ => issue_ok h ?late, fun s s1 n h hn => issue_ok h ?peek, fun s s1 h hn => issue_ok h ?peekNone,
    fun s s1 h => issue_ok h rfl, fun s s1 h ha => issue_ok h ?alarm, fun s s1 h => ?slotrd⟩
  case send =>
    intro m k hs h0 h1 hc hfit
    have hb := State.sendBody_ok hs h0 h1 hc
    rcases hi with rfl | rfl
    · exact issue_ok h hb
    · obtain ⟨hd, hl, e, he, hcore, hdst, hst, hlen⟩ := hfit rfl
      have hany : (k.slots.any fun e => e.core == coreNo s1.cur && e.dstv == bitsOf (s1.W f.a) 17 6 && decide (e.start ≤ s1.slotPhase) &&
          decide (s1.slotPhase < e.start + e.len)) = true :=
        List.any_eq_true.2 ⟨e, he, by simp [hcore, hdst, hst, hlen]⟩
      refine issue_ok h ?_
      rw [hs, Option.isSome_none, if_neg Bool.false_ne_true, if_neg ?_]
      · exact hb
      · rw [hl, hany, hd]
        decide
  case recv => simp only [hn]
  case recvt => simp only [hn]
  case late => simp only [hn, hd, ↓reduceIte]
  case peek => simp only [hn]
  case peekNone => simp only [hn]
  case alarm => simp only [ha, Bool.false_eq_true, ↓reduceIte]
  case slotrd =>
    intro k ph mine
    refine ⟨fun hno => issue_ok h ?none, fun n e hn he => issue_ok h ?some⟩
    case none =>
      have hv : (if k.log2f.isSome then nextSlot ph (2 ^ k.log2f.getD 32) mine else none) = none := by
        rcases hno with hno | hno
        · simp [hno]
        · simp [hno, nextSlot]
      exact congrArg (fun o => Res.ok (s1.result f (slotWord ph (2 ^ k.log2f.getD 32) o))) hv
    case some =>
      have hv : (if k.log2f.isSome then nextSlot ph (2 ^ k.log2f.getD 32) mine else none) = some e := by simpa [hn] using he
      refine (congrArg (fun o => Res.ok (s1.result f (slotWord ph (2 ^ k.log2f.getD 32) o))) hv).trans ?_
      rw [hn]
      rfl

end Sys2Proof.Machine

/-! # Domains, tasks and virtual time (R27, R366 to R386) -/

namespace Sys2Proof.Machine

/-! ## Domains -/

theorem State.arrive_ok {s : State} {l kind : Nat} (ha : s.arrival l ≠ 2) (hr : s.released s.cur = true) (k : State → Res) :
    s.arrive l kind k =
      k ((s.dropMarks s.cur).setT { (s.dropMarks s.cur).t with
        spec := { (s.dropMarks s.cur).t.spec with arr := mset (s.dropMarks s.cur).t.spec.arr l kind } }) := by
  rw [State.arrive, if_neg ha, State.afterRelease_free (fun _ => hr)]

theorem dsync_ok {w : Bool} {f : Fld} {s s1 : State} (h : Opens { irrev := true } f s s1)
    (ha : s1.arrival (s1.resolve s1.cur f.b.toNat) ≠ 2) (hu : s1.entriesUsed = 0) (hr : s1.released s1.cur = true) : dsync w f s = .next
      (let l := s1.resolve s1.cur f.b.toNat
       let s2 := s1.dropMarks s1.cur
       let s3 := s2.setT { s2.t with spec := { s2.t.spec with arr := mset s2.t.spec.arr l 2 } }
       ((s3.setT { s3.t with sys := { s3.t.sys with vt := barrierVt s3.t.sys.vt (s3.dom s3.cur l).gvt },
                             spec := { s3.t.spec with sdom := l, syncWait := w } }).takeCkpt).advance) := by
  refine issue_ok h ?_
  rw [if_neg ha, if_neg (by simp [hu]), State.arrive_ok ha hr]

theorem State.formReq_ok {s : State} (a : BitVec 6) (st : Nat) (done : State) (hv : s.vcl0 s.t.lid = true) :
    s.formReq a st done = .ok ((if st = 0 then done else s).setW a (BitVec.ofNat 64 st)).advance := by
  rw [State.formReq, hv]; rfl

/-- Settles O31: the arrivals, the reads, the four functions of DLEVEL, and LAUNCH. -/
theorem domainInstructionsComplete : Obligations.DomainInstructionsComplete := by
  unfold Obligations.DomainInstructionsComplete
  intro f
  refine ⟨fun i w hi s s1 h => ?dsync, fun s s1 h => ?dcomm, fun s s1 h => issue_ok h rfl, fun s s1 h => issue_ok h rfl, fun s s1 h => ?dlevel,
    fun s s1 s2 b h hr hl => ?launch⟩
  case dsync =>
    intro l ha hu hr
    have e : exec i s = dsync w f s := by
      simp only [List.mem_cons, Prod.mk.injEq, List.not_mem_nil, or_false] at hi
      rcases hi with ⟨rfl, rfl⟩ | ⟨rfl, rfl⟩
      all_goals rfl
    rw [e]
    exact dsync_ok h ha hu hr
  case dcomm =>
    intro l
    exact ⟨fun ha => issue_ok h (if_pos ha), fun h1 h2 hr => issue_ok h ((if_neg h1).trans (State.arrive_ok h2 hr _))⟩
  case dlevel =>
    intro o level
    refine ⟨fun h0 => issue_ok h ?read, fun h1 => issue_ok h ?word, fun s2 b h2 hs hl hv => ?form, fun h3 hs hv => ?dissolve⟩
    case read => simp only [o] at h0; simp only [h0]; rfl
    case word => simp only [o] at h1; simp only [h1]; rfl
    case form =>
      intro st
      refine issue_ok h ?_
      simp only [o] at h2
      simp only [h2, hs, Bool.false_eq_true, ↓reduceIte, hl, Got.res]
      exact State.formReq_ok f.a _ _ hv
    case dissolve =>
      intro k
      simp only [o] at h3
      refine ⟨fun hlev hf => issue_ok h ?_, fun hbad => issue_ok h ?_⟩
      · have hbad : ¬((bitsOf (s1.W f.b) 2 0 ≠ 2 ∧ bitsOf (s1.W f.b) 2 0 ≠ 3) ∨ k.formed (bitsOf (s1.W f.b) 2 0) = false) := by
          rintro (⟨h2, h3⟩ | hu)
          · exact hlev.elim h2 h3
          · rw [show k.formed (bitsOf (s1.W f.b) 2 0) = true from hf] at hu; cases hu
        simp only [h3, hs, Bool.false_eq_true, ↓reduceIte, State.formReq_ok f.a _ _ hv]
        rw [if_neg hbad]
        rfl
      · simp only [h3, hs, Bool.false_eq_true, ↓reduceIte, State.formReq_ok f.a _ _ hv]
        rw [if_pos hbad]
        rfl
  case launch =>
    intro q hw st
    refine issue_ok h ?_
    have hn : ¬(bitsOf (s2.W f.b) 63 12 = 0 ∧ s2.launchWaits q = true) := fun ⟨h1, h2⟩ => by rw [hw h1] at h2; cases h2
    simp only [State.afterRelease_free (fun _ => hr), hl, Got.res]
    exact if_neg hn

/-- Settles O32: the level that an instruction names is resolved from the member unit's DINFO. -/
theorem unformedLevelActsAsWider : Obligations.UnformedLevelActsAsWider := by
  unfold Obligations.UnformedLevelActsAsWider
  intro s c formed
  have r3 : s.resolve c 3 = if (s.clu (pclOf c)).formed 3 then 3 else 4 := rfl
  have r2 : s.resolve c 2 = if (s.clu (pclOf c)).formed 2 then 2 else s.resolve c 3 := by rw [r3]; rfl
  have same (s1 : State) (hd : (s1.clu (pclOf c)).dom = (s.clu (pclOf c)).dom) (l : Nat) : s1.resolve c l = s.resolve c l := by
    have e : (s1.clu (pclOf c)).formed = (s.clu (pclOf c)).formed := by funext l; rw [Cluster.formed, hd]; rfl
    simp only [State.resolve, Cluster.resolve, e]
  refine ⟨fun h => r3.trans (if_pos h), fun h => r3.trans (if_neg h), fun h => r2.trans (if_pos h), fun h => r2.trans (if_neg h),
    fun l hl => ?fixed, fun f s1 h hc hd h0 hl => issue_ok h ?dlevel, fun f s1 h hc hd => ⟨issue_ok h ?dprobe, issue_ok h ?gvtrd⟩⟩
  case fixed => rcases hl with rfl | rfl | rfl <;> rfl
  case dlevel =>
    simp only [h0, Nat.not_lt.2 hl, ↓reduceIte]
    rw [← hc, same s1 hd]
    rfl
  case dprobe => rw [← hc, same s1 hd]; rfl
  case gvtrd => rw [← hc, same s1 hd]; rfl

/-! ## Tasks -/

/-- Settles O33: the statuses of TENQ in their order, and the tasks taken and given back. -/
theorem taskInstructionsComplete : Obligations.TaskInstructionsComplete := by
  unfold Obligations.TaskInstructionsComplete
  intro f
  refine ⟨fun s s1 h => ?tenq, fun s s1 h hb => ?tnext, fun s s1 h ht => issue_ok h ?none, fun s s1 h hb => issue_ok h ?done,
    fun s s1 h => issue_ok h rfl, fun s s1 h => issue_ok h rfl, fun s s1 h => issue_ok h rfl, fun s s1 h => issue_ok h rfl⟩
  case tenq =>
    intro x bad l u q tie key gvt
    have hb (hbad : ¬bad) : (bitsOf x 63 51 != 0 || decide (4 < bitsOf x 50 48) || bitsOf x 47 0 == 2 ^ 48 - 1) = false := by
      simp only [bad, not_or, Classical.not_not] at hbad
      obtain ⟨h1, h2, h3⟩ := hbad
      simp only [h1, beq_eq_false_iff_ne.2 h3, h2, bne_self_eq_false, decide_false, Bool.or_self]
    have body (hbad : ¬bad) (hm : mhas (s1.launch s1.t.lid).pcls (unitVc l u) = true) (st : Nat)
        (hst : enqStatus false (decide (512 ≤ q.tasks.length)) key gvt tie = st) : exec (.tenq f) s = .next
          ((if st = 0 then s1.enqTask s1.t.lid l u
            { level := l, unit := u, key := key, pay0 := s1.W f.b, pay1 := s1.Wn f.b 1, last := tie } else s1).result f (BitVec.ofNat 64 st)) := by
      subst hst
      refine issue_ok h ?_
      have hb' := hb hbad
      simp only [x] at hb'
      simp only [hb', Bool.false_eq_true, ↓reduceIte]
      exact if_neg (by rw [hm]; decide)
    refine ⟨fun hbad => ?_, fun hbad hm => ⟨fun hf => ?_, fun hf hg => ?_, fun hf hg ht => ?_, fun hf hg ht => ?_⟩⟩
    · have hbad' : (bitsOf x 63 51 != 0 || decide (4 < bitsOf x 50 48) || bitsOf x 47 0 == 2 ^ 48 - 1) = true := by
        rcases hbad with h1 | h2 | h3
        · simp [h1]
        · simp [h2]
        · rw [beq_iff_eq.2 h3, Bool.or_true]
      exact issue_ok h (if_pos hbad')
    · exact body hbad hm 1 (by simp [enqStatus, hf])
    · exact body hbad hm 2 (by simp [enqStatus, Nat.not_le.2 hf, hg])
    · exact body hbad hm 3 (by simp [enqStatus, Nat.not_le.2 hf, Nat.not_le.2 hg, ht])
    · exact body hbad hm 0 (by simp [enqStatus, Nat.not_le.2 hf, Nat.not_le.2 hg, Nat.not_lt.2 ht])
  case tnext =>
    intro s2 l u hu hm
    refine ⟨fun hk => issue_ok h ?_, fun k hk => issue_ok h ?_⟩
    · rw [if_neg (by simp [hb]), if_neg (by simpa using hu), if_neg (by rw [hm]; decide)]
      simp only [s2, l, u] at hk
      simp only [hk]
      rfl
    · rw [if_neg (by simp [hb]), if_neg (by simpa using hu), if_neg (by rw [hm]; decide)]
      simp only [s2, l, u] at hk
      simp only [hk]
      rfl
  case none => simp only [ht, State.doneTask, Option.isSome_none, Bool.false_and, Bool.false_eq_true, ↓reduceIte]
  case done => simp only [hb, List.isEmpty_nil, Bool.not_true, Bool.and_false, Bool.false_eq_true, ↓reduceIte]

end Sys2Proof.Machine

/-! # System registers, traps and the privileged instructions (R388 to R418) -/

namespace Sys2Proof.Machine

/-! ## System registers -/

theorem State.withReg_ok {s : State} {n : Nat} {v : Word} (hs : s.sysReg n = some v) (hp : 0x100 ≤ n → s.t.privileged = true)
    (hv : n = 0x20 → (s.t.vec.seq.any fun e => e.page == 1) = false ∧ s.t.vec.under s.gtime = 0) (k : State → Word → Res) :
    s.withReg n k = k s v := by
  have priv : ¬(decide (0x100 ≤ n) && !s.t.privileged) = true := by
    rw [Bool.and_eq_true, decide_eq_true_eq]
    rintro ⟨hn, h⟩
    rw [hp hn] at h
    exact absurd h (by decide)
  rw [State.withReg, if_neg priv, hs]
  dsimp only
  split
  · next hn =>
    obtain ⟨hseq, hund⟩ := hv hn
    rw [State.afterVec, hseq, hund, hs]
    rfl
  · rfl

/-- Settles O35: what a register reads is by its number. -/
theorem systemRegistersComplete : Obligations.SystemRegistersComplete := by
  unfold Obligations.SystemRegistersComplete
  refine ⟨fun f v => ⟨fun s s1 h hp => ?rdsr, fun s s1 h hp => ?wrsr⟩, fun s n v old h => ?back⟩
  case rdsr => exact issue_ok h (State.withReg_ok hp.1 hp.2.1 hp.2.2 _)
  case wrsr => exact issue_ok h (State.withReg_ok hp.1 hp.2.1 hp.2.2 _)
  case back =>
    split
    case h_3 => exact State.sysReg_setSysReg_pw s v
    case h_18 =>
      have same : s.t.setSysReg n v = s.t := by simp [Thread.setSysReg, *]
      rw [same]
      simpa [State.sysReg] using h
    all_goals simp [State.sysReg, Thread.setSysReg, causeMask, fpcsrMask]

/-! ## Entry to a handler and return from it -/

/-- An instruction that is irreversible issues in no hold (R231). -/
theorem Opens.hold_none {f : Fld} {ns : List (BitVec 6)} {m : Nat} {s s1 : State}
    (h : Opens { mode := m, irrev := true, names := ns } f s s1) : s.t.hold = none := by
  have hold := h.hold
  rw [holdStop] at hold
  cases hx : s.t.hold with
  | none => rfl
  | some x =>
    rw [hx] at hold
    dsimp only at hold
    split at hold
    · cases hold
    · cases hold

theorem State.abandon_free {s : State} {c : Nat} (h : (s.thread c).hold = none) : s.abandon c = s := by rw [State.abandon, h]

/-- What every entry to a handler sets. -/
def Thread.toRun (t : Thread) : Thread := { t with qblk := none, mail := { t.mail with park := none }, st := .run, notBefore := t.completeAt }

/-- The thread at the entry of its own handler (R392). -/
def Thread.userTrapped (t : Thread) (cw pc val : Word) : Thread :=
  { (t.toRun.setTregs cw pc val none).setAct true with pc := t.userVec }

/-- The thread at the entry of the runtime's handler; the T registers are written where the thread's own handler was not running
(R390, R392). -/
def Thread.trapped (t : Thread) (cw pc val : Word) : Thread :=
  let t2 := (if t.act then t.toRun else t.toRun.setTregs cw pc val none).setKregs cw pc val none
  { t2 with sys := { t2.sys with kstat := if t.act then 1 else 0 }, mode := .runtime, pc := t.sys.kvec }

/-- Does the thread's own handler take the cause? -/
def Thread.routes (t : Thread) (cause : Nat) : Bool := !t.act && t.sys.tvec.getLsbD (32 + cause) && userRoutable cause

theorem Thread.act_setAct (t : Thread) (b : Bool) : (t.setAct b).act = b := by
  cases b <;> simp [Thread.setAct, Thread.act]

theorem State.takeTrap_user {s : State} {cause : Nat} (cw pc val : Word) (hh : s.t.hold = none) (hm : s.t.mode = .user)
    (hr : s.t.routes cause = true) : s.takeTrap s.cur cause cw pc val none = s.setT (s.t.userTrapped cw pc val) := by
  have hp : s.t.privileged = false := by rw [Thread.privileged, hm]; rfl
  rw [Thread.routes] at hr
  rw [State.takeTrap, State.abandon_free hh, show s.thread s.cur = s.t from rfl]
  dsimp only
  rw [if_neg (by simp [hm]), if_neg (by simp [hp]), if_pos hr]
  rfl

theorem State.takeTrap_runtime {s : State} {cause : Nat} (cw pc val : Word) (hh : s.t.hold = none) (hm : s.t.mode = .user)
    (hr : s.t.routes cause = false) (hc : cause ≠ cPREEMPT) (hk : s.t.sys.kvec ≠ 0) :
    s.takeTrap s.cur cause cw pc val none = s.setT (s.t.trapped cw pc val) := by
  have hp : s.t.privileged = false := by rw [Thread.privileged, hm]; rfl
  rw [Thread.routes] at hr
  rw [State.takeTrap, State.abandon_free hh, show s.thread s.cur = s.t from rfl]
  dsimp only
  rw [if_neg (by simp [hm]), if_neg (by simp [hp]), if_neg (by simp [hr]), if_neg hc, if_neg hk]
  rfl

/-- Settles O36: the trap is recorded once what precedes it is complete, and its handler is that of its route. -/
theorem trapInstructionsEnter : Obligations.TrapInstructionsEnter := by
  unfold Obligations.TrapInstructionsEnter
  intro f i cause val hi s s1 h hm ha hc y
  have taken : exec i s = .next (s.takeTrap s.cur cause (causeWord cause 0 0 0) s.ir.next val none) ∧ userRoutable cause = true ∧
      cause ≠ cPREEMPT := by
    have stop : s.stopped (.trapAfter cause val) s = s.takeTrap s.cur cause (causeWord cause 0 0 0) s.ir.next val none := by
      rw [State.stopped]
      · dsimp only
        rw [if_neg (by simp [h.irrev rfl, hc])]
      · exact fun e => nomatch e
    simp only [List.mem_cons, Prod.mk.injEq, List.not_mem_nil, or_false] at hi
    rcases hi with ⟨rfl, rfl, rfl⟩ | ⟨rfl, rfl, rfl⟩
    all_goals exact ⟨(issue_opens h _).trans (congrArg _ stop), rfl, by decide⟩
  obtain ⟨run, routable, notPreempt⟩ := taken
  refine ⟨fun hv => ⟨_, run.trans (congrArg _ (State.takeTrap_user _ _ _ h.hold_none hm (by simpa [Thread.routes, ha, routable] using hv))), ?_⟩,
    fun hv hk => ⟨_, run.trans (congrArg _ (State.takeTrap_runtime _ _ _ h.hold_none hm
      (by simp only [Thread.routes, hv, Bool.and_false, Bool.false_and, y]) notPreempt hk)), ?_⟩⟩
  · simp only [State.t_setT]
    exact ⟨rfl, Thread.act_setAct _ true, hm, rfl, rfl, rfl, rfl, rfl, rfl, rfl⟩
  · rw [State.t_setT, Thread.trapped, ha]
    exact ⟨rfl, rfl, ha, rfl, rfl, rfl, rfl, rfl, rfl, rfl, rfl, rfl, rfl⟩

theorem State.trapReturn_privileged {s : State} (h : s.t.privileged = true) : s.trapReturn =
    some (s.setT { s.t.setAct (s.t.sys.kstat.getLsbD 0) with mode := modeAfter s.cur s.t.mode, pc := s.t.sys.kpc &&& ~~~(1 : Word) }) := by
  simp only [State.trapReturn, h, ↓reduceIte]

theorem State.trapReturn_user {s : State} (h : s.t.privileged = false) (ha : s.t.act = true) : s.trapReturn =
    some (s.setT { s.t.setAct false with pc := s.t.sys.tpc &&& ~~~(1 : Word) }) := by
  simp only [State.trapReturn, h, ha, Bool.false_eq_true, ↓reduceIte]

/-- Settles O37: ERET gives back what the K registers, or TPC, hold; what a trap wrote there is what it returns to. -/
theorem trapReturnCompletes : Obligations.TrapReturnCompletes := by
  unfold Obligations.TrapReturnCompletes
  refine ⟨fun f s s1 h => ⟨fun hm ha => issue_ok h ?user, fun hm hs hh => issue_ok h ?runtime, fun hm ha => ?outside⟩,
    fun s cause cw pc val => ?trip⟩
  case user =>
    have hp : s1.t.privileged = false := by rw [Thread.privileged, hm]; rfl
    rw [State.trapReturn_user hp ha]
  case runtime =>
    have hp : s1.t.privileged = true := by rw [Thread.privileged, hm]; rfl
    rw [State.trapReturn_privileged hp, modeAfter, hs, hh]
    rfl
  case outside =>
    have hp : s1.t.privileged = false := by rw [Thread.privileged, hm]; rfl
    have none : s1.trapReturn = none := by simp only [State.trapReturn, hp, ha, Bool.false_eq_true, ↓reduceIte]
    refine (issue_opens h _).trans ?_
    rw [none]
    rfl
  case trip =>
    intro u hm hh hs hx hc hk
    have even (w : Word) : (w &&& ~~~(1 : Word)) &&& ~~~(1 : Word) = w &&& ~~~(1 : Word) := by rw [BitVec.and_assoc, BitVec.and_self]
    have bit (b : Bool) : (if b then 1 else 0 : Word).getLsbD 0 = b := by cases b <;> decide
    have user (m : Mode) (c : Nat) (e : c = s.cur) : modeAfter c m = .user := by rw [e, modeAfter, hs, hx]; rfl
    cases hr : s.t.routes cause
    · have hu : u = s.setT (s.t.trapped cw pc val) := State.takeTrap_runtime cw pc val hh hm hr hc hk
      rw [hu, State.trapReturn_privileged (by rw [State.t_setT]; rfl), State.t_setT]
      refine ⟨_, rfl, ?_⟩
      rw [State.t_setT, Thread.trapped]
      cases ha : s.t.act
      · exact ⟨even pc, user _ _ rfl, (Thread.act_setAct _ _).trans (bit _), rfl, rfl, rfl, rfl, rfl⟩
      · exact ⟨even pc, user _ _ rfl, (Thread.act_setAct _ _).trans (bit _), rfl, rfl, rfl, rfl, rfl⟩
    · have hu : u = s.setT (s.t.userTrapped cw pc val) := State.takeTrap_user cw pc val hh hm hr
      have ha : s.t.act = false := by
        rw [Thread.routes, Bool.and_eq_true, Bool.and_eq_true, Bool.not_eq_true'] at hr
        exact hr.1.1
      have mode : (s.t.userTrapped cw pc val).mode = .user := hm
      rw [hu, State.trapReturn_user (by rw [State.t_setT, Thread.privileged, mode]; rfl) (by rw [State.t_setT]; exact Thread.act_setAct _ true), State.t_setT]
      refine ⟨_, rfl, ?_⟩
      rw [State.t_setT, ha]
      exact ⟨even pc, hm, Thread.act_setAct _ false, rfl, rfl, rfl, rfl, rfl⟩

/-! ## Translations and the coprocessor ring -/

theorem State.invalidate_ok {s : State} {asid : Option Nat} {near : Nat → Bool} (hit : TlbEnt → Bool) (hr : s.released s.cur = true)
    (ht : s.translatedOut asid near = false) :
    s.invalidate asid near hit = .ok (({ s with tlb := s.tlb.filter fun e => !hit e } : State).acquire s.cur).advance := by
  rw [State.invalidate, State.afterRelease_free (fun _ => hr), ht]
  rfl

/-- Settles O38: the entries that an instruction names leave; the ring is searched from its newest entry. -/
theorem privilegedReadsComplete : Obligations.PrivilegedReadsComplete := by
  unfold Obligations.PrivilegedReadsComplete
  intro f
  refine ⟨fun s s1 h hr => fun ht => issue_ok h (State.invalidate_ok _ hr ht), fun s s1 h hr => ⟨fun hb ht => issue_ok h ?all,
    fun hb ht => issue_ok h ?one⟩, fun s s1 h hh => ?ring⟩
  case all =>
    simp only [hb, ↓reduceIte]
    have gone : (s1.tlb.filter fun e => !(true || e.asid == bitsOf (s1.W f.a) 15 0)) = [] :=
      List.filter_eq_nil_iff.2 fun _ _ => Bool.false_ne_true
    rw [State.invalidate_ok _ hr ht, gone]
  case one =>
    simp only [hb, Bool.false_eq_true, ↓reduceIte, Bool.false_or]
    exact State.invalidate_ok _ hr ht
  case ring =>
    intro w x ring
    have named : (if s1.t.privileged && w.getLsbD 24 then bitsOf w 21 20 else if isHandler s1.cur then 4 else s1.cur % 4) = x := by
      simp only [hh, Bool.and_eq_true, Bool.false_eq_true, ↓reduceIte, x]
    have hit (d : RingEnt) : (d.ctx == x && d.seqno.toNat == bitsOf w 11 0) = true ↔ d.ctx = x ∧ d.seqno.toNat = bitsOf w 11 0 := by simp
    refine ⟨fun hn => issue_ok h ?absent, fun newer e older hr hx hs hd => issue_ok h ?found⟩
    case absent =>
      dsimp only
      rw [named, List.find?_eq_none.2 fun d hd => mt (hit d).1 (hn d hd)]
      rfl
    case found =>
      have first : ring.find? (fun d => d.ctx == x && d.seqno.toNat == bitsOf w 11 0) = some e :=
        hr ▸ List.find?_eq_some_iff_append.2 ⟨(hit e).2 ⟨hx, hs⟩, newer, older, rfl, fun d m => by
          rw [Bool.not_eq_true', ← Bool.not_eq_true]
          exact mt (hit d).1 (hd d m)⟩
      dsimp only
      rw [named, first]
      rfl

/-! ## Contexts and masters that a handler or the steward acts on -/

/-- Settles O39: the record is the body's; an id is no master, or names one that is frozen or is not. -/
theorem handlerAndStewardComplete : Obligations.HandlerAndStewardComplete := by
  unfold Obligations.HandlerAndStewardComplete
  intro f
  refine ⟨fun s s1 s2 h ha hs => issue_ok h ?save, fun s s1 s2 b h ha hs => issue_ok h ?rest,
    fun s s1 h => ⟨fun hm => issue_ok h ?thawNone, fun m hm h1 h0 hf => issue_ok h ?thawIdle, fun c hm hw hf => issue_ok h ?thaw⟩,
    fun s s1 h => ⟨fun hm => issue_ok h ?killNone, fun c hm he => issue_ok h ?killEmpty, fun c hm he hh => issue_ok h ?kill⟩⟩
  case save =>
    dsimp only
    rw [if_neg (Classical.not_not.2 ha), hs]
  case rest =>
    dsimp only
    rw [if_neg (Classical.not_not.2 ha), hs]
    cases b <;> rfl
  case thawNone => rw [State.thaw, hm]; rfl
  case thawIdle =>
    rw [State.thaw, hm]
    simp only [h1, h0, hf, ne_eq, not_true_eq_false, false_or, Bool.false_eq_true, false_and, Bool.not_false, ↓reduceIte]
    rfl
  case thaw =>
    have frozen : s1.isFrozen (.thread c) = true := by rw [State.isFrozen, hf]; rfl
    rw [State.thaw, hm, hw]
    dsimp only
    rw [frozen]
    rfl
  case killNone => rw [State.kill, hm]; rfl
  case killEmpty =>
    rw [State.kill, hm]
    dsimp only
    rw [if_pos he]
    rfl
  case kill =>
    rw [State.kill, hm]
    dsimp only
    rw [if_neg he, hh]
    rfl

end Sys2Proof.Machine

/-! # What the engines' events do (R214, R268 to R288, R300 to R347) -/

namespace Sys2Proof.Machine

/-! ## The copy engine -/

/-- A completion that no unit, no decrement and no earlier state holds up (R268, R269). -/
theorem copyComplete_eq {s : State} {pcl slot : Nat} {k : Cmd} (hc : (s.clu pcl).cmd slot = some k) (h0 : k.state = 0)
    (hp : k.prep = true) (hu : k.units = []) (hd : ∀ d ∈ s.decs, ¬(d.lid = k.lid ∧ d.cvcl = (s.clu pcl).vcl ∧ d.slot = slot)) :
    exec (.copyComplete pcl slot) s = .next (
      let s1 := s.setCmd pcl { k with state := 3 }
      let s2 := s1.postDone (s.clu pcl).vcl slot k.lid k.tid k.tag k.written k.status k.block k.vt
      let q := s2.clu pcl
      let s3 := if k.fn = 3 then
        s2.setClu pcl { q with mcasts := q.mcasts.map fun m => if m.tag = k.tag then { m with done := true } else m } else s2
      ((if k.pen && !k.voided && decide (k.promise < k.fin) then s3.promiseTo k.lid k.tid else none).map fun c =>
        s3.setThread c { s3.thread c with promise := (s3.thread c).promise ++ [k.block] }).getD s3) := by
  have x : exec (.copyComplete pcl slot) s = execCopyComplete pcl slot s := rfl
  have free : ¬(k.state ≠ 0 ∨ (!k.prep) = true ∨ (!k.units.isEmpty) = true ∨
      (s.decs.any fun d => d.lid == k.lid && d.cvcl == (s.clu pcl).vcl && d.slot == slot) = true) := by
    simpa [h0, hp, hu, List.any_eq_true, and_assoc] using hd
  rw [x, execCopyComplete, hc]
  dsimp only
  rw [if_neg free]
  generalize (if k.pen && !k.voided && decide (k.promise < k.fin) then _ else none : Option Nat) = o
  cases o <;> rfl

/-- Settles O40: what each event finds is there, and nothing holds it up. -/
theorem copyEventsHappen : Obligations.CopyEventsHappen := by
  unfold Obligations.CopyEventsHappen
  refine ⟨fun s pcl slot k hc h0 hp hu hd => ?complete, fun s n d p q x hd hp hq hx => ?decrement, fun s pcl tag m hm hn => ?allfree,
    fun s pcl slot n k u hc h0 hp hu hcut hw => ?copy, fun s pcl half slot n g r j u hg hr hj hu hf hw hcut hdue => ?matrix⟩
  case complete =>
    intro s1 s2 q s3
    have e := copyComplete_eq hc h0 hp hu hd
    refine ⟨fun hno => e.trans ?_, fun hpen hv hlt c hto => e.trans ?_⟩
    · have silent : ¬(k.pen && !k.voided && decide (k.promise < k.fin)) = true := by
        rcases hno with h | h | h
        · simp [h]
        · simp [h]
        · simp [Nat.not_lt.2 h]
      simp only [if_neg silent]
      rfl
    · have speaks : (k.pen && !k.voided && decide (k.promise < k.fin)) = true := by simp [hpen, hv, hlt]
      simp only [if_pos speaks]
      exact congrArg (fun o : Option Nat => Host.Outcome.next ((o.map fun c =>
        s3.setThread c { s3.thread c with promise := (s3.thread c).promise ++ [k.block] }).getD s3)) hto
  case decrement =>
    have e : exec (.countedDecrement n) s = execCountedDecrement n s := rfl
    rw [e, execCountedDecrement]
    simp only [hd, hp, hq, hx]
  case allfree =>
    have e : exec (.allfree pcl tag) s = execAllfree pcl tag s := rfl
    have none : ((s.clu pcl).cmds.any fun x => x.fn == 3 && x.tag == tag) = false := by simpa using hn
    rw [e, execAllfree]
    simp only [none, Bool.not_false, Bool.and_true, hm]
  case copy =>
    have e : exec (.engineUnitWrite pcl 0 slot n) s = .next (s.copyTurn pcl slot n) := rfl
    rw [e, State.copyTurn]
    simp only [hc, h0, hp, ne_eq, not_true_eq_false, ↓reduceIte, State.copyWrite, hu, hcut, hw, Bool.not_true, Bool.false_eq_true]
  case matrix =>
    have e : exec (.engineUnitWrite pcl (1 + half) slot n) s = .next (s.jobWrite pcl half slot n) := by
      change Host.Outcome.next (if 1 + half = 0 then _ else s.jobWrite pcl (1 + half - 1) slot n) = _
      rw [if_neg (by omega), Nat.add_sub_cancel_left]
    rw [e, State.jobWrite]
    simp only [hg, hr, hj, hu, hf, hw, hcut, hdue, Bool.or_self, Bool.not_true, Bool.false_eq_true, ↓reduceIte]

/-! ## The stream unit -/

/-- The entry that follows the current one settles what the lookahead of a C level does next, unless nothing is wanted there
(R300). -/
theorem Strm.lookStep_next {r : Strm} {o : LookStep} (hk : (levOf r.dsc r.level).kind = 1) (hs : r.posn.toNat + 1 < r.send.toNat)
    (ha : r.lookAt r.dsc (r.posn.toNat + 1) = o) (ho : o ≠ .none) : r.lookStep = o := by
  obtain ⟨n, hn⟩ : ∃ n, min 64 (r.send.toNat - r.posn.toNat - 1) = n + 1 := Nat.exists_eq_add_one.2 (by omega)
  have first : (fun o : LookStep => o != .none) o = true := by simpa using ho
  rw [Strm.lookStep, hk]
  rw [Strm.lookCrd, hn, List.range_succ_eq_map, List.map_cons, Nat.add_zero, ha, List.find?_cons_of_pos (p := (· != LookStep.none)) first]
  rfl

theorem Strm.lookAt_unread {r : Strm} {k : Nat} (hn : k < (levOf r.dsc r.level).ncrd) (hk : r.known (levOf r.dsc r.level) k = none) :
    r.lookAt r.dsc k = .own k ((levOf r.dsc r.level).crd + 4 * k) 4 := by
  rw [Strm.lookAt]
  rw [if_neg (Nat.not_le.2 hn), hk]

/-- A coordinate that is not below SIZE is recorded (R302). -/
theorem Strm.lookAt_beyond {r : Strm} {k v : Nat} (hn : k < (levOf r.dsc r.level).ncrd)
    (hk : r.known (levOf r.dsc r.level) k = some v) (hv : (levOf r.dsc r.level).size ≤ v) :
    r.lookAt r.dsc k = .malformed k 2 ((levOf r.dsc r.level).crd + 4 * k) := by
  rw [Strm.lookAt]
  rw [if_neg (Nat.not_le.2 hn), hk]
  dsimp only
  rw [Strm.lookCheck]
  dsimp only
  rw [if_pos hv]

theorem streamLookahead_eq {s : State} {pid n : Nat} (hm : s.mayLook pid n = true) :
    exec (.streamLookahead pid n) s = .next (match ((s.thread pid).sr n).lookStep with
      | .none => s
      | .malformed k sub a => s.putSr pid n (((s.thread pid).sr n).record k 2 sub 0 a)
      | .own k a bytes => s.lookTurn pid n k a bytes true
      | .below a => s.lookTurn pid n 0 a 4 false) := by
  have e : exec (.streamLookahead pid n) s = execStreamLookahead pid n s := rfl
  rw [e, execStreamLookahead, hm]
  rfl

theorem State.drainUnits_ok {s : State} {pid : Nat} {us0 us : List UnitW} {l : Loc}
    (h0 : s.engTarget (s.saveWho pid) (s.recBase pid + 0x800) (s.thread pid).images [] = .ok us0)
    (hl : s.access (s.saveWho pid) (s.recBase pid + 0xCDD) 1 1 { r := true } = .ok l)
    (hu : s.engTarget (s.saveWho pid) (s.recBase pid + 0xCDD) [BitVec.ofNat 8 (s.readAt l 1 ||| 2)] us0 = .ok us) :
    s.drainUnits pid = .ok us := by
  unfold State.drainUnits
  generalize s.recBase pid + 0xCDD = a at *
  rw [h0]
  dsimp only
  rw [hl]
  exact hu

/-! ## The matrix engine -/

theorem matrixJobComplete_eq {s : State} {pcl half slot : Nat} {g : Group} {j : Job} (hg : s.grp pcl half slot = some g)
    (hj : g.jobs.head? = some j) (hp : g.place.isSome = true) (ht : ((s.clu pcl).eng half).turnOf slot g = true) :
    exec (.matrixJobComplete pcl half slot) s = .next (s.jobTurn pcl half slot g j) := by
  have e : exec (.matrixJobComplete pcl half slot) s = execMatrixJobComplete pcl half slot s := rfl
  have hn : g.place.isNone = false := by rw [← Option.not_isSome, hp]; rfl
  rw [e, execMatrixJobComplete]
  simp only [hg, hj, hn, ht, Bool.not_true, Bool.false_eq_true, ↓reduceIte]

/-- A job that is not running starts, unless a save holds the engines (R329). -/
theorem State.jobTurn_starts {s : State} {pcl half n : Nat} {g : Group} {j : Job} (hr : g.run = none) (hh : s.enginesHeld pcl = false) :
    s.jobTurn pcl half n g j =
      (let g1 := { g with lastStart := ((s.clu pcl).eng half).stamp }
       if j.solver then s.solveStart pcl half n g1 j else s.jobStart pcl half n g1 j) := by
  rw [State.jobTurn]
  split
  · simp only [hh, Bool.false_eq_true, ↓reduceIte]
  · next r h => exact absurd (hr.symm.trans h) (by simp)

theorem State.jobTurn_goes {s : State} {pcl half n : Nat} {g : Group} {j : Job} {r : Run} (hr : g.run = some r) :
    s.jobTurn pcl half n g j =
      (if !j.solver then (if r.units.isEmpty then s.jobEnd pcl half n g j r.after 0 else s)
       else if 16 * r.step < j.n then (if s.enginesHeld pcl then s else s.solveTurn pcl half n g j r)
       else if r.units.isEmpty then s.jobEnd pcl half n g j (r.solved g.ctx j) 0 else s) := by
  rw [State.jobTurn]
  split
  · next h => exact absurd (hr.symm.trans h) (by simp)
  · next r' h =>
    obtain rfl : r' = r := Option.some.inj (h.symm.trans hr)
    rfl

theorem State.solveStart_ok {s : State} {pcl half n : Nat} {g : Group} {j : Job} {m f : List (List Nat)}
    (hc : s.solveCheck pcl j = none) (hm : s.readTarget pcl j = .ok m) (hf : s.readFactor pcl j = .ok f) :
    s.solveStart pcl half n g j =
      (s.ownRest pcl half n j (s.destUnits pcl j)).setGrp pcl half n { g with run := some { rows := m, factor := f } } := by
  unfold State.solveStart
  simp only [hc, hm, hf]

/-- A drain of a group that runs no job (R331). The function is unfolded as a constant: the kernel then never has two matches on
`engTarget` to compare. -/
theorem State.drainGroup_idle {s : State} {pcl half n : Nat} {g : Group} {us : List UnitW} (hrun : g.run = none)
    (hu : s.engTarget (s.groupWho pcl g) (s.groupArea pcl half g) g.area [] = .ok us) (hr : us.all s.unitReady = true) :
    s.drainGroup pcl half n g =
      (us.foldl (fun (a : State) u => a.writeUnit { c := none, vt := 0, code := 3 } u 0) s).setGrp pcl half n
        { g with place := none, drained := true, areaAt := g.areaNo half } := by
  have ready : (us.any fun u => !s.unitReady u) = false := by simpa using hr
  generalize hf : @State.drainGroup = f
  delta State.drainGroup at hf
  subst hf
  generalize @State.engTarget = target at hu ⊢
  as_aux_lemma =>
    dsimp only
    rw [hu]
    dsimp only
    rw [ready, if_neg (by decide), hrun]

/-- Settles O41: the lookahead's next entry, the drains, and the turn of a resident group's oldest job. -/
theorem streamAndMatrixEventsHappen : Obligations.StreamAndMatrixEventsHappen := by
  unfold Obligations.StreamAndMatrixEventsHappen
  refine ⟨fun s pid n hm => ?look, fun s pid us0 l us hm h0 hl hu hfree => ?drain, fun s pcl half slot g j hg hj hp ht => ?job,
    fun s pcl half slot g us hg hm hfree hwant hold hrun hu hready => ?matrix⟩
  case look =>
    intro r x k a s0 hkind hsend hn
    refine ⟨fun v hk hv => ?_, fun hk hl => ?_, fun s1 l v hk hl hacc hload => ?_⟩
    · rw [streamLookahead_eq hm, Strm.lookStep_next hkind hsend (Strm.lookAt_beyond hn hk hv) (by simp)]
      rfl
    · rw [streamLookahead_eq hm, Strm.lookStep_next hkind hsend (Strm.lookAt_unread hn hk) (by simp)]
      simp only [State.lookTurn, hl]
    · rw [streamLookahead_eq hm, Strm.lookStep_next hkind hsend (Strm.lookAt_unread hn hk) (by simp)]
      simp only [State.lookTurn, hl, Bool.not_true, Bool.false_eq_true, and_self, ↓reduceIte, State.lookRead]
      rw [show (s.setLook pid none).access _ _ _ _ _ = _ from hacc]
      dsimp only
      rw [show (s.setLook pid none).loadAs _ _ _ _ _ _ _ = _ from hload]
      rfl
  case drain =>
    have e : exec (.streamContextDrain pid) s = execStreamContextDrain pid s := rfl
    have units : s.drainUnits pid = .ok us := State.drainUnits_ok h0 hl hu
    have free : (us.any fun u => s.reserved none u.loc (unitSize u.loc) || s.leaseHolds u.loc || !s.dramReady u.loc (unitSize u.loc) ||
        s.isOwned u.loc (unitSize u.loc)) = false := by
      rw [List.any_eq_false]
      intro u hu
      obtain ⟨hr, hh, hd, ho⟩ := hfree u hu
      simp [hr, hh, hd, ho]
    rw [e, execStreamContextDrain]
    simp only [hm, units, free, Bool.not_true, Bool.false_eq_true, ↓reduceIte]
  case job =>
    intro g1
    rw [matrixJobComplete_eq hg hj hp ht]
    refine ⟨fun hsol => ⟨fun r hr hu => ?_, fun s1 x hr hh hx => ?_, fun s1 x u us hr hh hx => ?_⟩,
      fun hsol => ⟨fun m f hr hh hc hm hf => ?_, fun r hr hstep hh => ?_, fun r hr hstep hu => ?_⟩⟩
    · rw [State.jobTurn_goes hr, hsol, hu]
      rfl
    · rw [State.jobTurn_starts hr hh, hsol]
      simp only [Bool.false_eq_true, ↓reduceIte, State.jobStart, hx, List.isEmpty_nil, g1]
    · rw [State.jobTurn_starts hr hh, hsol]
      simp only [Bool.false_eq_true, ↓reduceIte, State.jobStart, hx, List.isEmpty_cons, g1]
    · rw [State.jobTurn_starts hr hh, hsol]
      exact congrArg _ (State.solveStart_ok hc hm hf)
    · intro q r1
      rw [State.jobTurn_goes hr, hsol, if_neg (by decide), if_pos hstep, hh, if_neg (by decide), State.solveTurn]
      refine ⟨fun h => congrArg _ (if_pos h), fun us h hs => congrArg _ ((if_neg (Nat.not_lt.2 h)).trans ?_)⟩
      rw [hs]
    · rw [State.jobTurn_goes hr, hsol, if_neg (by decide), if_neg (Nat.not_lt.2 hstep), hu]
      rfl
  case matrix =>
    have e : exec (.matrixContextDrain pcl half slot) s = execMatrixContextDrain pcl half slot s := rfl
    have wanted : (((s.clu pcl).eng half).groups.any fun p => p.2.place.isNone && p.2.wants) = true := by
      obtain ⟨p, hp, hn, hw⟩ := hwant
      exact List.any_eq_true.2 ⟨p, hp, by simp [hn, hw]⟩
    have oldest : (((s.clu pcl).eng half).groups.all fun p => !p.2.mayDrain || decide (g.lastStart ≤ p.2.lastStart)) = true := by
      rw [List.all_eq_true]
      intro p hp
      cases hd : p.2.mayDrain
      · rfl
      · simpa using hold p hp hd
    rw [e, execMatrixContextDrain]
    simp only [hg, hm, hfree, wanted, oldest, Option.isNone_none, Bool.and_self, ↓reduceIte]
    exact congrArg _ (State.drainGroup_idle hrun hu hready)

end Sys2Proof.Machine

/-! # What the events of messages, domains and speculation do (R354 to R379) -/

namespace Sys2Proof.Machine

/-! ## Messages -/

/-- A message whose turn it is, for a context that has no admission to make first (R354). -/
theorem State.deliver_arrives {s : State} {n c : Nat} {m : NetMsg} (hm : s.net[n]? = some m) (ho : s.overtakes n m = false)
    (hr : s.sendReleased m = true) (hx : s.msgCut m = false) (hd : m.dev = 0) (hc : s.ctxOf m.lid m.dst = some c)
    (hs : (s.thread c).st ≠ .saved) (hb : s.heldBack m = false) (ha : (s.thread c).mail.admissible = none) :
    exec (.messageDeliver n) s = .next (({ s with net := s.net.eraseIdx n } : State).arriveMsg c m) := by
  have e : exec (.messageDeliver n) s = .next (s.deliver n) := rfl
  rw [e, State.deliver]
  simp only [hm, ho, hr, hx, hd, hc, hs, hb, ha, Bool.not_true, Bool.or_self, Bool.false_eq_true, ne_eq, not_true_eq_false, ↓reduceIte,
    decide_false, Option.isSome_none]

theorem State.arriveMsg_away {s : State} {c : Nat} {m : NetMsg} (h : (s.thread c).st = .empty ∨ (s.thread c).st = .done ∨
    (s.thread c).lid ≠ m.lid) : s.arriveMsg c m = s.delivered c m := by
  rw [State.arriveMsg]
  exact if_pos h

theorem State.arriveMsg_here {s : State} {c : Nat} {m : NetMsg} (he : (s.thread c).st ≠ .empty) (hd : (s.thread c).st ≠ .done)
    (hl : (s.thread c).lid = m.lid) : s.arriveMsg c m =
      (let t := s.thread c
       if t.mail.room m.kind then s.enter c m
       else s.setThread c { t with mail := { t.mail with held := holdMsg t.mail.held (if m.t0 = 0 then { m with t0 := s.gtime } else m),
                                                         alarmHeld := t.mail.alarmHeld || m.kind == 5 } }) := by
  rw [State.arriveMsg]
  exact if_neg (by simp [he, hd, hl])

/-- Settles O42: a message arrives; a held one enters; a deadline ends a RECVT; an alarm comes behind what was refused before. -/
theorem messageEventsHappen : Obligations.MessageEventsHappen := by
  unfold Obligations.MessageEventsHappen
  refine ⟨fun s n m c hm ho hr hx hd hc => ?deliver, fun s c n m hs hd ha hn => ?admitted, fun s c p d hp hdl hst hdt hch s1 h1 => ?recvt,
    fun s c d tag ha hd he hdone hs => ?alarm⟩
  case deliver =>
    intro t s1 hs hb hadm
    rw [State.deliver_arrives hm ho hr hx hd hc hs hb hadm]
    refine ⟨fun h => congrArg _ (State.arriveMsg_away h),
      fun he hdn hl hroom => congrArg _ ((State.arriveMsg_here (s := s1) he hdn hl).trans (if_pos hroom)),
      fun he hdn hl hroom h0 hk => congrArg _ ((State.arriveMsg_here (s := s1) he hdn hl).trans ((if_neg (by rw [Bool.not_eq_true]; exact hroom)).trans ?_))⟩
    simp only [if_neg h0, show (m.kind == 5) = false by simpa using hk, Bool.or_false]
    rfl
  case admitted =>
    have e : exec (.messageAdmit c) s = .next (s.admitHeld c) := rfl
    rw [e, State.admitHeld]
    simp only [hs, hd, ha, hn, ↓reduceIte]
  case recvt =>
    have e : exec (.recvtTimeout c) s = execRecvtTimeout c s := rfl
    rw [e, execRecvtTimeout]
    simp only [hp, hdl, hst, hdt, hch, Option.isNone_none, and_self, ↓reduceIte, State.recvtEnds, h1, Res.bind, Res.keepWin]
  case alarm =>
    have e : exec (.alarmFire c) s = execAlarmFire c s := rfl
    rw [e, execAlarmFire]
    simp only [ha, hd, he, hdone, hs, ne_eq, not_false_eq_true, and_self, ↓reduceIte]

/-! ## Circuits and aborts -/

/-- Settles O43: a circuit that nothing holds up records its answer, and ends the phase where it is white and empty with every member
arrived; an abort puts the checkpoint back. -/
theorem circuitAndAbortHappen : Obligations.CircuitAndAbortHappen := by
  unfold Obligations.CircuitAndAbortHappen
  refine ⟨fun s lid level leader => ?circuit, fun s c ha => ?abort, fun s c k hk => ?back⟩
  case circuit =>
    intro us ts items missing white vts keys after s1 hact hform hus hsav hlev
    have e : exec (.circuitComplete lid level leader) s = .next (
      let quiet := white && items.isEmpty
      let s2 := if level = 4 ∧ quiet = true ∧ ts.all (fun t => (s.theThread lid t).st == .done) = true then
          s1.setLaunch lid { s1.launch lid with clean := true } else s1
      if quiet && missing == 0 then s2.phaseEnd lid level us ts else s2) := by
      have go : ¬(!(s.launch lid).active || !(s.domOf lid level leader).isFormed || us.isEmpty || us.any (s.unitSaving lid level) ||
          (decide (level < 2) && s.gtime % 64 != 0)) = true := by
        have saving : us.any (s.unitSaving lid level) = false := by simpa using hsav
        simp only [hact, hform, saving, Bool.not_true, Bool.false_or, Bool.or_false, Bool.or_eq_true, List.isEmpty_iff, hus, false_or,
          Bool.and_eq_true, decide_eq_true_eq, bne_iff_ne, ne_eq, not_and, Classical.not_not]
        exact hlev
      exact congrArg Host.Outcome.next (if_neg go)
    rw [e]
    refine ⟨fun h => ?_, fun hw hi hmiss hl => ?_, fun hw hi hmiss hl => ?_, fun hw hi hmiss hl hdone => ?_⟩
    · have quiet : (white && items.isEmpty) = false := by
        rcases h with h | h
        · rw [h]; rfl
        · simp [h]
      simp only [quiet, Bool.false_eq_true, false_and, and_false, ↓reduceIte, Bool.false_and]
    · simp only [hl, false_and, ↓reduceIte, show (missing == 0) = false by simpa using hmiss, Bool.and_false, Bool.false_eq_true]
    · simp only [hw, hi, hmiss, hl, List.isEmpty_nil, Bool.and_self, false_and, ↓reduceIte, beq_self_eq_true]
    · have all : ts.all (fun t => (s.theThread lid t).st == .done) = true := by
        simpa [List.all_eq_true] using hdone
      simp only [hw, hi, hmiss, hl, all, List.isEmpty_nil, Bool.and_self, and_self, ↓reduceIte, beq_self_eq_true]
  case abort =>
    have e : exec (.specAbort c) s = execSpecAbort c s := rfl
    rw [e, execSpecAbort, ha]
    rfl
  case back =>
    intro u
    have restored : u = (s.thread c).aborted := State.thread_abortNow_same s c
    rw [restored, Thread.aborted_of_ckpt hk]
    exact ⟨rfl, rfl, rfl, rfl, rfl, rfl, rfl, rfl, rfl, rfl, fun c' h => State.thread_setThread_other _ _ h⟩

end Sys2Proof.Machine

/-! # What the launch scheduler's events do (R53 to R69) -/

namespace Sys2Proof.Machine

/-! ## Doorbells -/

/-- What the scheduler holds of a queue's TAIL once it has served a doorbell (R55). -/
theorem State.readTail_eq (s : State) (q : Nat) : s.readTail q = { s with sched := { s.sched with
    tails := if nbit (s.descField q 9 1) 0 then s.sched.tails else mset s.sched.tails q (s.descField q 0x10 4) } } := by
  rw [State.readTail]
  split <;> rfl

/-- The state that a doorbell leaves once TAIL is read (R55). -/
def State.bellRead (s0 : State) (q : Nat) : State :=
  let read := if nbit (s0.descField q 9 1) 0 then s0.sched.tails else mset s0.sched.tails q (s0.descField q 0x10 4)
  { s0 with sched := { s0.sched with bells := s0.sched.bells.filter (· != q), tails := read } }

/-- The slot that maps or serves a queue. -/
def State.tiedSlot (s : State) (q : Nat) : Option Nat :=
  slotNos.find? fun n => s.slotMaps n && ((s.slot n).qnum == q || ((s.slot n).bv && (s.slot n).borrow == q))

/-- What a doorbell does of a queue that holds more records than its ring (R55, R62). -/
def State.ringOver (s : State) (q : Nat) (o : Option Nat) : State :=
  (({ s with sched := { s.sched with ringerr := if s.sched.ringerr.contains q then s.sched.ringerr else q :: s.sched.ringerr } } : State).setDflag
    q 4 true).post 3 (o.getD 0) (if o.isSome then q else 0) (7 + (s.queue q).head % 2 ^ 24 * 256)

/-- A doorbell of a queue whose memory can be read (R55). -/
theorem State.doorbell_ready {s0 : State} {q : Nat} (h : s0.queueReady q = true) : s0.doorbell q =
    (let s := s0.bellRead q
     if (s.queue q).ring == 0 then s
     else if (s.queue q).cap < (s.queue q).count then s.ringOver q (s.tiedSlot q)
     else (if s.sched.ringerr.contains q then
         ({ s with sched := { s.sched with ringerr := s.sched.ringerr.filter (· != q) } } : State).setDflag q 4 false else s).examineQueue q) := by
  rw [State.doorbell]
  simp only [h, ↓reduceIte, Bool.not_true, Bool.false_or, State.readTail_eq]
  rfl

theorem State.doorbell_waits {s0 : State} {q : Nat} (h : s0.queueReady q = false) :
    s0.doorbell q = { s0 with sched := { s0.sched with bells := q :: s0.sched.bells.filter (· != q) } } := by
  rw [State.doorbell]
  simp only [h, Bool.false_eq_true, ↓reduceIte, Bool.not_false, Bool.true_or]

/-! ## Slots -/

/-- The next deadline lies k whole periods on, for the least k that brings it past the time (R63). -/
theorem nextDeadline_eq {d p t k : Nat} (hd : d ≤ t) (hk : t < d + k * p) (hl : d + k * p ≤ t + p) :
    nextDeadline d p t = (d + k * p) % 2 ^ 64 := by
  have hq : (t - d) / p + 1 = k := by
    obtain ⟨j, rfl⟩ : ∃ j, k = j + 1 := Nat.exists_eq_add_one.2 (Nat.pos_of_ne_zero fun h => by subst h; omega)
    rw [Nat.add_mul, Nat.one_mul] at hk hl
    rw [Nat.div_eq_of_lt_le (k := j) (by omega) (by rw [Nat.add_mul, Nat.one_mul]; omega)]
  rw [nextDeadline, if_neg (Nat.not_lt.2 hd), hq]

theorem State.lend_none {s : State} {n : Nat} (h : s.lender = none) : s.lend n = s := by
  unfold State.lend
  split
  · next q hq => exact absurd (h.symm.trans hq) nofun
  · rfl

theorem State.lend_some {s : State} {n q : Nat} (h : s.lender = some q) :
    s.lend n = (s.setSlot n { s.slot n with bv := true, borrow := q }).reach n q := by
  unfold State.lend
  split
  · next q' hq =>
    obtain rfl : q = q' := Option.some.inj (h.symm.trans hq)
    rfl
  · next hq => exact absurd (h.symm.trans hq) nofun

/-- Settles O44: each event of the scheduler, in the cases that its rule tells apart. -/
theorem schedulerEventsHappen : Obligations.SchedulerEventsHappen := by
  unfold Obligations.SchedulerEventsHappen
  refine ⟨fun s0 e q0 => ?doorbell, fun s v hv => ?on, fun s v hv => ?off, fun s e n v hn hp => ?placed, fun s e n v hn hp hm => ?map,
    fun s e v => rfl, fun s n k => ?replenish, fun s n hp => ?overrun, fun s n ht => ?reexamine, fun s n => ?mark,
    fun s x hd hh hx => ?stall, fun s l t hs ha ht => ?start⟩
  case doorbell =>
    intro q read s x bells s1 ring tied err
    have posted (o : Option Nat) : (s0.bellRead q).ringOver q o =
        ((ring err).setDflag q 4 true).post 3 (o.getD 0) (if o.isSome then q else 0) (7 + x.head % 2 ^ 24 * 256) := by
      have head : ((s0.bellRead q).queue q).head = x.head := rfl
      rw [State.ringOver, head]
      rfl
    have e : exec (.qschDoorbell e q0) s0 = .next (s0.doorbell q) := rfl
    rw [e]
    refine ⟨fun h => congrArg _ (State.doorbell_waits h), fun h hr => congrArg _ ((State.doorbell_ready h).trans ?_),
      fun h hr hc => ⟨fun hn => congrArg _ ((State.doorbell_ready h).trans ?_), fun hn => congrArg _ ((State.doorbell_ready h).trans ?_)⟩,
      fun h hr hc => ⟨fun n hn => congrArg _ ((State.doorbell_ready h).trans ?_), fun hn => congrArg _ ((State.doorbell_ready h).trans ?_)⟩⟩
    · exact if_pos (beq_iff_eq.2 hr)
    · exact (if_neg (mt beq_iff_eq.1 hr)).trans ((if_neg (Nat.not_lt.2 hc)).trans (congrArg (State.examineQueue · q) (if_neg (by rw [Bool.not_eq_true]; exact hn))))
    · exact (if_neg (mt beq_iff_eq.1 hr)).trans ((if_neg (Nat.not_lt.2 hc)).trans (congrArg (State.examineQueue · q) (if_pos hn)))
    · have tie : (s0.bellRead q).tiedSlot q = some n := hn
      exact (if_neg (mt beq_iff_eq.1 hr)).trans ((if_pos hc).trans ((congrArg ((s0.bellRead q).ringOver q) tie).trans (posted _)))
    · have tie : (s0.bellRead q).tiedSlot q = none := hn
      exact (if_neg (mt beq_iff_eq.1 hr)).trans ((if_pos hc).trans ((congrArg ((s0.bellRead q).ringOver q) tie).trans (posted _)))
  case on =>
    have bit : nbit v 0 = true := by simp [nbit, hv]
    have e0 : exec (.qschCtlWrite 0 v) s = .next (s.qschCtl 0 v) := rfl
    have e1 : exec (.qschCtlWrite 1 v) s = .next (s.qschCtl 1 v) := rfl
    rw [e0, e1, State.qschCtl, State.qschCtl]
    refine ⟨fun h => ?_, fun h => ?_, fun h => ?_, fun h => ?_⟩ <;> simp [bit, h]
  case off =>
    have bit : nbit v 0 = false := by simp [nbit, hv]
    have e0 : exec (.qschCtlWrite 0 v) s = .next (s.qschCtl 0 v) := rfl
    have e1 : exec (.qschCtlWrite 1 v) s = .next (s.qschCtl 1 v) := rfl
    rw [e0, e1, State.qschCtl, State.qschCtl]
    constructor <;> simp [bit]
  case placed =>
    have x : exec (.qsCtlWrite e n v) s = .next (s.qsCtl (n % 64) v) := rfl
    rw [x, Nat.mod_eq_of_lt hn, State.qsCtl]
    exact congrArg _ (if_pos (.inl hp))
  case map =>
    intro s1 y
    have x : exec (.qsCtlWrite e n v) s = .next (s.qsCtl (n % 64) v) := rfl
    rw [x, Nat.mod_eq_of_lt hn, State.qsCtl]
    exact congrArg _ (if_neg (by simp only [hp, ne_eq, not_true_eq_false, false_or]; exact fun hs => hm.elim (· hs.1) (· hs.2)))
  case replenish =>
    intro x hp hd hk hl
    have e : exec (.replenish n) s = .next (s.replenish n) := rfl
    rw [e, State.replenish, ← nextDeadline_eq hd hk hl]
    exact congrArg _ (if_neg (by simp only [not_or, Nat.not_lt]; exact ⟨hp, hd⟩))
  case overrun =>
    refine ⟨fun hb hs ho => ?_, fun hb hs ho => ?_⟩
    · have e : exec (.overrun n 0) s = .next (s.overrun n 0) := rfl
      rw [e, State.overrun]
      simp only [hp, hb, hs, ho, ne_eq, not_false_eq_true, and_self, ↓reduceIte]
    · have e : exec (.overrun n 1) s = .next (s.overrun n 1) := rfl
      rw [e, State.overrun]
      simp only [hp, hb, hs, ho, ne_eq, not_false_eq_true, and_self, ↓reduceIte, Nat.one_ne_zero]
  case reexamine =>
    have e : exec (.headReexamine n) s = execHeadReexamine n s := rfl
    rw [e, execHeadReexamine, State.examNow, ht]
    rfl
  case mark =>
    intro s1 x s2
    have e : exec (.blockMark n) s = .next (s.markSlot n) := rfl
    rw [e]
    refine ⟨fun hx hb hw => ?_, fun hx hm hr => ?_, fun q hx hv hb hr hl => ?_⟩
    · have marked : s.markSlot n = s2.lend n := (if_neg hx).trans (if_pos (by rw [Bool.and_eq_true]; exact ⟨hb, hw⟩))
      rw [marked]
      exact ⟨fun h => congrArg _ (State.lend_none h), fun q h => congrArg _ (State.lend_some h)⟩
    · exact congrArg Host.Outcome.next ((if_pos hx).trans (if_pos (by rw [Bool.and_eq_true]; exact ⟨hm, hr⟩)))
    · exact congrArg Host.Outcome.next ((if_pos hx).trans ((if_neg (by rw [Bool.and_eq_true, not_and, Bool.not_eq_true]; exact fun _ => hr)).trans
        ((if_pos (by rw [Bool.and_eq_true, Bool.not_eq_true']; exact ⟨hv, hb⟩)).trans (State.lend_some hl))))
  case stall =>
    have e : exec .dispstall s = .next s.dispstall := rfl
    rw [e, State.dispstall]
    simp only [hd, hh, hx, Bool.not_true, Bool.or_self, Bool.false_eq_true, ↓reduceIte, List.map_cons, List.map_nil, State.postStalls]
    refine ⟨fun h => ?_, fun h => ?_⟩
    · have due : s.stallDue x = true := decide_eq_true h
      rw [due]
      exact congrArg _ (if_pos due)
    · have due : s.stallDue x = false := decide_eq_false (Nat.not_le.2 h)
      rw [due]
      exact congrArg _ (if_neg (Bool.eq_false_iff.1 due))
  case start =>
    have e : exec (.launchStart l) s = execLaunchStart l s := rfl
    rw [e, execLaunchStart]
    simp only [hs, ha, ht, and_self, ↓reduceIte]

end Sys2Proof.Machine

/-! # Dispatch decisions and retirements (R65, R67, R420, R421) -/

namespace Sys2Proof.Machine

/-! ## The candidate with the least effective deadline -/

theorem leastSlot_eq_none {s : State} : ∀ {l : List Nat}, leastSlot s l = none → l = []
  | [], _ => rfl
  | n :: ns, h => by
    rw [leastSlot] at h
    split at h
    · cases h
    · split at h <;> cases h

/-- Of slots in rising order the first of those with the least effective deadline. -/
theorem leastSlot_least {s : State} {n : Nat} : ∀ {l : List Nat}, l.Pairwise (· < ·) → leastSlot s l = some n →
    n ∈ l ∧ ∀ m ∈ l, (s.slot n).effDeadline < (s.slot m).effDeadline ∨ ((s.slot n).effDeadline = (s.slot m).effDeadline ∧ n ≤ m)
  | [], _, h => by cases h
  | a :: as, hp, h => by
    obtain ⟨ha, has⟩ := List.pairwise_cons.1 hp
    rw [leastSlot] at h
    split at h
    · next hn =>
      cases h
      rw [leastSlot_eq_none hn]
      exact ⟨List.mem_singleton_self _, fun m hm => .inr ⟨by rw [List.mem_singleton.1 hm], Nat.le_of_eq (List.mem_singleton.1 hm).symm⟩⟩
    · next b hb =>
      obtain ⟨hmem, hleast⟩ := leastSlot_least has hb
      have hab := ha b hmem
      split at h
      · next hle =>
        cases h
        refine ⟨List.mem_cons_self .., fun m hm => ?_⟩
        rcases List.mem_cons.1 hm with rfl | hm
        · exact .inr ⟨rfl, Nat.le_refl _⟩
        · have := hleast m hm
          omega
      · next hgt =>
        cases h
        refine ⟨List.mem_cons_of_mem _ hmem, fun m hm => ?_⟩
        rcases List.mem_cons.1 hm with rfl | hm
        · exact .inl (Nat.not_le.1 hgt)
        · exact hleast m hm

theorem State.candidates_sorted (s : State) : s.candidates.Pairwise (· < ·) := List.Pairwise.filter _ (List.pairwise_lt_range)

section Decision

variable {s s0 : State} {n q asid lid : Nat} (go : ¬(!s.sched.dispatches || s.sched.held || s.outer.retain.on ||
  s.outer.retain.entering || s.servesLate) = true) (hn : leastSlot s s.candidates = some n) (hq : (s.slot n).serving = q)
  (ha : ((s.schedRead q).queue q).asid = asid)
  (hs : ((s.schedRead q).tdiCheck fun p => p.bnd.any fun b => b.1 == n && b.2.1 == q && b.2.2 != asid) = s0)
  (hl : s0.launches.length = lid)

include go hn hq ha hs hl

theorem State.decideOnce_refuses (hr : s0.checkRec lid n q ≠ 0) :
    s.decideOnce = (((s0.refuse n q (s0.checkRec lid n q)).reach n q).again) := by
  subst hq ha hs hl
  unfold State.decideOnce
  rw [if_neg go]
  split
  · next h => exact absurd (hn.symm.trans h) nofun
  · next m h =>
    obtain rfl : n = m := Option.some.inj (hn.symm.trans h)
    exact if_pos hr

/-- A record that passes the checks: the credit is looked at first, then the clusters (R65). -/
theorem State.decideOnce_passes {i : Nat} {o : Obj} (hr : s0.checkRec lid n q = 0) (hi : s0.objAt asid (s0.headRec q).obj = some i)
    (ho : s0.objects[i]? = some o) {p : Option (List Nat)} (hp : s0.choose o (s0.headRec q).ncl = p) :
    s.decideOnce =
      if s0.sched.credit < s0.sched.eclaim * (s0.headRec q).ncl then s0.stallAt n q 0
      else p.elim (s0.stallAt n q 1) fun pcls =>
        if s0.dataWaits o asid then s0 else ((s0.dispatch n q lid i o pcls).reach n q).again := by
  subst hq ha hs hl
  unfold State.decideOnce
  rw [if_neg go]
  split
  · next h => exact absurd (hn.symm.trans h) nofun
  · next m h =>
    obtain rfl : n = m := Option.some.inj (hn.symm.trans h)
    refine (if_neg (Classical.not_not.2 hr)).trans ?_
    split
    · next h => exact absurd (hi.symm.trans h) nofun
    · next i' h =>
      obtain rfl : i = i' := Option.some.inj (hi.symm.trans h)
      split
      · next h => exact absurd (ho.symm.trans h) nofun
      · next o' h =>
        obtain rfl : o = o' := Option.some.inj (ho.symm.trans h)
        refine ite_congr rfl (fun _ => rfl) fun _ => ?_
        split
        · next h =>
          obtain rfl : p = none := hp.symm.trans h
          rfl
        · next pcls h =>
          obtain rfl : p = some pcls := hp.symm.trans h
          rfl

end Decision

/-! ## Retirement -/

/-- The two states have the same launches, scheduler, messages, decrements and time. -/
structure State.SameBooks (s t : State) : Prop where
  launches : t.launches = s.launches
  sched : t.sched = s.sched
  net : t.net = s.net
  decs : t.decs = s.decs
  gtime : t.gtime = s.gtime

theorem State.SameBooks.refl (s : State) : s.SameBooks s := ⟨rfl, rfl, rfl, rfl, rfl⟩

theorem State.SameBooks.trans {s t u : State} (h : s.SameBooks t) (g : t.SameBooks u) : s.SameBooks u :=
  ⟨g.launches.trans h.launches, g.sched.trans h.sched, g.net.trans h.net, g.decs.trans h.decs, g.gtime.trans h.gtime⟩

theorem State.SameBooks.foldl {α : Type} {f : State → α → State} (h : ∀ (s : State) x, s.SameBooks (f s x)) (l : List α) :
    ∀ s : State, s.SameBooks (l.foldl f s) := by
  induction l with
  | nil => exact State.SameBooks.refl
  | cons x l ih => exact fun s => (h s x).trans (ih _)

theorem State.sameBooks_endArrs (s : State) (lid : Nat) : s.SameBooks (s.endArrs lid) :=
  State.SameBooks.foldl (fun a i => by
    dsimp only
    split
    · exact ⟨rfl, rfl, rfl, rfl, rfl⟩
    · exact .refl a) _ s

theorem State.sameBooks_freeClu (s : State) (p : Nat) : s.SameBooks (s.freeClu p) := by
  have threads (i : Nat) (x : List Nat) (a : State) : a.SameBooks (x.foldl (fun (d : State) x => d.setThread (ctxId p i x) {}) a) :=
    State.SameBooks.foldl (f := fun (d : State) x => d.setThread (ctxId p i x) {}) (fun _ _ => ⟨rfl, rfl, rfl, rfl, rfl⟩) x a
  have clu : s.SameBooks (s.setClu p { meter := (s.clu p).meter, cstep := (s.clu p).cstep, l1 := [], keys := (s.clu p).keys, plast := (s.clu p).plast }) :=
    ⟨rfl, rfl, rfl, rfl, rfl⟩
  refine clu.trans (State.SameBooks.foldl (fun a i => ?_) _ _)
  dsimp only
  refine State.SameBooks.trans (t := a.setCore (p * 16 + i) _) ?_ (threads i _ _)
  exact ⟨rfl, rfl, rfl, rfl, rfl⟩

theorem State.sameBooks_schedWrite (s : State) (pa : Nat) (bs : List Byte) : s.SameBooks (s.schedWrite pa bs) := by
  obtain ⟨m, d, l2, a, ts, g, h⟩ := s.homeWrite_eq { c := none, vt := 0, code := 0 } (.phys pa) bs 0
  obtain ⟨t, ht⟩ := s.conflict_eq { c := none, vt := 0, code := 0 } (.phys pa) bs.length
  rw [State.schedWrite, h, ht]
  exact ⟨rfl, rfl, rfl, rfl, rfl⟩

/-- What a retirement takes away: the launch's arrangements, messages, decrements and clusters (R67). -/
def State.retireFree (s : State) (lid : Nat) : State :=
  let s1 := s.endArrs lid
  (s.launch lid).pcls.foldl (fun (a : State) (x : Nat × Nat) => a.freeClu x.2)
    { s1 with net := s1.net.filter (·.lid != lid), decs := s1.decs.filter (·.lid != lid) }

/-- What a retirement gives back: the slot's place and the charge (R67, R421). -/
def State.giveBack (s : State) (l : Launch) : State :=
  let s4 := s.setSlot l.slot { s.slot l.slot with nplaced := ((s.slot l.slot).nplaced + 255) % 256 }
  { s4 with sched := { s4.sched with credit := (s.sched.credit + l.charge) % 2 ^ 64 } }

theorem State.retire_eq {s : State} {lid : Nat} (h : s.mayRetire lid = true) (hw : s.retireWaits (s.launch lid) = false)
    (hs : (s.launch lid).signal = false) : s.retire lid =
      let l := s.launch lid
      ((((s.retireFree lid).giveBack l).schedWrite (l.recPa + 0x70) (leBytes 8 l.tused ++ leBytes 8 l.eused)).schedWrite (l.recPa + 0xB)
        [if l.killed then 4 else 2]).setLaunch lid { l with active := false, pcls := [] } := by
  have go : ¬(!s.mayRetire lid || s.retireWaits (s.launch lid)) = true := by simp [h, hw]
  unfold State.retire
  dsimp only [State.retireFree, State.giveBack]
  rw [if_neg go, if_neg (Bool.eq_false_iff.1 hs)]

theorem State.sameBooks_retireFree (s : State) (lid : Nat) :
    ({ s with net := s.net.filter (·.lid != lid), decs := s.decs.filter (·.lid != lid) } : State).SameBooks (s.retireFree lid) := by
  have h := s.sameBooks_endArrs lid
  dsimp only [State.retireFree]
  generalize s.endArrs lid = s1 at h ⊢
  refine State.SameBooks.trans (t := { s1 with net := s1.net.filter (·.lid != lid), decs := s1.decs.filter (·.lid != lid) }) ?_
    (State.SameBooks.foldl (f := fun (a : State) (x : Nat × Nat) => a.freeClu x.2) (fun a x => State.sameBooks_freeClu a x.2) _ _)
  exact ⟨h.launches, h.sched, congrArg (List.filter (·.lid != lid)) h.net, congrArg (List.filter (·.lid != lid)) h.decs, h.gtime⟩

/-- Settles O45: the candidate, its record's fate, and what a retirement gives back. -/
theorem dispatchAndRetirementHappen : Obligations.DispatchAndRetirementHappen := by
  unfold Obligations.DispatchAndRetirementHappen
  refine ⟨fun s n hd hh hr he hl hn => ?dispatch, fun s lid => ?retire⟩
  case dispatch =>
    obtain ⟨hmem, hleast⟩ := leastSlot_least s.candidates_sorted hn
    refine ⟨hleast, hmem, ?_⟩
    intro q s1 asid s0 lid
    have x : exec .dispatchDecision s = .next s.decideOnce := rfl
    have go : ¬(!s.sched.dispatches || s.sched.held || s.outer.retain.on || s.outer.retain.entering || s.servesLate) = true := by
      simp [hd, hh, hr, he, hl]
    rw [x]
    refine ⟨fun hr => congrArg _ (State.decideOnce_refuses go hn rfl rfl rfl rfl hr), fun i o h0 hi ho => ?_⟩
    have passes {p : Option (List Nat)} (hp : s0.choose o (s0.headRec q).ncl = p) :=
      State.decideOnce_passes (s0 := s0) (asid := asid) (lid := lid) (q := q) go hn rfl rfl rfl rfl h0 hi ho hp
    refine ⟨fun hc => ?_, fun hc hp => ?_, fun pcls hc hp hw => ?_⟩
    · rw [passes rfl, if_pos hc]
    · rw [passes hp, if_neg (Nat.not_lt.2 hc), Option.elim_none]
    · rw [passes hp, if_neg (Nat.not_lt.2 hc), Option.elim_some, hw, if_neg Bool.false_ne_true]
  case retire =>
    intro l ha hc ht hs hsig hw
    have x : exec (.retire lid) s = .next (s.retire lid) := rfl
    have may : s.mayRetire lid = true := by
      simp only [State.mayRetire, ha, hc, Bool.and_self, Bool.true_and, Bool.and_eq_true, List.all_eq_true, l, Bool.or_eq_true, bne_iff_ne]
      refine ⟨fun p hp => ?_, hs⟩
      by_cases hl : p.2.lid = lid
      · rcases ht p hp hl with h | h <;> simp [h]
      · exact .inl (.inl hl)
    have free := s.sameBooks_retireFree lid
    have back := (State.sameBooks_schedWrite ((s.retireFree lid).giveBack l) (l.recPa + 0x70) (leBytes 8 l.tused ++ leBytes 8 l.eused)).trans
      (State.sameBooks_schedWrite _ (l.recPa + 0xB) [if l.killed then 4 else 2])
    have slot : (s.retireFree lid).slot l.slot = s.slot l.slot := by rw [State.slot, free.sched]; rfl
    rw [State.retire_eq may hw hsig] at x
    refine ⟨_, x, ?_⟩
    rw [State.launch_setLaunch_same]
    refine ⟨rfl, rfl, ?_, ?_, ?_, ?_, ?_⟩
    · refine (congrArg (fun q : Sched => (mget {} q.slots l.slot).nplaced) back.sched).trans ?_
      rw [State.giveBack, slot]
      exact congrArg QSlot.nplaced (mget_mset_same ..)
    · exact (congrArg Sched.credit back.sched).trans (congrArg (fun q : Sched => (q.credit + l.charge) % 2 ^ 64) free.sched)
    · intro m hm
      have kept : m ∈ s.net.filter (·.lid != lid) := (congrArg (m ∈ ·) (back.net.trans free.net)).mp hm
      simpa using (List.mem_filter.1 kept).2
    · intro d hd
      have kept : d ∈ s.decs.filter (·.lid != lid) := (congrArg (d ∈ ·) (back.decs.trans free.decs)).mp hd
      simpa using (List.mem_filter.1 kept).2
    · exact back.gtime.trans free.gtime

end Sys2Proof.Machine

/-! # Pre-emption, restore, XFAULT replies and asynchronous traps (R393, R402, R408, R413) -/

namespace Sys2Proof.Machine

/-! ## The save -/

theorem State.preempt_refused {s : State} {pcl : Nat} (h : (s.clu pcl).launch = none ∨ nbit s.kstat 0 = true) (core : Option Nat) :
    s.preempt pcl core = s.setKstat 2 true := by
  unfold State.preempt
  dsimp only
  split
  · rfl
  · next lid hl =>
    have busy : nbit s.kstat 0 = true := h.resolve_left (by rw [hl]; nofun)
    rw [if_pos busy]

/-- A save that may be asked for: the contexts are told to stop (R408). -/
theorem State.preempt_asked {s : State} {pcl lid : Nat} (hl : (s.clu pcl).launch = some lid) (hb : nbit s.kstat 0 = false)
    (stop : Option Nat → State)
    (hs : ∀ core, (ctxsOf pcl core).foldl State.askStop ((s.setKstat 2 false).setKstat 0 true) = stop core) :
    s.preempt pcl none = ((stop none).setClu pcl { (stop none).clu pcl with saving := true }).setEntry lid (s.clu pcl).vcl (fun e => e ||| 0x4000) ∧
      ∀ k, s.preempt pcl (some k) = (stop (some k)).setClu pcl { (stop (some k)).clu pcl with savingCore := some k } := by
  simp only [State.preempt, hl, hb, hs, Bool.false_eq_true, ↓reduceIte, implies_true, and_self]

/-- The save of a whole cluster waits for its contexts (R408). -/
theorem State.saveTurn_waits {s : State} {pcl lid : Nat} (hl : (s.clu pcl).launch = some lid) (hs : (s.clu pcl).saving = true)
    (hc : (ctxsOf pcl none).all (s.abortAll (ctxsOf pcl none)).ctxStopped = false) :
    s.saveTurn pcl = s.abortAll (ctxsOf pcl none) := by
  unfold State.saveTurn
  simp only [hl, hs, hc, Bool.true_eq_false, false_and, ↓reduceIte, Bool.not_false, Bool.true_or]

/-- The end of the save of a whole cluster (R408). -/
theorem State.saveTurn_ends {s s2 s3 : State} {pcl lid : Nat} (hl : (s.clu pcl).launch = some lid) (hs : (s.clu pcl).saving = true)
    (hc : (ctxsOf pcl none).all (s.abortAll (ctxsOf pcl none)).ctxStopped = true)
    (hh : (((List.range 16).map fun i => 2 ^ 18 + pcl * 16 + i).any fun c =>
      ((s.abortAll (ctxsOf pcl none)).thread c).st == .frozen) = false)
    (he : ((s.abortAll (ctxsOf pcl none)).clu pcl).enginesStopped = true) (hq : (s.abortAll (ctxsOf pcl none)).slicesQuiet pcl = true)
    (h2 : (s.abortAll (ctxsOf pcl none)).saveCtxs ((s.abortAll (ctxsOf pcl none)).saveBlock lid (s.clu pcl).vcl) (ctxsOf pcl none) = (s2, none))
    (h3 : s2.finishSave pcl lid (s.clu pcl).vcl = (s3, none)) : s.saveTurn pcl = s3 := by
  unfold State.saveTurn
  generalize @State.finishSave = finish at h3 ⊢
  generalize @State.saveCtxs = save at h2 ⊢
  generalize @State.freeHandle = handle
  generalize ctxsOf = cs at *
  as_aux_lemma =>
    simp only [hl, hs, hc, hh, he, hq, h2, h3, Bool.true_eq_false, false_and, ↓reduceIte, Bool.not_true, Bool.or_self, Bool.false_eq_true,
      or_self, and_false]

/-! ## The restore -/

/-- A whole cluster goes back to a free one (R413). -/
theorem State.restTurn_whole {s s2 s3 s4 : State} {h pcl : Nat} {x : Saved} {ms : List NetMsg} (hx : mfind s.saved h = some x)
    (hs : x.single = none) (hf : ((List.range 16).any fun i => (s.thread (2 ^ 18 + pcl * 16 + i)).st == .frozen) = false)
    (h2 : (s.reload h x pcl).restSlices pcl (s.saveBlock x.lid x.vcl) (List.range 16) = (s2, none))
    (h3 : s2.restCtxs (s.saveBlock x.lid x.vcl) x.time ((ctxsOf pcl none).filter fun c => !s.saved.any fun (q : Nat × Saved) =>
      q.2.lid == x.lid && q.2.vcl == x.vcl && q.2.single == some (coreNo c)) = (s3, none))
    (h4 : s3.readMsgs pcl (s.saveBlock x.lid x.vcl) 0 x.msgs = (s4, .ok ms)) :
    s.restTurn h pcl = ((s4.moveRecs x.recs x.oldPcl pcl).release x ms pcl).endRestore h := by
  unfold State.restTurn
  generalize @State.restSlices = slices at h2 ⊢
  generalize @State.restCtxs = ctxs at h3 ⊢
  generalize @State.readMsgs = msgs at h4 ⊢
  generalize List.range 16 = cores at *
  generalize ctxsOf = cs at *
  as_aux_lemma => simp only [hx, hs, hf, h2, h3, h4, Bool.false_eq_true, ↓reduceIte]

theorem State.restoreReq_unsaved {s : State} {h pcl : Nat} (hx : mfind s.saved h = none) : s.restoreReq h pcl = s.setKstat 2 true := by
  simp only [State.restoreReq, hx]

/-- A target that is busy or mapped out: REFUSED. -/
theorem State.restoreReq_refused {s : State} {h pcl : Nat} {x : Saved} (hx : mfind s.saved h = some x) (hs : x.single = none)
    (hb : (s.clu pcl).launch ≠ none ∨ s.mapped.contains pcl = true) : s.restoreReq h pcl = s.setKstat 2 true := by
  have busy : ((s.clu pcl).launch.isNone && !s.mapped.contains pcl) = false := by
    obtain hl | hm := hb
    · rw [Option.isNone_eq_false_iff.2 (Option.isSome_iff_ne_none.2 hl), Bool.false_and]
    · rw [hm, Bool.not_true, Bool.and_false]
  simp only [State.restoreReq, hx, hs, busy, Option.isNone_none, Bool.not_false, Bool.and_self, Bool.or_true, ↓reduceIte]

/-- A free target: the restore is under way, and takes its first turn at once. -/
theorem State.restoreReq_taken {s : State} {h pcl : Nat} {x : Saved} (hr : s.rest = none) (hx : mfind s.saved h = some x)
    (hl : (s.clu pcl).launch = none) (hm : s.mapped.contains pcl = false) :
    s.restoreReq h pcl = State.restTurn { (s.setKstat 2 false).setKstat 1 true with rest := some (h, pcl) } h pcl := by
  simp only [State.restoreReq, hx, hl, hm, hr, Option.isSome_none, Option.isNone_none, Bool.not_false, Bool.and_self, Bool.not_true, Bool.and_false,
    Bool.or_self, Bool.false_eq_true, ↓reduceIte]

/-! ## Discards and answers to XFAULT records -/

theorem execRestoreDiscard_unsaved {s : State} {h : Nat} (hx : mfind s.saved h = none) : execRestoreDiscard h s = .next (s.setKstat 2 true) := by
  simp only [execRestoreDiscard, hx]

/-- A saved cluster is given up: its launch is killed, its messages and records go. -/
theorem execRestoreDiscard_whole {s : State} {h : Nat} {x : Saved} (hr : s.rest = none) (hx : mfind s.saved h = some x) (hs : x.single = none)
    {s1 : State} (h1 : s1 = s.setLaunch x.lid { s.launch x.lid with killed := true }) :
    execRestoreDiscard h s = .next (x.recs.foldl State.freeRecord
      (x.msgs.foldl State.departed { s1.setKstat 2 false with saved := mdel s1.saved h })) := by
  subst h1
  simp only [execRestoreDiscard, hx, hs, hr, Option.isSome_none, Bool.false_eq_true, ↓reduceIte]

theorem State.kctlReply_invalid {s : State} {k fail : Nat} (h : (mget ({} : SRec) s.srec k).w1.getLsbD 63 = false) : s.kctlReply k fail = s := by
  simp only [State.kctlReply, h, Bool.not_false, ↓reduceIte]

/-- An answer to the record of a waiting copy command: it goes on, or ends with a fault. -/
theorem State.kctlReply_command {s : State} {k fail : Nat} {r : SRec} {c : Cmd} (hr : r = mget {} s.srec k) (hv : r.w1.getLsbD 63 = true)
    (hk : bitsOf r.w1 62 60 = 2) (ht : bitsOf r.w0 63 60 = 1)
    (hc : ((s.freeRecord k).clu (bitsOf r.w0 47 36)).cmd (bitsOf r.w0 5 0) = some c) (hs : c.state = 1) :
    s.kctlReply k fail = if fail = 0 then (s.freeRecord k).setCmd (bitsOf r.w0 47 36) { c with state := 0 }
      else (s.freeRecord k).copyEnd (bitsOf r.w0 47 36) c 6 := by
  subst hr
  simp only [State.kctlReply, hv, hk, ht, hc, hs, Bool.not_true, Bool.false_eq_true, ne_eq, not_true_eq_false, ↓reduceIte]

/-- Settles O46: each event asks for what its rule names, or sets REFUSED. -/
theorem preemptionEventsHappen : Obligations.PreemptionEventsHappen := by
  unfold Obligations.PreemptionEventsHappen
  refine ⟨fun s pcl h => ⟨?_, fun k => ?_⟩, fun s pcl lid hl hb => ?asked, fun s pcl lid hl hs => ?waits, fun s pcl lid s2 s3 hl hs => ?ends,
    fun s h pcl hr => ?restore, fun s h hr => ?discard, fun s k fail hk hf => ?reply, fun s c ho => ?async⟩
  · exact congrArg _ (State.preempt_refused h none)
  · exact congrArg _ (State.preempt_refused h (some k))
  case asked =>
    intro s1 all
    obtain ⟨whole, core⟩ := State.preempt_asked hl hb (fun core => (ctxsOf pcl core).foldl State.askStop s1) fun _ => rfl
    have ew : exec (.preemptCluster pcl) s = .next (s.preempt pcl none) := rfl
    have ec (k : Nat) : exec (.preemptCore pcl k) s = .next (s.preempt pcl (some k)) := rfl
    refine ⟨?_, fun k => ?_⟩
    · rw [ew, whole]
    · rw [ec, core]
  case waits =>
    rintro s1 ⟨c, hc, hn⟩
    have e : exec (.clusterSaved pcl) s = .next (s.saveTurn pcl) := rfl
    rw [e, State.saveTurn_waits hl hs (List.all_eq_false.2 ⟨c, hc, by rw [hn]; decide⟩)]
  case ends =>
    intro s1 hc hh he hq h2 h3
    refine congrArg _ (State.saveTurn_ends hl hs (List.all_eq_true.2 hc) ?_ he hq h2 h3)
    simpa [List.any_eq_false] using hh
  case restore =>
    have notYet (p : Nat × Nat) : s.rest ≠ some p := by rw [hr]; nofun
    have e : exec (.restore h pcl) s = .next (s.restoreReq h pcl) := congrArg Host.Outcome.next (if_neg (notYet _))
    rw [e]
    refine ⟨fun hx => congrArg _ (State.restoreReq_unsaved hx), fun x hx hs hb => congrArg _ (State.restoreReq_refused hx hs hb),
      fun x hx hs hl hm => ?_⟩
    intro s1 hf s2 s3 h2 h3 s4 ms h4
    refine congrArg _ ((State.restoreReq_taken hr hx hl hm).trans (State.restTurn_whole hx hs ?_ h2 h3 h4))
    simpa [List.any_eq_false] using hf
  case discard =>
    have e : exec (.restoreDiscard h) s = execRestoreDiscard h s := rfl
    rw [e]
    refine ⟨execRestoreDiscard_unsaved, fun x hx hs => ?_⟩
    intro s1
    exact execRestoreDiscard_whole hr hx hs rfl
  case reply =>
    intro r
    have e : exec (.kctlReply k fail) s = .next (s.kctlReply (k % 256) (fail % 2)) := rfl
    rw [e, Nat.mod_eq_of_lt hk, Nat.mod_eq_of_lt hf]
    exact ⟨fun hv => congrArg _ (State.kctlReply_invalid hv), fun c hv hw ht hc hs => congrArg _ (State.kctlReply_command rfl hv hw ht hc hs)⟩
  case async =>
    intro t
    have e : exec (.asyncTrapTake c) s = .next (s.takeAsync c) := rfl
    rw [e, State.takeAsync]
    refine ⟨fun l ls hl => ?_, fun b bs hl hp => ?_, fun g hl hp hg hst => ?_⟩
    · simp only [ho, Bool.not_true, Bool.false_eq_true, ↓reduceIte, t] at hl ⊢
      simp only [hl]
    · simp only [ho, Bool.not_true, Bool.false_eq_true, ↓reduceIte, t] at hl hp ⊢
      simp only [hl, hp]
    · simp only [ho, Bool.not_true, Bool.false_eq_true, ↓reduceIte, t] at hl hp hg hst ⊢
      simp only [hl, hp, hg, hst, ↓reduceIte]

end Sys2Proof.Machine

/-! # The events of the DRAM units (R248, R252, R255, R256, R258, R260 to R262) -/

namespace Sys2Proof.Machine

/-! ## The commit of the region matrices (R248) -/

theorem State.amapDone_refused {s : State} (hb : s.dram.amap.busy = true) (hc : s.amapCheck ≠ 0) :
    s.amapDone = { s with dram := { s.dram with amap := { s.dram.amap with busy := false, status := s.amapCheck } } } := by
  simp only [State.amapDone, hb, hc, Bool.not_true, Bool.false_eq_true, ne_eq, not_false_eq_true, ↓reduceIte]

/-- The staged matrices become active, and no copy of an HBM address is left. -/
def State.amapTaken (s : State) : State :=
  let s1 := s.dropCopies fun pa => decide (pa < 2 ^ 39)
  { s1 with dram := { s1.dram with amap := { s.dram.amap with busy := false, status := 0, active := s.dram.amap.staged } } }

theorem State.amapDone_taken {s : State} (hb : s.dram.amap.busy = true) (hc : s.amapCheck = 0) : s.amapDone = s.amapTaken := by
  simp only [State.amapDone, State.amapTaken, hb, hc, Bool.not_true, Bool.false_eq_true, ne_eq, not_true_eq_false, ↓reduceIte]

theorem State.amapTaken_l2 {s : State} {x : L2Line} (h : x ∈ s.amapTaken.l2) : 2 ^ 39 ≤ x.line * 1024 := by
  have kept := (List.mem_filter.1 h).2
  simpa using kept

theorem State.amapTaken_l1 {s : State} {k : Nat × Cluster} (h : k ∈ s.amapTaken.clus) {y : L1Line} (hy : y ∈ k.2.l1) : 2 ^ 39 ≤ y.line * 256 := by
  obtain ⟨k0, -, rfl⟩ := List.mem_map.1 h
  have kept := (List.mem_filter.1 hy).2
  simpa using kept

/-! ## Page migration (R252) -/

section Migration
variable {s : State} {e k t : Nat} {q : List (Nat × Nat)} {m : Mov}

theorem State.migrate_start (he : (s.pmig e).en = true) (hq : (s.pmig e).queue = (k, t) :: q) (hm : (s.pmig e).mov = none) :
    s.migrate e = s.migrStart e k t := by
  simp only [State.migrate, he, hq, hm, List.head?_cons, ↓reduceIte]

theorem State.migrate_step (he : (s.pmig e).en = true) (hq : (s.pmig e).queue = (k, t) :: q) (hm : (s.pmig e).mov = some m) :
    s.migrate e = s.migrStep e k t m := by
  simp only [State.migrate, he, hq, hm, List.head?_cons, ↓reduceIte]

/-- A page that stands in its tier leaves the queue. -/
theorem State.migrStart_stands (hon : s.rawOnline ((s.pmig e).ppt + 8 * k) = true) (ht : b2n (nbit (s.ppte k) 62) = t) :
    s.migrStart e k t = ((s.readAtomAt { code := 5 } (s.rawKey ((s.pmig e).ppt + 8 * k) / 32) ((s.pmig e).ppt + 8 * k)).1).setPmig e
      { s.pmig e with queue := (s.pmig e).queue.drop 1 } := by
  simp only [State.migrStart, hon, ht, or_true, Bool.not_true, Bool.false_eq_true, ↓reduceIte]

/-- A page of the other tier takes a free frame and is marked MOVING. -/
theorem State.migrStart_moves (hon : s.rawOnline ((s.pmig e).ppt + 8 * k) = true) (hk : k < (s.pmig e).npages)
    (hv : nbit (s.ppte k) 63 = true) (ht : b2n (nbit (s.ppte k) 62) ≠ t) (hf : (s.pmig e).free t ≠ 0)
    {top : Nat} (htop : top = (s.pmig e).stack t + 8 * ((s.pmig e).free t - 1)) (hto : s.rawOnline top = true)
    {s1 : State} (h1 : s1 = (s.readAtomAt { code := 5 } (s.rawKey ((s.pmig e).ppt + 8 * k) / 32) ((s.pmig e).ppt + 8 * k)).1) :
    s.migrStart e k t = ((s1.readAtomAt { code := 5 } (s1.rawKey top / 32) top).1.setPmig e
      { ((s.pmig e).setFree t ((s.pmig e).free t - 1)) with mov := some { frame := frameOf (s.rawRead8 top) } }).rawWrite8
        ((s.pmig e).ppt + 8 * k) (movingEntry (s.ppte k)) := by
  subst htop h1
  simp only [State.migrStart, hon, hv, ht, hf, hto, Nat.not_le.2 hk, Bool.not_true, Bool.false_eq_true, Bool.true_eq_false, or_self, ↓reduceIte]

/-- Sector after sector is copied while the frames of both are served. -/
theorem State.migrStep_next {s2 : State} (hn : m.next < 256)
    (hold : s.frameOnline (b2n (nbit (s.ppte k) 62)) (frameOf (s.ppte k) + 256 * m.next) = true)
    (hnew : s.frameOnline t (m.frame + 256 * m.next) = true) :
    (s.copySector k t m.frame m.next = (s2, false) → s.migrStep e k t m = s2.setPmig e { (s2.pmig e) with
      mov := some { m with next := m.next + 1, dirty := m.dirty.filter fun i => i != m.next } }) ∧
    (s.copySector k t m.frame m.next = (s2, true) → s.migrStep e k t m = s2.migrFail e k t m.frame) := by
  refine ⟨fun hr => ?_, fun hr => ?_⟩ <;>
    simp only [State.migrStep, hn, hold, hnew, hr, Bool.and_self, Bool.not_true, Bool.false_eq_true, ↓reduceIte]

/-- The sectors written since are copied in one turn, and the migration ends. -/
theorem State.migrStep_last {s2 : State} (hn : 256 ≤ m.next)
    (hd : ∀ i ∈ m.dirty, s.frameOnline (b2n (nbit (s.ppte k) 62)) (frameOf (s.ppte k) + 256 * i) = true ∧
      s.frameOnline t (m.frame + 256 * i) = true) (hon : s.rawOnline ((s.pmig e).ppt + 8 * k) = true) :
    (State.copySectors k t m.frame m.dirty s = (s2, false) → s.migrStep e k t m = s2.migrDone e k t m.frame) ∧
    (State.copySectors k t m.frame m.dirty s = (s2, true) → s.migrStep e k t m = s2.migrFail e k t m.frame) := by
  have served : (m.dirty.all fun i => s.frameOnline (b2n (nbit (s.ppte k) 62)) (frameOf (s.ppte k) + 256 * i) &&
      s.frameOnline t (m.frame + 256 * i)) = true :=
    List.all_eq_true.2 fun i hi => Bool.and_eq_true_iff.2 (hd i hi)
  refine ⟨fun hr => ?_, fun hr => ?_⟩ <;>
    simp only [State.migrStep, Nat.not_lt.2 hn, served, hon, hr, Bool.not_true, Bool.or_self, Bool.false_eq_true, ↓reduceIte]

end Migration

/-! ## Map-out (R255) -/

theorem State.port_hlEvent_same (s : State) (e bit : Nat) : ((s.hlEvent e bit).port e).event = (s.port e).event ||| 2 ^ bit := by
  simp only [State.hlEvent, State.port, mget_mset_same]

theorem State.port_hlEvent_other (s : State) {e e' : Nat} (bit : Nat) (h : e' ≠ e) : (s.hlEvent e bit).port e' = s.port e' := by
  simp only [State.hlEvent, State.port, mget_mset_other _ _ _ h]

/-- A map-out is refused without repair, of a die that is out, or of a third die. -/
theorem State.mapout_refused {s : State} {k d : Nat} (h : (s.rmap k).mode < 2 ∨ nbit (s.rmap k).out d = true ∨ 2 ≤ (s.rmap k).outCount) :
    s.mapout k d = s.setRmap k { s.rmap k with refused := true } :=
  if_pos h

theorem State.mapout_taken {s : State} {k d : Nat} (hm : 2 ≤ (s.rmap k).mode) (ho : nbit (s.rmap k).out d = false) (hc : (s.rmap k).outCount < 2) :
    ((s.mapout k d).rmap k).out = (s.rmap k).out + 2 ^ d ∧ ((s.mapout k d).rmap k).refused = false ∧
      ((s.mapout k d).rmap k).table = (s.rmap k).table.filter (fun x => locDie x.1 != d) ∧ (s.mapout k d).mem = s.mem ∧
      ∀ e, e < 2 → ((s.mapout k d).port e).event = (s.port e).event ||| 1 := by
  have none : ¬((s.rmap k).mode < 2 ∨ nbit (s.rmap k).out d = true ∨ 2 ≤ (s.rmap k).outCount) := by
    simp only [ho, Bool.false_eq_true, false_or]
    omega
  simp only [State.mapout, none, ↓reduceIte]
  refine ⟨?_, ?_, ?_, rfl, fun e he => ?_⟩
  · simp only [State.rmap, State.hlEvent, State.logErr, State.setRmap, mget_mset_same]
  · simp only [State.rmap, State.hlEvent, State.logErr, State.setRmap, mget_mset_same]
  · simp only [State.rmap, State.hlEvent, State.logErr, State.setRmap, mget_mset_same]
  · obtain rfl | rfl : e = 0 ∨ e = 1 := by omega
    · rw [State.port_hlEvent_other _ _ (by decide), State.port_hlEvent_same]; rfl
    · rw [State.port_hlEvent_same, State.port_hlEvent_other _ _ (by decide)]; rfl

/-! ## The patrol, the channels and the pattern runs (R256, R260 to R262) -/

theorem State.scrub_kept {s : State} {k c : Nat} (hc : s.hasChannel k c = true) (hk : k < 8) (ho : (s.phy k c).online = false) :
    s.scrub k c = s.setPhy k c { s.phy k c with owed := (s.phy k c).owed + if s.gtime % 2 ^ 20 = 0 then 1 else 0 } := by
  simp only [State.scrub, hc, hk, ho, Bool.not_true, Bool.false_eq_true, and_self, ↓reduceIte]

theorem State.scrub_goes {s : State} {k c : Nat} (hc : s.hasChannel k c = true) (ho : 8 ≤ k ∨ (s.phy k c).online = true)
    {n : Nat} (hn : n = (s.phy k c).owed + if s.gtime % 2 ^ 20 = 0 then 1 else 0) :
    s.scrub k c = (State.scrubSectors k c n (s.phy k c).scrub s).setPhy k c
      { s.phy k c with scrub := ((s.phy k c).scrub + n) % 2 ^ 22, owed := 0 } := by
  have on : ¬(k < 8 ∧ (s.phy k c).online = false) := by
    rintro ⟨hk, hf⟩
    exact ho.elim (by omega) fun h => absurd (h.symm.trans hf) nofun
  subst hn
  simp only [State.scrub, hc, on, Bool.not_true, Bool.false_eq_true, ↓reduceIte]

section Pattern
variable {s : State} {k c v : Nat}

/-- Nothing runs: GO is 0, the channel is ONLINE, or a run is under way. -/
theorem State.patGo_idle (h : nbit v 0 = false ∨ (s.phy k c).online = true ∨ (s.phy k c).running = true) :
    s.patGo k c v = s.setPhy k c { s.phy k c with pat := v &&& patMask } :=
  if_pos h

theorem State.patGo_reserved (hg : nbit v 0 = true) (ho : (s.phy k c).online = false) (hr : (s.phy k c).running = false)
    (hp : 4 ≤ patPat v ∨ patDir v = 3) :
    s.patGo k c v = s.setPhy k c { s.phy k c with pat := v &&& patMask, done := true, perr := BitVec.ofNat 64 (2 ^ 63) } := by
  simp only [State.patGo, hg, ho, hr, hp, Bool.true_eq_false, Bool.false_eq_true, or_self, ↓reduceIte]

theorem State.patGo_runs (hg : nbit v 0 = true) (ho : (s.phy k c).online = false) (hr : (s.phy k c).running = false)
    (hp : patPat v < 4) (hd : patDir v ≠ 3) {s1 : State} (h1 : s1 = s.setPhy k c
      { s.phy k c with pat := v &&& patMask, done := false, perr := 0, running := true, bursts := patBursts v }) :
    s.patGo k c v = if patDir v = 2 then s1.loopRun k c (patPc v) else s1 := by
  subst h1
  simp only [State.patGo, hg, ho, hr, Nat.not_le.2 hp, hd, Bool.true_eq_false, Bool.false_eq_true, or_self, ↓reduceIte]

/-- The count of failing lanes of a run that ends (R262). -/
def badCount (s : State) (k c lanes nbad : Nat) : Nat :=
  if lanes &&& laneMask (s.phy k c).lrep = 0 then 0 else max 1 (min nbad (min (s.phy k c).bursts 65535))

theorem badCount_zero {lanes nbad : Nat} (h : lanes &&& laneMask (s.phy k c).lrep = 0) : badCount s k c lanes nbad = 0 :=
  if_pos h

theorem one_le_badCount {lanes nbad : Nat} (h : lanes &&& laneMask (s.phy k c).lrep ≠ 0) : 1 ≤ badCount s k c lanes nbad :=
  Nat.le_trans (Nat.le_max_left 1 _) (Nat.le_of_eq (if_neg h).symm)

theorem badCount_le (s : State) (k c lanes nbad : Nat) : badCount s k c lanes nbad ≤ 65535 := by
  unfold badCount
  split <;> omega

theorem State.patDone_ends {lanes nbad : Nat} (h : (s.phy k c).running = true) :
    s.patDone k c lanes nbad = s.setPhy k c { s.phy k c with
      running := false, done := true, perr := BitVec.ofNat 64 (badCount s k c lanes nbad * 2 ^ 34 + (lanes &&& laneMask (s.phy k c).lrep)) } := by
  simp only [State.patDone, badCount, h, Bool.not_true, Bool.false_eq_true, ↓reduceIte]

end Pattern

/-- Settles O47: each event of the DRAM units, by the branches of its turn. -/
theorem dramEventsHappen : Obligations.DramEventsHappen := by
  unfold Obligations.DramEventsHappen
  refine ⟨fun _ => rfl, fun s hb => ⟨fun hc => congrArg _ (State.amapDone_refused hb hc), fun hc => ?taken⟩, fun s e k t q => ?migrate,
    fun s e k t f => ?ends, fun s k d hk hd => ?mapout, fun s k c hc => ?patrol, fun _ _ => rfl, fun s k c v hk hc => ?channel,
    fun s k c lanes nbad hk hc => ?patDone⟩
  case taken =>
    exact ⟨s.amapTaken, congrArg _ (State.amapDone_taken hb hc), rfl, rfl, rfl, rfl, fun _ => State.amapTaken_l2,
      fun _ h _ => State.amapTaken_l1 h⟩
  case migrate =>
    intro p ent old top s1 hen hq
    refine ⟨fun hm hon => ⟨fun ht => ?_, fun hk hv ht hf hto => ?_⟩, fun m hm => ⟨fun s2 hn hold hnew => ?_, fun s2 hn hd hon => ?_⟩⟩
    · have drop : (s.pmig e).queue.drop 1 = q := congrArg (List.drop 1) hq
      refine congrArg _ (((State.migrate_start hen hq hm).trans (State.migrStart_stands hon ht)).trans ?_)
      rw [drop]
    · exact congrArg _ ((State.migrate_start hen hq hm).trans (State.migrStart_moves hon hk hv ht hf rfl hto rfl))
    · obtain ⟨goes, fails⟩ := State.migrStep_next (e := e) (s2 := s2) hn hold hnew
      exact ⟨fun h => congrArg _ ((State.migrate_step hen hq hm).trans (goes h)),
        fun h => congrArg _ ((State.migrate_step hen hq hm).trans (fails h))⟩
    · obtain ⟨goes, fails⟩ := State.migrStep_last (s2 := s2) hn hd hon
      exact ⟨fun h => congrArg _ ((State.migrate_step hen hq hm).trans (goes h)),
        fun h => congrArg _ ((State.migrate_step hen hq hm).trans (fails h))⟩
  case ends => exact ⟨rfl, rfl⟩
  case mapout =>
    intro r
    have e : exec (.rmapMapout k d) s = .next (s.mapout (k % 8) (d % 16)) := rfl
    rw [e, Nat.mod_eq_of_lt hk, Nat.mod_eq_of_lt hd]
    exact ⟨fun h => congrArg _ (State.mapout_refused h), fun hm ho ho2 => ⟨_, rfl, State.mapout_taken hm ho ho2⟩⟩
  case patrol =>
    intro p n
    exact ⟨fun hk ho => congrArg _ (State.scrub_kept hc hk ho), fun ho => congrArg _ (State.scrub_goes hc ho rfl)⟩
  case channel =>
    intro p
    have ec : exec (.hphyChctlWrite k c v) s = .next (s.setPhy (k % 8) (c % 64) { s.phy (k % 8) (c % 64) with online := nbit v 0 }) := rfl
    have el : exec (.hphyLrepWrite k c v) s = .next (if (s.phy (k % 8) (c % 64)).online ∨ lrepOk v = false then s
      else s.setPhy (k % 8) (c % 64) { s.phy (k % 8) (c % 64) with lrep := v &&& 0xBFBF }) := rfl
    have eg : exec (.hphyPatGo k c v) s = .next (s.patGo (k % 8) (c % 64) v) := rfl
    rw [ec, el, eg, Nat.mod_eq_of_lt hk, Nat.mod_eq_of_lt hc]
    refine ⟨rfl, fun h => congrArg _ (if_pos h), fun ho hl => congrArg _ (if_neg ?_), fun h => congrArg _ (State.patGo_idle h),
      fun hg ho hr => ⟨fun h => congrArg _ (State.patGo_reserved hg ho hr h), fun hp hd => ?_⟩⟩
    · rw [show (s.phy k c).online = false from ho, hl]; decide
    · intro s1
      have runs := State.patGo_runs hg ho hr hp hd (s1 := s1) rfl
      exact ⟨fun h => congrArg _ (runs.trans (if_neg (by omega))), fun h => congrArg _ (runs.trans (if_pos h))⟩
  case patDone =>
    intro p l hr
    have e : exec (.hphyPatDone k c lanes nbad) s = .next (s.patDone (k % 8) (c % 64) lanes nbad) := rfl
    rw [e, Nat.mod_eq_of_lt hk, Nat.mod_eq_of_lt hc]
    exact ⟨badCount s k c lanes nbad, badCount_zero, one_le_badCount, badCount_le s k c lanes nbad, congrArg _ (State.patDone_ends hr)⟩

end Sys2Proof.Machine

/-! # Host and peer requests, and failed links (R72, R424 to R426, R429) -/

namespace Sys2Proof.Machine

/-- The little-endian bytes of a number give back what fits them. -/
theorem leVal_leBytes (n v : Nat) : leVal (leBytes n v) = v % 256 ^ n := by
  induction n generalizing v with
  | zero => rw [Nat.pow_zero, Nat.mod_one]; rfl
  | succ n ih =>
    have tail : leBytes (n + 1) v = BitVec.ofNat 8 v :: leBytes n (v / 256) := by
      simp only [leBytes, List.range_succ_eq_map, List.map_cons, List.map_map, Nat.pow_zero, Nat.div_one, Function.comp_def, Nat.succ_eq_add_one,
        Nat.pow_succ', Nat.div_div_eq_div_mul]
    rw [tail, leVal, ih, BitVec.toNat_ofNat, Nat.pow_succ' (m := 256), Nat.mod_mul]

/-! ## A request at a host port (R424) -/

section Port
variable {s : State} {e : Nat} {r : BusReq}

/-- A request that finds an open port with nothing held is served at once, and held where it is not served. -/
theorem State.arriveReq_open (hh : (s.port e).held = []) (ho : s.portOpen e r = true) :
    s.arriveReq e r = (s.serve e r).getD (s.setPort e { s.port e with held := [r] }) := by
  simp only [State.arriveReq, hh, ho, List.length_nil, State.drainPort, List.isEmpty_nil, Bool.not_true, Bool.or_self, Bool.and_false,
    Bool.false_eq_true, ↓reduceIte, List.nil_append]

/-- A frozen port holds what comes. -/
theorem State.arriveReq_frozen (hf : (s.port e).frozen = true) :
    s.arriveReq e r = s.setPort e { s.port e with held := (s.port e).held ++ [r] } := by
  have shut (q : BusReq) : s.portOpen e q = false := by simp only [State.portOpen, hf, Bool.not_true, Bool.false_and]
  have still : State.drainPort e (s.port e).held.length s = s := by
    cases hs : (s.port e).held with
    | nil => rfl
    | cons q qs => simp only [List.length_cons, State.drainPort, hs, shut, Bool.not_false, ↓reduceIte]
  have asleep : s.wakes e r = false := by simp only [State.wakes, hf, Bool.not_true, Bool.and_false, Bool.false_and]
  simp only [State.arriveReq, still, asleep, shut, Bool.not_false, Bool.or_true, Bool.and_self, ↓reduceIte]

/-- A write or a read of BAR2 that is not frozen is performed where memory is ready for it, and waits where it is not. -/
theorem State.serve_bar2 (h0 : r.stream = 0) (h2 : r.kind ≠ 2) (h3 : r.kind ≠ 3) (hb : s.outer.bootfail = false)
    (hf : s.freezesHost e r = false) (ha : r.kind ≤ 1 ∨ atomicOk r = true) :
    s.serve e r = if s.busReady r = false then none else
      some (match (s.busPerform r).2 with
        | none => (s.busPerform r).1
        | some none => (s.busPerform r).1.portOut e 1 []
        | some (some bs) => (s.busPerform r).1.portOut e 0 bs) := by
  have formed : ¬(1 < r.kind ∧ atomicOk r = false) := by
    rintro ⟨hk, hn⟩
    exact ha.elim (by omega) fun h => absurd (h.symm.trans hn) nofun
  simp only [State.serve, h0, h2, h3, hb, hf, formed, ne_eq, not_true_eq_false, false_and, or_self, Bool.false_eq_true, ↓reduceIte,
    Bool.not_eq_eq_eq_not, Bool.not_true] <;> rfl

theorem State.serve_freezes (h0 : r.stream = 0) (h2 : r.kind ≠ 2) (h3 : r.kind ≠ 3) (hb : s.outer.bootfail = false)
    (hf : s.freezesHost e r = true) : s.serve e r = some (s.freezeHost e r) := by
  simp only [State.serve, h0, h2, h3, hb, hf, ne_eq, not_true_eq_false, false_and, or_self, Bool.false_eq_true, ↓reduceIte]

/-- A write of BAR0 is served at once. -/
theorem State.serve_bar0 (h0 : r.stream = 0) (h3 : r.kind = 3) : s.serve e r = some (s.bar0 e r) := by
  simp only [State.serve, h0, h3, ne_eq, not_true_eq_false, false_and, or_true, ↓reduceIte]

theorem State.busPerform_write (hk : r.kind = 1) (hl : r.data.length = r.size) :
    s.busPerform r = (s.homeWrite { c := none, vt := 0, code := 0 } (.phys r.addr) r.data 0, none) := by
  simp only [State.busPerform, hk, ↓reduceIte, ← hl, List.take_left]

theorem State.busPerform_read {s1 : State} {bs : List Byte} (hk : r.kind = 0) (hb : s.busRead r.addr r.size = (s1, some bs)) :
    s.busPerform r = (s1, some (some bs)) := by
  simp only [State.busPerform, hk, hb, Nat.zero_ne_one, ↓reduceIte]

/-- A register of BAR0 is written whole by a doorbell's write. -/
theorem State.arriveReq_bar0 {o v : Nat} (ho : o % 8 = 0) (ho2 : o < 65536) (hv : v < 2 ^ 64) (hh : (s.port e).held = [])
    (hf : (s.port e).frozen = false) : s.arriveReq e (bar0Req o v) = s.bar0Write e o v := by
  have opened : s.portOpen e (bar0Req o v) = true := by
    simp only [State.portOpen, hf, bar0Req, Bool.not_false, BEq.rfl, Bool.or_true, Bool.true_or, Bool.and_self]
  have whole : leVal ((leBytes 8 v).take 8) = v := by
    rw [List.take_of_length_le (Nat.le_of_eq (leBytes_length 8 v)), leVal_leBytes, Nat.mod_eq_of_lt (by omega)]
  have aligned : o / 8 * 8 = o := by omega
  rw [State.arriveReq_open hh opened, State.serve_bar0 rfl rfl, Option.getD_some]
  simp only [State.bar0, bar0Req, Nat.mod_eq_of_lt ho2, ho, whole, aligned, Nat.pow_zero, Nat.mul_one, Nat.mod_eq_of_lt hv, ne_eq,
    not_true_eq_false, or_self, Nat.reduceEqDiff, Nat.reduceLT, ↓reduceIte]

end Port

/-! ## A request of a peer (R72) -/

theorem execPeerRequest_performed {s : State} {p : Nat} {r : BusReq} (hm : mhas s.outer.peerPort p = true)
    (hd : s.outer.linkDown.contains (mget 0 s.outer.peerPort p) = false) (hr : s.outer.retain.on = false)
    (hb : ∀ q ∈ sectorPieces (r.size / 256 + 2) r.addr r.size, q.1 + q.2 ≤ 2 ^ 51 ∧
      (∃ x, s.backing q.1 = .hbm x ∨ ∃ y, s.backing q.1 = .lpddr x y)) (hy : s.busReady r = true) :
    execPeerRequest p r s = .next (match (s.busPerform r).2 with
        | none => (s.busPerform r).1
        | some none => (s.busPerform r).1.peerAnswer 1 []
        | some (some bs) => (s.busPerform r).1.peerAnswer 0 bs) := by
  have linked : ¬(mhas s.outer.peerPort p = false ∨ s.outer.linkDown.contains (mget 0 s.outer.peerPort p) = true ∨
      s.outer.retain.on = true) := by
    rw [hm, hd, hr]; decide
  refine congrArg Host.Outcome.next ((if_neg linked).trans ((if_neg ?backed).trans (if_neg (by rw [hy]; decide))))
  rw [Bool.not_eq_true, Bool.not_eq_false']
  refine List.all_eq_true.2 fun q hq => ?_
  obtain ⟨hle, x, hx | ⟨y, hx⟩⟩ := hb q hq
  · rw [hx, decide_eq_true hle]; rfl
  · rw [hx, decide_eq_true hle]; rfl

/-- Settles O48: requests by the order of the port's checks, and failed links. -/
theorem hostEventsHappen : Obligations.HostEventsHappen := by
  unfold Obligations.HostEventsHappen
  refine ⟨fun s e r he hh ho h0 h2 h3 hb => ?opened, fun s e r he hh hf => ?frozen, fun s e v he hv hh hf => ?bar0, fun s p r h => ?shut,
    fun s p r hm hd hr hb hy => ?peer, fun s n hn hd => ?link, fun s n hn hd => ?die⟩
  case opened =>
    have ev : exec (.hostRequest e r) s = .next (s.arriveReq (e % 2) r) := rfl
    rw [ev, Nat.mod_eq_of_lt he, State.arriveReq_open hh ho]
    refine ⟨fun hf => ?_, fun hf hk hy hl => ?_, fun s1 bs hf hk hy hq => ?_, fun hf ha hy => ?_⟩
    · rw [State.serve_freezes h0 h2 h3 hb hf]; rfl
    · rw [State.serve_bar2 h0 h2 h3 hb hf (.inl (Nat.le_of_eq hk)), hy, State.busPerform_write hk hl]; rfl
    · rw [State.serve_bar2 h0 h2 h3 hb hf (.inl (by omega)), hy, State.busPerform_read hk hq]; rfl
    · rw [State.serve_bar2 h0 h2 h3 hb hf ha, hy]; rfl
  case frozen =>
    have ev : exec (.hostRequest e r) s = .next (s.arriveReq (e % 2) r) := rfl
    rw [ev, Nat.mod_eq_of_lt he, State.arriveReq_frozen hf]
  case bar0 =>
    have ed : exec (.hlDoorbell e v) s = .next (s.arriveReq (e % 2) (bar0Req 0 v)) := rfl
    have ec : exec (.hlEventClear e v) s = .next (s.arriveReq (e % 2) (bar0Req 8 v)) := rfl
    rw [ed, ec, Nat.mod_eq_of_lt he, State.arriveReq_bar0 rfl (by decide) hv hh hf, State.arriveReq_bar0 rfl (by decide) hv hh hf]
    exact ⟨rfl, rfl⟩
  case shut => exact congrArg _ (if_pos h)
  case peer =>
    have ev : exec (.peerRequest p r) s = execPeerRequest p r s := rfl
    rw [ev, execPeerRequest_performed hm hd hr hb hy]
    refine ⟨fun hk hl => ?_, fun s1 bs hk hq => ?_⟩
    · rw [State.busPerform_write hk hl]
    · rw [State.busPerform_read hk hq]
  case link => exact congrArg _ (if_neg (by rw [hd]; simpa using hn))
  case die => exact congrArg _ (if_neg (by rw [hd]; simpa using hn))

end Sys2Proof.Machine

/-! # TDISP, key and SPDM messages, and a steward's register write (R280, R423, R427 to R432, R453) -/

namespace Sys2Proof.Machine

/-! ## Messages of trust -/

section Session
variable {s : State} {e : Nat}

theorem State.spdmOpen_eq (hb : s.outer.bootfail = false) : s.spdmOpen = true := by
  rw [State.spdmOpen, hb]; rfl

theorem execGetMeasurements_block {i : Nat} (h1 : 1 ≤ i) (h5 : i ≤ 5) : execGetMeasurements e i s = .next (s.portOut e 3 (s.digest e i)) :=
  congrArg _ ((if_neg (by omega)).trans (if_pos h5))

theorem execNegotiateAlgorithms_open (hb : s.outer.bootfail = false) (n : Nat) : execNegotiateAlgorithms e n s =
    .next (if n = 0 then (s.setPort e { s.port e with negotiated := false }).portOut e 7 []
      else (s.setPort e { s.port e with negotiated := true }).portOut e 4 []) := by
  simp only [execNegotiateAlgorithms, State.spdmOpen_eq hb, Bool.not_true, Bool.false_eq_true, ↓reduceIte]

/-- What a key exchange answers: two fresh exchange values, the most significant byte first. -/
def exchangeBytes (n : Nat) : List Byte := bytes384 (Config.spdmValue (2 * n)) ++ bytes384 (Config.spdmValue (2 * n + 1))

theorem exchangeBytes_length (n : Nat) : (exchangeBytes n).length = 96 := by
  simp only [exchangeBytes, bytes384, List.length_append, List.length_reverse, leBytes_length, Nat.reduceAdd]

theorem execKeyExchange_opens (hb : s.outer.bootfail = false) (hn : (s.port e).negotiated = true) : execKeyExchange e s =
    .next (({ s.setPort e { s.port e with session := true } with fresh := s.fresh + 1 } : State).portOut e 6 (exchangeBytes s.fresh)) := by
  simp only [execKeyExchange, State.spdmOpen_eq hb, hn, exchangeBytes, Bool.not_true, Bool.or_self, Bool.false_eq_true, ↓reduceIte]

theorem execIdeKeyProgramming_keys (hb : s.outer.bootfail = false) (hs : (s.port e).session = true) {n : Nat} (h1 : 1 ≤ n) (h5 : n ≤ 5) :
    execIdeKeyProgramming e n s = .next ((s.setPort e { s.port e with ide := mset (s.port e).ide n true }).portOut e 8 []) := by
  have some : ¬n = 0 := by omega
  have listed : ¬5 < n := by omega
  simp only [execIdeKeyProgramming, State.spdmOpen_eq hb, hs, some, listed, decide_false, Bool.not_true, Bool.or_self, Bool.false_eq_true,
    ↓reduceIte]

theorem execLockInterface_locks (hb : s.outer.bootfail = false) (hs : (s.port e).session = true) (ht : (s.port e).tdi = .unlocked) :
    execLockInterface e s = .next ((s.setPort e { s.port e with
      tdi := .locked, bndQt := s.sched.qtbase, bnd := s.bindings,
      bound := ((s.port e).ide.filter fun (x : Nat × Bool) => x.2).map (·.1), locks := (s.port e).locks + 1 }).portOut e 8 []) :=
  congrArg _ (if_neg (by rw [State.spdmOpen_eq hb, hs, ht]; decide))

theorem execStartInterfaceRequest_runs (hb : s.outer.bootfail = false) (hs : (s.port e).session = true) (ht : (s.port e).tdi = .locked) :
    execStartInterfaceRequest e s = .next ((s.setPort e { s.port e with tdi := .run }).portOut e 8 []) :=
  congrArg _ (if_neg (by rw [State.spdmOpen_eq hb, hs, ht]; decide))

theorem execStopInterfaceRequest_stops (hb : s.outer.bootfail = false) (hs : (s.port e).session = true) :
    execStopInterfaceRequest e s = .next ((s.setPort e { s.port e with tdi := .unlocked, bnd := [], bound := [] }).portOut e 8 []) :=
  congrArg _ (if_neg (by rw [State.spdmOpen_eq hb, hs]; decide))

/-- KEY_INSTALL of a locked or running TDI for an owner that its bindings hold (R280). -/
theorem execKeyInstall_installs (hb : s.outer.bootfail = false) (hs : (s.port e).session = true) {pcl slot owner sid key l : Nat}
    (ht : (s.port e).tdi = .locked ∨ (s.port e).tdi = .run) (hslot : slot < 16) (hl : (s.clu pcl).launch = some l)
    (ha : (s.launch l).active = true) (hbnd : ∃ b ∈ (s.port e).bnd, b.2.2 = (s.launch l).asid) (hv : (s.clu pcl).vcl = owner / 64)
    (hc : owner % 4 < (s.launch l).ectx) (ho : owner < 2 ^ 18) (hsid : sid < 2 ^ 32) (hkey : key < 2 ^ 256) :
    execKeyInstall e pcl slot owner sid key s = .next ((s.setClu pcl { s.clu pcl with
      keys := mset (s.clu pcl).keys slot
        { valid := true, owner := owner, sid := sid, lastSeal := 0, lastOpen := 0, key := key, tdi := some e } }).portOut e 8 []) := by
  obtain ⟨b, hmem, heq⟩ := hbnd
  have listed : (s.port e).bnd.any (fun b => b.2.2 == (s.launch l).asid) = true := List.any_eq_true.2 ⟨b, hmem, beq_iff_eq.2 heq⟩
  have live : ((s.port e).tdi == .locked || (s.port e).tdi == .run) = true := by
    obtain h | h := ht <;> rw [h] <;> rfl
  simp only [execKeyInstall, State.spdmOpen_eq hb, hs, live, hl, ha, listed, hv, hc, Nat.not_le.2 hslot, BEq.rfl, Bool.and_self, decide_true,
    decide_false, Bool.not_true, Bool.or_self, Bool.false_eq_true, ↓reduceIte, Nat.mod_eq_of_lt ho, Nat.mod_eq_of_lt hsid,
    Nat.mod_eq_of_lt hkey]

end Session

/-- Settles O49: each message past its checks. -/
theorem trustEventsHappen : Obligations.TrustEventsHappen := by
  unfold Obligations.TrustEventsHappen
  intro s e p
  refine ⟨rfl, fun i h1 h5 => execGetMeasurements_block h1 h5, fun hb => ⟨?_, ?_, fun n hn => ?_, fun hn => ?_⟩, fun hb hs =>
    ⟨fun n h1 h5 => execIdeKeyProgramming_keys hb hs h1 h5, execLockInterface_locks hb hs, execStartInterfaceRequest_runs hb hs,
      execStopInterfaceRequest_stops hb hs, fun pcl slot owner sid key l ht h1 h2 h3 h4 h5 h6 h7 h8 h9 =>
        execKeyInstall_installs hb hs ht h1 h2 h3 h4 h5 h6 h7 h8 h9⟩⟩
  · exact congrArg _ (if_neg (by rw [State.spdmOpen_eq hb]; decide))
  · exact (execNegotiateAlgorithms_open hb 0).trans (congrArg _ (if_pos rfl))
  · exact (execNegotiateAlgorithms_open hb n).trans (congrArg _ (if_neg hn))
  · exact ⟨exchangeBytes s.fresh, exchangeBytes_length _, execKeyExchange_opens hb hn⟩

/-! ## A steward's register write (R423) -/

/-- A write that is not aligned to its size, or of no allowed size, has no effect. -/
theorem execRegisterWrite_ignored {s : State} {pa size v o : Nat} {b : Block} (hb : blockOf pa = some (b, o))
    (h : o % size ≠ 0 ∨ (size ≠ 1 ∧ size ≠ 2 ∧ size ≠ 4 ∧ size ≠ 8)) : execRegisterWrite pa size v s = .next s := by
  unfold execRegisterWrite
  rw [hb]
  exact congrArg _ (if_pos h.symm)

/-- A whole register takes the value of the write. -/
theorem mergeReg_whole {old o v : Nat} (ho : o % 8 = 0) (hv : v < 2 ^ 64) (hold : old < 2 ^ 64) : mergeReg old o 8 v = v := by
  have small : v % 256 ^ 8 = v := Nat.mod_eq_of_lt (by omega)
  have all : old % 256 ^ 8 = old := Nat.mod_eq_of_lt (by omega)
  simp only [mergeReg, ho, Nat.pow_zero, Nat.div_one, Nat.mul_one, small, all, Nat.sub_self, Nat.zero_add]

/-- A whole aligned write is the register's own write. -/
theorem execRegisterWrite_whole {s : State} {pa v o : Nat} {b : Block} (hb : blockOf pa = some (b, o)) (ho : o % 8 = 0) (hv : v < 2 ^ 64)
    (hr : s.regAt b o < 2 ^ 64) : execRegisterWrite pa 8 v s = .next (s.regWrite b o v v) := by
  have aligned : o / 8 * 8 = o := by omega
  have small : v % 256 ^ 8 = v := Nat.mod_eq_of_lt (by omega)
  unfold execRegisterWrite
  rw [hb]
  refine congrArg _ ((if_neg (by omega)).trans ?_)
  simp only [aligned, mergeReg_whole ho hv hr, small, ho, Nat.pow_zero, Nat.mul_one]

/-- Settles O51: the write of a whole register, block by block. -/
theorem registerWriteHappens : Obligations.RegisterWriteHappens := by
  unfold Obligations.RegisterWriteHappens
  refine fun s pa size v b o hb => ⟨execRegisterWrite_ignored hb, ?_, ?_, ?_, ?_⟩
  · rintro rfl ho hv hr
    exact execRegisterWrite_whole hb ho hv hr
  · rintro e rfl rfl rfl hv hr
    exact execRegisterWrite_whole hb rfl hv hr
  · rintro rfl rfl rfl hv hr
    exact execRegisterWrite_whole hb rfl hv hr
  · rintro k rfl rfl rfl h1 hv hr
    have clears : nbit v 0 = true := by rw [nbit, Nat.pow_zero, Nat.div_one, h1]; rfl
    exact (execRegisterWrite_whole hb rfl hv hr).trans (congrArg _ (if_pos clears))

end Sys2Proof.Machine

/-! # Meters, the governor, retention, power and reset (R430, R433, R435, R437) -/

namespace Sys2Proof.Machine

/-! ## The meters (R433) -/

/-- One cluster's meter and the device's add the cluster's increment. -/
def State.meterOne (s a : State) (p : Nat) : State :=
  { (a.setClu p { a.clu p with meter := ((a.clu p).meter + s.meterAdd p) % 2 ^ 64 }) with
    egov := { a.egov with dev := (a.egov.dev + s.meterAdd p) % 2 ^ 64 } }

/-- An active launch and its slot add what the launch's clusters took. -/
def State.meterLaunch (s a : State) (l : Nat × Launch) : State :=
  if l.2.active then
    let n := ((l.2.pcls.filter fun (x : Nat × Nat) => s.heldClu x.2).map fun (x : Nat × Nat) => s.meterAdd x.2).foldl (· + ·) 0
    let x := a.slot l.2.slot
    (a.setLaunch l.1 { l.2 with eused := (l.2.eused + n) % 2 ^ 64 }).setSlot l.2.slot { x with espent := (x.espent + n) % 2 ^ 64 }
  else a

/-- The meters of a list of clusters and of the launches. -/
def State.metersOf (s : State) (ps : List Nat) : State :=
  { (ps.foldl s.meterOne s).launches.foldl s.meterLaunch (ps.foldl s.meterOne s) with fresh := s.fresh + 1 }

theorem State.meters_eq (s : State) : s.meters = s.metersOf (List.range 4096) := rfl

theorem State.clu_meterOne_same (s a : State) (p : Nat) :
    (s.meterOne a p).clu p = { a.clu p with meter := ((a.clu p).meter + s.meterAdd p) % 2 ^ 64 } :=
  State.clu_setClu_same a p _

theorem State.clu_meterOne_other (s a : State) {p q : Nat} (h : q ≠ p) : (s.meterOne a p).clu q = a.clu q :=
  State.clu_setClu_other a _ h

theorem State.clu_meterOne_foldl_other (s : State) {q : Nat} {ps : List Nat} (h : q ∉ ps) (a : State) :
    (ps.foldl s.meterOne a).clu q = a.clu q := by
  induction ps generalizing a with
  | nil => rfl
  | cons p ps ih =>
    obtain ⟨hp, hps⟩ := not_or.1 (mt List.mem_cons.2 h)
    rw [List.foldl_cons, ih hps, State.clu_meterOne_other _ _ hp]

/-- Each meter adds once. -/
theorem State.meter_meterOne_foldl (s : State) {q : Nat} {ps : List Nat} (hn : ps.Nodup) (h : q ∈ ps) (a : State) :
    ((ps.foldl s.meterOne a).clu q).meter = ((a.clu q).meter + s.meterAdd q) % 2 ^ 64 := by
  induction ps generalizing a with
  | nil => exact absurd h List.not_mem_nil
  | cons p ps ih =>
    obtain ⟨hp, hps⟩ := List.nodup_cons.1 hn
    rw [List.foldl_cons]
    by_cases hq : q = p
    · subst hq
      rw [State.clu_meterOne_foldl_other _ hp, State.clu_meterOne_same]
    · rw [ih hps ((List.mem_cons.1 h).resolve_left hq), State.clu_meterOne_other _ _ hq]

/-- What the meters leave as it was. -/
def State.SameStore (a b : State) : Prop := a.mem = b.mem ∧ a.thr = b.thr ∧ a.gtime = b.gtime

theorem State.SameStore.trans {a b c : State} (h : a.SameStore b) (h' : b.SameStore c) : a.SameStore c :=
  ⟨h.1.trans h'.1, h.2.1.trans h'.2.1, h.2.2.trans h'.2.2⟩

theorem State.sameStore_meterOne (s a : State) (p : Nat) : (s.meterOne a p).SameStore a := ⟨rfl, rfl, rfl⟩

theorem State.meterLaunch_keeps (s a : State) (l : Nat × Launch) : (s.meterLaunch a l).SameStore a ∧ (s.meterLaunch a l).clus = a.clus := by
  unfold State.meterLaunch
  split
  · exact ⟨⟨rfl, rfl, rfl⟩, rfl⟩
  · exact ⟨⟨rfl, rfl, rfl⟩, rfl⟩

theorem State.sameStore_meterOne_foldl (s : State) (ps : List Nat) (a : State) : (ps.foldl s.meterOne a).SameStore a :=
  List.foldlRecOn ps s.meterOne ⟨rfl, rfl, rfl⟩ fun b hb p _ => (s.sameStore_meterOne b p).trans hb

theorem State.meterLaunch_foldl_keeps (s : State) (ls : SMap Launch) (a : State) :
    (ls.foldl s.meterLaunch a).SameStore a ∧ (ls.foldl s.meterLaunch a).clus = a.clus :=
  List.foldlRecOn ls s.meterLaunch (motive := fun b => b.SameStore a ∧ b.clus = a.clus) ⟨⟨rfl, rfl, rfl⟩, rfl⟩ fun b hb l _ =>
    ⟨(s.meterLaunch_keeps b l).1.trans hb.1, (s.meterLaunch_keeps b l).2.trans hb.2⟩

theorem State.meter_metersOf (s : State) {p : Nat} {ps : List Nat} (hn : ps.Nodup) (h : p ∈ ps) :
    ((s.metersOf ps).clu p).meter = ((s.clu p).meter + Config.energyOf p s.fresh) % 2 ^ 64 := by
  have same : (s.metersOf ps).clu p = (ps.foldl s.meterOne s).clu p :=
    congrArg (fun m => mget ({} : Cluster) m p) (s.meterLaunch_foldl_keeps _ _).2
  rw [same, State.meter_meterOne_foldl s hn h]
  rfl

theorem State.sameStore_metersOf (s : State) (ps : List Nat) : (s.metersOf ps).SameStore s :=
  (s.meterLaunch_foldl_keeps _ (ps.foldl s.meterOne s)).1.trans (s.sameStore_meterOne_foldl ps s)

/-! ## Retention (R435) -/

section Retention
variable {s : State}

theorem State.enterTurn_idle (he : s.outer.retain.entering = false) : s.enterTurn = s := by
  simp only [State.enterTurn, he, Bool.not_false, ↓reduceIte]

/-- With no launch placed and nothing under way, retention is entered at once. -/
theorem State.enterTurn_enters (he : s.outer.retain.entering = true) (hb : s.dram.amap.busy = false) (hk : nbit s.kstat 0 = false)
    (hr : s.rest = none) (hl : ∀ p ∈ s.clus, p.2.launch = none) : s.enterTurn = s.retained := by
  have idle (p : Nat × Cluster) (hp : p ∈ s.clus) : p.2.launch.isSome = false := by rw [hl p hp]; rfl
  have noSave : s.unsaved = [] := by
    simp only [State.unsaved, List.map_eq_nil_iff, List.filter_eq_nil_iff]
    intro p hp
    rw [idle p hp]; nofun
  have noLaunch : (s.clus.any fun (p : Nat × Cluster) => p.2.launch.isSome) = false :=
    List.any_eq_false.2 fun p hp => by rw [idle p hp]; nofun
  simp only [State.enterTurn, he, hb, hk, hr, noSave, noLaunch, List.foldl_nil, Option.isSome_none, Bool.not_true, Bool.or_self,
    Bool.false_eq_true, ↓reduceIte]

/-- The state in which a request for retention takes its turn. -/
def State.asked (s : State) : State :=
  { s with outer := { s.outer with retain := { s.outer.retain with entering := true, before := s.saved.map fun (p : Nat × Saved) => p.1 } } }

theorem State.retainReq_enters (ho : s.outer.retain.on = false) (hb : s.dram.amap.busy = false) (hk : nbit s.kstat 0 = false)
    (hr : s.rest = none) (hl : ∀ p ∈ s.clus, p.2.launch = none) : s.retainReq = s.retained ∨ s.retainReq = s.asked.retained := by
  cases he : s.outer.retain.entering with
  | true => exact .inl ((if_pos (by rw [he]; rfl)).trans (State.enterTurn_enters he hb hk hr hl))
  | false => exact .inr ((if_neg (by rw [he, ho]; decide)).trans (State.enterTurn_enters (s := s.asked) rfl hb hk hr hl))

theorem State.retainReq_retained (ho : s.outer.retain.on = true) (he : s.outer.retain.entering = false) : s.retainReq = s :=
  (if_pos (by rw [ho, he]; rfl)).trans (State.enterTurn_idle he)

/-- What stands in RETAIN, entered from a. -/
structure State.Retained (a t : State) : Prop where
  on : t.outer.retain.on = true
  entering : t.outer.retain.entering = false
  gx : t.outer.retain.gx = a.gtime
  ticks : t.outer.retain.ticks = 0
  mem : t.mem = a.mem
  l2 : t.l2 = a.l2
  l1 : ∀ p ∈ t.clus, p.2.l1 = []
  event : ∀ e, e < 2 → (t.port e).event = (a.port e).event ||| 2
  warning : t.outer.retain.warning = a.outer.retain.warning

/-- An event of both ports. -/
theorem State.event_hlEvent_both (s : State) (bit : Nat) {e : Nat} (he : e < 2) :
    (((s.hlEvent 0 bit).hlEvent 1 bit).port e).event = (s.port e).event ||| 2 ^ bit := by
  obtain rfl | rfl : e = 0 ∨ e = 1 := by omega
  · rw [State.port_hlEvent_other _ _ (by decide), State.port_hlEvent_same]
  · rw [State.port_hlEvent_same, State.port_hlEvent_other _ _ (by decide)]

theorem State.retained_spec (s : State) : s.Retained s.retained where
  on := rfl
  entering := rfl
  gx := rfl
  ticks := rfl
  mem := rfl
  l2 := rfl
  l1 p hp := by
    obtain ⟨q, -, rfl⟩ := List.mem_map.1 hp
    rfl
  event e he := State.event_hlEvent_both _ 1 he
  warning := rfl

theorem State.retainReq_spec (ho : s.outer.retain.on = false) (hb : s.dram.amap.busy = false) (hk : nbit s.kstat 0 = false)
    (hr : s.rest = none) (hl : ∀ p ∈ s.clus, p.2.launch = none) : s.Retained s.retainReq := by
  obtain h | h := State.retainReq_enters ho hb hk hr hl
  · rw [h]
    exact s.retained_spec
  · obtain ⟨on, entering, gx, ticks, mem, l2, l1, event, warning⟩ := s.asked.retained_spec
    rw [h]
    exact ⟨on, entering, gx, ticks, mem, l2, l1, event, warning⟩

/-! ## The way out of retention (R437) -/

theorem State.resumeTurn_off (ho : s.outer.retain.on = false) : s.resumeTurn = s := by
  simp only [State.resumeTurn, ho, Bool.not_false, ↓reduceIte]

theorem State.resumeTurn_warned (ho : s.outer.retain.on = true) (hr : s.outer.retain.resuming = false) (hw : s.outer.retain.warning = true) :
    s.resumeTurn = s := by
  simp only [State.resumeTurn, ho, hr, hw, Bool.not_true, Bool.not_false, Bool.false_eq_true, ↓reduceIte]

theorem State.resumeTurn_starts (ho : s.outer.retain.on = true) (hr : s.outer.retain.resuming = false) (hw : s.outer.retain.warning = false) :
    s.resumeTurn = s.resumeStart := by
  simp only [State.resumeTurn, ho, hr, hw, Bool.not_true, Bool.not_false, Bool.false_eq_true, ↓reduceIte]

/-- What resumption has done before it replenishes the slots: GTIME goes on from G_x, and every promise is void. -/
structure State.Resumed (a t : State) : Prop where
  gtime : t.gtime = (a.outer.retain.gx + 65536 * (a.outer.retain.ticks + 1)) % 2 ^ 64
  resuming : t.outer.retain.resuming = true
  warning : t.outer.retain.warning = a.outer.retain.warning
  voided : ∀ x ∈ t.saved, (∀ p ∈ x.2.thr, p.2.promise = []) ∧ ∀ k ∈ x.2.clu.cmds, k.voided = true

theorem Saved.voided_spec (x : Saved) : (∀ p ∈ x.voided.thr, p.2.promise = []) ∧ ∀ k ∈ x.voided.clu.cmds, k.voided = true := by
  refine ⟨fun p hp => ?_, fun k hk => ?_⟩
  · obtain ⟨q, -, rfl⟩ := List.mem_map.1 hp
    rfl
  · obtain ⟨q, -, rfl⟩ := List.mem_map.1 hk
    rfl

/-- The bytes of the saved promises are cleared. -/
def State.promisesCleared (s : State) : State :=
  s.saved.foldl (fun (a : State) (p : Nat × Saved) =>
    p.2.thr.foldl (fun (b : State) (t : Nat × Thread) => if t.2.promise.isEmpty then b else b.clearPromise p.2 t.1) a) s

/-- The clusters to bring back, those saved before the entry last. -/
def State.toRestore (s0 : State) (before : List Nat) : List Nat :=
  let cs := (s0.saved.filter fun (p : Nat × Saved) => p.2.single.isNone).map fun (p : Nat × Saved) => p.1
  (cs.filter fun h => !before.contains h) ++ cs.filter before.contains

/-- The state in which resumption replenishes the slots. -/
def State.resumed (s : State) : State :=
  { s.promisesCleared with
    gtime := (s.outer.retain.gx + 65536 * (s.outer.retain.ticks + 1)) % 2 ^ 64,
    saved := s.promisesCleared.saved.map fun (p : Nat × Saved) => (p.1, p.2.voided),
    outer := { s.promisesCleared.outer with
      retain := { s.outer.retain with resuming := true, todo := s.promisesCleared.toRestore s.outer.retain.before } } }

theorem State.resumeStart_eq (s : State) : s.resumeStart = (slotNos.foldl (fun (a : State) k => a.replenish k) s.resumed).post 8 0 0
    ((slotNos.map s.resumed.passed).foldl (· + ·) 0) := by
  generalize hn : slotNos = ns
  unfold State.resumeStart
  rw [hn]
  rfl

theorem State.resumed_spec (s : State) : s.Resumed s.resumed where
  gtime := rfl
  resuming := rfl
  warning := rfl
  voided x hx := by
    obtain ⟨q, -, rfl⟩ := List.mem_map.1 hx
    exact q.2.voided_spec

end Retention

/-! ## The power warning (R435, R437) -/

/-- The warning input stands or is clear. -/
def State.warned (s : State) (w : Bool) : State := { s with outer := { s.outer with retain := { s.outer.retain with warning := w } } }

theorem exec_retainResume (s : State) : exec .retainResume s = .next s.resumeTurn := rfl
theorem exec_powerWarning (s : State) : exec .powerWarning s = .next (s.warned true).retainReq := rfl
theorem exec_powerWarningClear (s : State) : exec .powerWarningClear s = .next (s.warned false).resumeTurn := rfl

/-! ## Boot (R430) -/

/-- A steward is put at its entry with its firmware. -/
def State.bootOne (firmware : List Byte) (a : State) (c : Nat) : State :=
  (a.writeAt (.sram (c - 2 ^ 19) 0) firmware).setThread c (stewardThread c)

/-- The configuration image has taken effect. -/
def State.configured (s : State) : State :=
  { s with mapped := imgMapped,
           dram := { s.dram with amap := { staged := imgRegions, active := imgRegions }, rmap := (List.range 8).map fun k => (k, imgRmap k) },
           outer := { s.outer with booted := true, meas := s.outer.meas + 1, peerPort := imgPeers } }

theorem State.boot_eq (s : State) : s.boot = stewards.foldl (State.bootOne ((List.range 32768).map Config.firmware)) s.configured := rfl

theorem State.bootOne_foldl_keeps (fw : List Byte) (cs : List Nat) (a : State) :
    (cs.foldl (State.bootOne fw) a).outer = a.outer ∧ (cs.foldl (State.bootOne fw) a).gtime = a.gtime :=
  List.foldlRecOn cs (State.bootOne fw) (motive := fun b => b.outer = a.outer ∧ b.gtime = a.gtime) ⟨rfl, rfl⟩
    fun b hb _ _ => (⟨hb.1, hb.2⟩ : b.outer = a.outer ∧ b.gtime = a.gtime)

/-- Each steward of the list stands at its entry. -/
theorem State.thread_bootOne_foldl {c : Nat} {cs : List Nat} (h : c ∈ cs) (fw : List Byte) (a : State) :
    (cs.foldl (State.bootOne fw) a).thread c = stewardThread c := by
  have set (b : State) : (State.bootOne fw b c).thread c = stewardThread c := State.thread_setThread_same _ c _
  have kept (b : State) (d : Nat) (hb : b.thread c = stewardThread c) : (State.bootOne fw b d).thread c = stewardThread c := by
    by_cases hd : c = d
    · subst hd
      exact set b
    · exact (State.thread_setThread_other _ _ hd).trans hb
  induction cs generalizing a with
  | nil => exact absurd h List.not_mem_nil
  | cons d cs ih =>
    by_cases hc : c ∈ cs
    · exact ih hc _
    · obtain rfl : c = d := (List.mem_cons.1 h).resolve_right hc
      exact List.foldlRecOn cs (State.bootOne fw) (motive := fun b => b.thread c = stewardThread c) (set a) fun b hb d _ => kept b d hb

/-- The state of reset in which the boot decides. -/
def State.afterReset (s : State) : State := { State.reset with form := s.form, fresh := s.fresh + 1 }

/-- A reset whose fourth step does not come, or whose configuration image is no good. -/
def State.bootFailed (s : State) (n : Nat) : State :=
  let s1 : State := { s with outer := { s.outer with bootfail := true, meas := if 3 ≤ n then 1 else 0 } }
  (s1.hlEvent 0 3).hlEvent 1 3

theorem execReset_eq (s : State) (n : Nat) :
    execReset n s = .next (if 4 ≤ n ∧ imgOk = true then s.afterReset.boot else s.afterReset.bootFailed n) := rfl

theorem execReset_boots (s : State) {n : Nat} (hn : 4 ≤ n) (hi : imgOk = true) : execReset n s = .next s.afterReset.boot := by
  rw [execReset_eq, if_pos ⟨hn, hi⟩]

theorem execReset_fails (s : State) {n : Nat} (h : n < 4 ∨ imgOk = false) : execReset n s = .next (s.afterReset.bootFailed n) := by
  rw [execReset_eq, if_neg]
  rintro ⟨hn, hi⟩
  exact h.elim (by omega) fun hf => absurd (hi.symm.trans hf) nofun

theorem State.event_bootFailed (s : State) (n : Nat) {e : Nat} (he : e < 2) :
    ((s.bootFailed n).port e).event = (s.port e).event ||| 8 :=
  State.event_hlEvent_both _ 3 he

/-- Settles O50: each event by its turn, retention from the state it is entered in. -/
theorem energyEventsHappen : Obligations.EnergyEventsHappen := by
  unfold Obligations.EnergyEventsHappen
  intro s
  refine ⟨?meters, fun ha hc => congrArg _ (if_pos ⟨ha, hc⟩), fun h => congrArg _ (if_neg ?_), fun ho hb hk hr hl i hi => ?enter,
    fun ho he => ⟨?again, ?warned⟩, fun ho hr hw => congrArg _ (State.resumeTurn_warned ho hr hw), fun ho hr i hi => ?resume,
    fun ho => ?cleared, fun ho => congrArg _ (if_pos ho), fun n h => ?fails, fun n hn hi => ?boots⟩
  case meters =>
    have each (p : Nat) (hp : p < 4096) : p ∈ List.range 4096 := List.mem_range.2 hp
    have once : (List.range 4096).Nodup := List.nodup_range
    have e : exec .meterUpdate s = .next (s.metersOf (List.range 4096)) := rfl
    generalize List.range 4096 = ps at each once e
    obtain ⟨mem, thr, gtime⟩ := s.sameStore_metersOf ps
    exact ⟨s.metersOf ps, e, fun p hp => s.meter_metersOf once (each p hp), mem, thr, gtime⟩
  · rintro ⟨ha, hc⟩
    exact h.elim (fun hf => absurd (ha.symm.trans hf) nofun) (by omega)
  case enter =>
    obtain rfl | rfl := hi
    · obtain ⟨on, entering, gx, ticks, mem, l2, l1, event, -⟩ := State.retainReq_spec ho hb hk hr hl
      exact ⟨s.retainReq, rfl, on, entering, gx, ticks, mem, l2, l1, event, nofun⟩
    · obtain ⟨on, entering, gx, ticks, mem, l2, l1, event, warning⟩ := State.retainReq_spec (s := s.warned true) ho hb hk hr hl
      exact ⟨_, exec_powerWarning s, on, entering, gx, ticks, mem, l2, l1, event, fun _ => warning⟩
  case again => exact congrArg _ (State.retainReq_retained ho he)
  case warned =>
    exact (exec_powerWarning s).trans (congrArg _ (State.retainReq_retained (s := s.warned true) ho he))
  case resume =>
    obtain ⟨rfl, hw⟩ | rfl := hi
    · obtain ⟨gtime, resuming, warning, voided⟩ := s.resumed_spec
      have starts := (State.resumeTurn_starts ho hr hw).trans s.resumeStart_eq
      exact ⟨s.resumed, (exec_retainResume s).trans (congrArg _ starts), gtime, resuming, warning.trans hw, voided⟩
    · obtain ⟨gtime, resuming, warning, voided⟩ := (s.warned false).resumed_spec
      have starts := (State.resumeTurn_starts (s := s.warned false) ho hr rfl).trans (s.warned false).resumeStart_eq
      exact ⟨(s.warned false).resumed, (exec_powerWarningClear s).trans (congrArg _ starts), gtime, resuming, warning, voided⟩
  case cleared =>
    exact (exec_powerWarningClear s).trans (congrArg _ (State.resumeTurn_off (s := s.warned false) ho))
  case fails =>
    exact ⟨_, execReset_fails s h, rfl, rfl, rfl, rfl, fun e he => (State.event_bootFailed _ n he).trans (Nat.zero_or 8)⟩
  case boots =>
    obtain ⟨outer, gtime⟩ := State.bootOne_foldl_keeps _ stewards s.afterReset.configured
    refine ⟨_, execReset_boots s hn hi, ?_, ?_, ?_, fun c hc => ?_⟩
    · rw [State.boot_eq, outer]; rfl
    · rw [State.boot_eq, outer]; rfl
    · rw [State.boot_eq, gtime]; rfl
    · rw [State.boot_eq]
      exact State.thread_bootOne_foldl (List.mem_map.2 ⟨c, List.mem_range.2 hc, rfl⟩) _ _

end Sys2Proof.Machine


/-! # What leaves memory untouched -/
namespace Sys2Proof.Machine

theorem State.foldl_mem {α : Type} {f : State → α → State} (h : ∀ (a : State) (x : α), (f a x).mem = a.mem) (l : List α)
    (s : State) : (l.foldl f s).mem = s.mem :=
  List.foldlRecOn l f (motive := fun b => b.mem = s.mem) rfl fun b hb x _ => (h b x).trans hb

theorem State.mem_of_pair {α : Type} {p : State × α} {t : State} {a : α} {m : List Host.Cell} (h : p = (t, a)) (hp : p.1.mem = m) :
    t.mem = m := by
  rw [← hp, h]

/-! ## The state and its registers -/

@[simp] theorem State.dropResv_mem (s : State) (c : Nat) : (s.dropResv c).mem = s.mem := rfl

@[simp] theorem State.abandon_mem (s : State) (c : Nat) : (s.abandon c).mem = s.mem := by
  unfold State.abandon
  split <;> rfl

@[simp] theorem State.setSlot_mem (s : State) (n : Nat) (q : QSlot) : (s.setSlot n q).mem = s.mem := rfl

/-! ## Operands and homes -/

@[simp] theorem State.countErr_mem (s : State) (x : ErrEv) : (s.countErr x).mem = s.mem := rfl

@[simp] theorem State.countErrs_mem (s : State) : s.countErrs.mem = s.mem :=
  State.foldl_mem State.countErr_mem _ _

@[simp] theorem State.noteAbort_mem (s : State) (c : Nat) : (s.noteAbort c).mem = s.mem := rfl
@[simp] theorem State.l1Drop_mem (s : State) (p line : Nat) : (s.l1Drop p line).mem = s.mem := rfl
@[simp] theorem State.l1Use_mem (s : State) (p : Nat) (x : L1Line) : (s.l1Use p x).mem = s.mem := rfl

@[simp] theorem State.l1Fill_mem (s : State) (p pa cls lease : Nat) : (s.l1Fill p pa cls lease).mem = s.mem := by
  unfold State.l1Fill
  dsimp only
  (repeat' split) <;> rfl

@[simp] theorem State.walkLog_mem (s : State) (ag : Agent) (e : AccErr) : (s.walkLog ag e).mem = s.mem := by
  unfold State.walkLog
  split <;> simp

@[simp] theorem State.noteLeaseWaits_mem (s : State) : (s.noteLeaseWaits).mem = s.mem := rfl

theorem State.markUnit_mem {s t : State} {c : Nat} {u : Loc} {mask : Nat} (h : s.markUnit c u mask = some t) : t.mem = s.mem := by
  unfold State.markUnit at h
  dsimp only at h
  split at h
  · cases h; rfl
  split at h
  · cases h; rfl
  · cases h

@[simp] theorem State.storeDrop_mem (s : State) (c : Nat) (l : Loc) : (s.storeDrop c l).mem = s.mem := by
  unfold State.storeDrop
  (repeat' split) <;> simp

theorem State.homeLoad_mem {s t : State} {ag c : Nat} {l : Loc} {n cls : Nat} {home : Bool} {lease : Nat} {r : Bool × Nat}
    (h : s.homeLoad ag c l n cls home lease = some (t, r)) : t.mem = s.mem := by
  unfold State.homeLoad at h
  split at h
  · cases h
  next s1 h1 =>
    have marked : s1.mem = s.mem := by
      split at h1
      · exact State.markUnit_mem h1
      · cases h1; rfl
    cases h
    rw [← marked]
    (repeat' split) <;> simp

@[simp] theorem State.bufStore_mem (s : State) (c : Nat) (e : SbEnt) : (s.bufStore c e).mem = s.mem := rfl

@[simp] theorem State.pushStore_mem (s : State) (l : Loc) (size v cls : Nat) (arel : Bool) (path : Nat) :
    (s.pushStore l size v cls arel path).mem = s.mem := by
  simp [State.pushStore]

/-! ## The vector sequencer -/

@[simp] theorem State.ringAdd_mem (s : State) (c : Nat) (e : RingEnt) : (s.ringAdd c e).mem = s.mem := rfl
@[simp] theorem State.ringUpd_mem (s : State) (c : Nat) (n : BitVec 12) (f : RingEnt → RingEnt) : (s.ringUpd c n f).mem = s.mem := rfl

@[simp] theorem State.enqueue_mem (s : State) (page id : Nat) (f : Fld) (g member : Bool) (vals : List Word) :
    (s.enqueue page id f g member vals).mem = s.mem := by
  unfold State.enqueue
  split <;> rfl

@[simp] theorem State.restartVec_mem (s : State) (c : Nat) : (s.restartVec c).mem = s.mem := by
  unfold State.restartVec
  dsimp only
  (repeat' split) <;> rfl

@[simp] theorem State.vecFault_mem (s : State) (c : Nat) (e : SeqEnt) (sub : Nat) (addr : Word) (store : Bool) :
    (s.vecFault c e sub addr store).mem = s.mem := rfl

@[simp] theorem State.takeSq_mem (s : State) (c : Nat) : (s.takeSq c).1.mem = s.mem := rfl

@[simp] theorem State.vecMem_mem (s : State) (c : Nat) (e : SeqEnt) (v : Word) : (s.vecMem c e v).mem = s.mem := by
  unfold State.vecMem
  dsimp only
  (repeat' split) <;> simp

@[simp] theorem State.vecDo_mem (s : State) (c : Nat) (e : SeqEnt) (vals : List Word) : (s.vecDo c e vals).mem = s.mem := by
  unfold State.vecDo
  dsimp only
  (repeat' split) <;> simp

/-! ## Memory instructions -/

@[simp] theorem State.startPend_mem (s : State) (p : Pend) : (s.startPend p).mem = s.mem := rfl

@[simp] theorem State.pin_mem (s : State) (b c : Word) (p : Page) : (s.pin b c p).1.mem = s.mem := by
  unfold State.pin
  dsimp only
  (repeat' split) <;> rfl

@[simp] theorem State.migr_mem (s : State) (pa : Option Nat) (tier : Word) : (s.migr pa tier).1.mem = s.mem := by
  unfold State.migr
  dsimp only
  (repeat' split) <;> rfl

/-! ## Messages -/

@[simp] theorem State.onVclu_mem (s : State) (lid v : Nat) (g : Cluster → Cluster) : (s.onVclu lid v g).mem = s.mem := by
  unfold State.onVclu
  split <;> rfl

@[simp] theorem State.launchMsg_mem (s : State) (m : NetMsg) : (s.launchMsg m).mem = s.mem := rfl

@[simp] theorem State.departed_mem (s : State) (m : NetMsg) : (s.departed m).mem = s.mem := by
  unfold State.departed
  dsimp only
  (repeat' split) <;> simp

@[simp] theorem State.blacken_mem (s : State) (c lid src dst : Nat) : (s.blacken c lid src dst).mem = s.mem := by
  refine (State.foldl_mem (fun a l => ?_) _ _).trans ?_
  · split <;> rfl
  · simp only [apply_ite State.mem, State.setCore_mem, ite_self]

@[simp] theorem State.withdraw_mem (s : State) (c lid src dst : Nat) : (s.withdraw c lid src dst).mem = s.mem := rfl

@[simp] theorem State.delivered_mem (s : State) (c : Nat) (m : NetMsg) : (s.delivered c m).mem = s.mem := by
  unfold State.delivered
  split <;> simp

@[simp] theorem State.enter_mem (s : State) (c : Nat) (m : NetMsg) : (s.enter c m).mem = s.mem := by simp [State.enter]

@[simp] theorem State.arriveMsg_mem (s : State) (c : Nat) (m : NetMsg) : (s.arriveMsg c m).mem = s.mem := by
  unfold State.arriveMsg
  dsimp only
  (repeat' split) <;> simp

@[simp] theorem State.admitHeld_mem (s : State) (c : Nat) : (s.admitHeld c).mem = s.mem := by
  unfold State.admitHeld
  dsimp only
  (repeat' split) <;> simp

@[simp] theorem State.deliver_mem (s : State) (n : Nat) : (s.deliver n).mem = s.mem := by
  unfold State.deliver
  dsimp only
  (repeat' split) <;> simp

@[simp] theorem State.setMsg_mem (s : State) (a : BitVec 6) (m : V128) : (s.setMsg a m).mem = s.mem := rfl
@[simp] theorem State.takeMsg_mem (s : State) (a : BitVec 6) (n : Nat) (m : V128) : (s.takeMsg a n m).mem = s.mem := rfl

@[simp] theorem State.admitAll_mem (s : State) (c n : Nat) : (s.admitAll c n).mem = s.mem := by
  induction n generalizing s with
  | zero => rfl
  | succ n ih =>
    unfold State.admitAll
    split <;> simp [ih]

/-! ## What the engines share -/

@[simp] theorem State.engReadL_mem (ag : Agent) (w : Who) (cls : Nat) (ps : List (Word × Nat)) (s : State) :
    (State.engReadL ag w cls ps s).1.mem = s.mem := by
  induction ps generalizing s with
  | nil => rfl
  | cons p ps ih =>
    unfold State.engReadL
    split
    · exact State.walkLog_mem ..
    · split
      · rfl
      · dsimp only
        split <;> simp [ih]

@[simp] theorem State.engRead_mem (s : State) (ag : Agent) (w : Who) (cls : Nat) (va : Word) (n : Nat) :
    (s.engRead ag w cls va n).1.mem = s.mem := by
  unfold State.engRead
  split <;> simp

@[simp] theorem State.own_mem (s : State) (pcl eng id : Nat) (us : List UnitW) : (s.own pcl eng id us).mem = s.mem := rfl
@[simp] theorem State.disown_mem (s : State) (pcl eng id : Nat) (l : Loc) : (s.disown pcl eng id l).mem = s.mem := rfl
@[simp] theorem State.disownAll_mem (s : State) (pcl eng id : Nat) : (s.disownAll pcl eng id).mem = s.mem := rfl

/-! ## The copy engine -/

@[simp] theorem State.postDone_mem (s : State) (vcl slot lid tid tag bytes status : Nat) (block vt : Word) :
    (s.postDone vcl slot lid tid tag bytes status block vt).mem = s.mem := rfl

@[simp] theorem State.acceptCopy_mem (s : State) (fn : Nat) (f : Fld) (va : Word) (b : Blk) (p : Plan) :
    (s.acceptCopy fn f va b p).1.mem = s.mem := by
  unfold State.acceptCopy
  split <;> rfl

@[simp] theorem State.setCmd_mem (s : State) (pcl : Nat) (x : Cmd) : (s.setCmd pcl x).mem = s.mem := rfl

@[simp] theorem State.sendDec_mem (s : State) (pcl : Nat) (k : Cmd) (recv : Option Nat) (bytes : Nat) (err : Bool) :
    (s.sendDec pcl k recv bytes err).mem = s.mem := by
  unfold State.sendDec
  split
  · rfl
  · split
    · rfl
    · split <;> simp

@[simp] theorem State.copyEnd_mem (s : State) (pcl : Nat) (k : Cmd) (status : Nat) : (s.copyEnd pcl k status).mem = s.mem := by
  unfold State.copyEnd
  dsimp only
  (repeat' split) <;> simp [State.foldl_mem]

@[simp] theorem copyPieces_mem (pcl : Nat) (k : Cmd) (ps : List Piece) (s : State) (us : List UnitW) :
    (copyPieces pcl k ps s us).1.mem = s.mem := by
  induction ps generalizing s us with
  | nil => rfl
  | cons p ps ih =>
    unfold copyPieces
    dsimp only
    (repeat' split) <;> simp [ih]

@[simp] theorem sealUnits_mem (s : State) (pcl : Nat) (k : Cmd) : (sealUnits s pcl k).1.mem = s.mem := by
  unfold sealUnits
  dsimp only
  (repeat' split) <;> simp

/-! ## Events of memory -/

@[simp] theorem State.finishLoad_mem (s : State) (c : Nat) (p : Pend) (v : Nat) :
    (s.finishLoad c p v).mem = s.mem := by
  simp [State.finishLoad]

@[simp] theorem State.vecLoaded_mem (s : State) (c : Nat) (x : VMem) (v : Nat) : (s.vecLoaded c x v).mem = s.mem := rfl

@[simp] theorem State.vecReturn_mem (s : State) (c i lease : Nat) : (s.vecReturn c i lease).mem = s.mem := by
  unfold State.vecReturn
  split
  · rfl
  dsimp only
  split
  · rfl
  split
  · simp
  split
  · rfl
  split
  · rfl
  next h => split <;> simp [State.homeLoad_mem h]

@[simp] theorem State.arriveHome_mem (s : State) (c : Nat) (p : Pend) : (s.arriveHome c p).mem = s.mem := by
  unfold State.arriveHome
  split <;> rfl

@[simp] theorem State.dropMarks_mem (s : State) (c : Nat) : (s.dropMarks c).mem = s.mem := rfl

@[simp] theorem State.walkReadAll_mem (s : State) (asid va : Nat) : (s.walkReadAll asid va).mem = s.mem :=
  State.foldl_mem (fun _ _ => State.homeRead_mem ..) _ _

/-! ## Streams -/

theorem State.loadImages_mem {s t : State} {c : Nat} (h : s.loadImages c = some t) : t.mem = s.mem := by
  unfold State.loadImages at h
  split at h
  · next e => cases h; exact (State.setThread_mem ..).trans (State.mem_of_pair e (State.engRead_mem ..))
  · cases h

@[simp] theorem State.joinUnit_mem (s : State) : (s.joinUnit).mem = s.mem := rfl

@[simp] theorem State.forgetAll_mem (s : State) (rs : List Nat) : (s.forgetAll rs).mem = s.mem := by
  refine State.foldl_mem (fun a n => ?_) _ _
  simp only [apply_ite State.mem, State.setSr_mem, ite_self]

@[simp] theorem State.putSr_mem (s : State) (c n : Nat) (r : Strm) : (s.putSr c n r).mem = s.mem := rfl
@[simp] theorem State.setLook_mem (s : State) (c : Nat) (o : Option (Nat × Nat × Bool)) : (s.setLook c o).mem = s.mem := rfl

/-! ## The matrix engine -/

@[simp] theorem State.onThread_mem (s : State) (lid tid : Nat) (g : Thread → Thread) : (s.onThread lid tid g).mem = s.mem := by
  unfold State.onThread
  dsimp only
  (repeat' split) <;> rfl

@[simp] theorem State.setEng_mem (s : State) (pcl half : Nat) (e : MEng) : (s.setEng pcl half e).mem = s.mem := rfl
@[simp] theorem State.setGrp_mem (s : State) (pcl half n : Nat) (g : Group) : (s.setGrp pcl half n g).mem = s.mem := rfl
@[simp] theorem State.dropGrp_mem (s : State) (pcl half n : Nat) : (s.dropGrp pcl half n).mem = s.mem := rfl

@[simp] theorem State.mRow_mem (s : State) (pcl : Nat) (j : Job) (p : MPlace) (base w : Word) (r n : Nat) :
    (s.mRow pcl j p base w r n).1.mem = s.mem := by
  unfold State.mRow
  split
  · dsimp only; split <;> rfl
  · split
    case h_1 h => exact State.mem_of_pair h (State.engRead_mem ..)
    case h_2 h => exact State.mem_of_pair h (State.engRead_mem ..)
  · rfl

@[simp] theorem State.mRows_mem (pcl : Nat) (j : Job) (p : MPlace) (base w : Word) (n : Nat) (rs : List Nat) (s : State) :
    (State.mRows pcl j p base w n rs s).1.mem = s.mem := by
  induction rs generalizing s with
  | nil => rfl
  | cons r rs ih =>
    unfold State.mRows
    split
    case h_1 h => exact State.mem_of_pair h (State.mRow_mem ..)
    case h_2 h => exact (ih _).trans (State.mem_of_pair h (State.mRow_mem ..))

@[simp] theorem State.readA_mem (s : State) (pcl : Nat) (j : Job) (rows : List Nat) (n : Nat) :
    (s.readA pcl j rows n).1.mem = s.mem := by
  simp [State.readA]

@[simp] theorem State.readB_mem (s : State) (pcl : Nat) (j : Job) (rows : List Nat) (n : Nat) :
    (s.readB pcl j rows n).1.mem = s.mem := by
  simp [State.readB]

@[simp] theorem State.jobMul_mem (s : State) (pcl : Nat) (j : Job) (x : Tctx) : (s.jobMul pcl j x).1.mem = s.mem := by
  unfold State.jobMul
  generalize List.range = range
  dsimp only
  (repeat' split) <;> simp

@[simp] theorem State.jobTile_mem (s : State) (pcl : Nat) (j : Job) (x : Tctx) : (s.jobTile pcl j x).1.mem = s.mem := by
  unfold State.jobTile
  dsimp only
  split
  · split
    · rfl
    · split
      case h_1 h => exact State.mem_of_pair h (State.mRows_mem ..)
      case h_2 h => exact State.mem_of_pair h (State.mRows_mem ..)
  · (repeat' split) <;> rfl

@[simp] theorem State.jobGrp_mem (s : State) (pcl : Nat) (j : Job) (x : Tctx) : (s.jobGrp pcl j x).1.mem = s.mem := by
  unfold State.jobGrp
  dsimp only
  split
  · (repeat' split) <;> rfl
  · split
    · rfl
    · split
      case h_1 h => exact State.mem_of_pair h (State.mRow_mem ..)
      case h_2 h => split <;> exact State.mem_of_pair h (State.mRow_mem ..)
  · split <;> rfl
  · rfl

@[simp] theorem State.jobRun_mem (s : State) (pcl : Nat) (j : Job) (x : Tctx) : (s.jobRun pcl j x).1.mem = s.mem := by
  unfold State.jobRun
  split
  · exact State.jobGrp_mem ..
  · exact State.jobTile_mem ..
  · rfl
  · exact State.jobMul_mem ..

@[simp] theorem State.formGroup_mem (s : State) (pcl half key n lid : Nat) (who : List Nat) :
    (s.formGroup pcl half key n lid who).mem = s.mem :=
  (State.foldl_mem (fun _ _ => State.launchMsg_mem ..) _ _).trans ((State.foldl_mem (fun _ _ => State.onThread_mem ..) _ _).trans
    (State.setEng_mem ..))

@[simp] theorem State.mconv_mem (s : State) (c : Nat) (w : Word) : (s.mconv c w).1.mem = s.mem := by
  unfold State.mconv
  dsimp only
  (repeat' split) <;> simp

@[simp] theorem State.mleave_mem (s : State) (c : Nat) : (s.mleave c).1.mem = s.mem := by
  unfold State.mleave
  dsimp only
  (repeat' split) <;> rfl

@[simp] theorem State.acceptJob_mem (s : State) (c : Nat) (e : SeqEnt) : (s.acceptJob c e).mem = s.mem := by
  unfold State.acceptJob
  dsimp only
  (repeat' split) <;> rfl

@[simp] theorem State.loadGroup_mem (s : State) (pcl half n : Nat) (g : Group) (place : Nat) :
    (s.loadGroup pcl half n g place).mem = s.mem := by
  unfold State.loadGroup
  split
  · simp
  · split
    case h_1 h => exact (State.setGrp_mem ..).trans (State.mem_of_pair h (State.engRead_mem ..))
    case h_2 h => exact State.mem_of_pair h (State.engRead_mem ..)

@[simp] theorem State.jobEnd_mem (s : State) (pcl half n : Nat) (g : Group) (j : Job) (x : Tctx) (status : Nat) :
    (s.jobEnd pcl half n g j x status).mem = s.mem := by
  unfold State.jobEnd
  dsimp only
  (repeat' split) <;> simp

@[simp] theorem State.jobDiscard_mem (s : State) (pcl half n : Nat) (g : Group) (j : Job) (sub : Nat) (addr : Word) :
    (s.jobDiscard pcl half n g j sub addr).mem = s.mem := by
  simp [State.jobDiscard]

@[simp] theorem State.ownRest_mem (s : State) (pcl half n : Nat) (j : Job) (us : List UnitW) :
    (s.ownRest pcl half n j us).mem = s.mem := rfl

/-! ## Domains -/

@[simp] theorem State.onVcore_mem (s : State) (lid v k : Nat) (g : Core → Core) : (s.onVcore lid v k g).mem = s.mem := by
  unfold State.onVcore
  split <;> rfl

@[simp] theorem State.onDom_mem (s : State) (lid level u : Nat) (g : Dom → Dom) : (s.onDom lid level u g).mem = s.mem := by
  unfold State.onDom
  split <;> simp

@[simp] theorem State.formDom_mem (s : State) (lid level : Nat) (m : SMap Word) : (s.formDom lid level m).mem = s.mem := by
  simp [State.formDom, State.foldl_mem]

@[simp] theorem State.dissolveAt_mem (s : State) (lid level : Nat) (vs : List Nat) : (s.dissolveAt lid level vs).mem = s.mem := by
  simp [State.dissolveAt, State.foldl_mem]

@[simp] theorem State.dissolve_mem (s : State) (lid level v : Nat) : (s.dissolve lid level v).mem = s.mem := by
  unfold State.dissolve
  split <;> simp

@[simp] theorem State.formFixed_mem (s : State) (lid : Nat) : (s.formFixed lid).mem = s.mem := by
  simp [State.formFixed, State.foldl_mem]

@[simp] theorem State.phaseEnd_mem (s : State) (lid level : Nat) (us ts : List Nat) : (s.phaseEnd lid level us ts).mem = s.mem := by
  refine (State.foldl_mem (fun a t => ?_) _ _).trans ((State.foldl_mem (fun a t => State.onThread_mem ..) _ _).trans
    (State.foldl_mem (fun a u => State.onDom_mem ..) _ _))
  dsimp only
  split
  · rfl
  · exact State.launchMsg_mem ..

@[simp] theorem State.circuit_mem (s : State) (lid level leader : Nat) : (s.circuit lid level leader).mem = s.mem := by
  unfold State.circuit
  dsimp only
  (repeat' split) <;> simp [State.foldl_mem]

@[simp] theorem State.takeCkpt_mem (s : State) : (s.takeCkpt).mem = s.mem := rfl

/-! ## DRAM -/

@[simp] theorem State.amapCommit_mem (s : State) : (s.amapCommit).mem = s.mem := rfl
@[simp] theorem State.dropCopies_mem (s : State) (p : Nat → Bool) : (s.dropCopies p).mem = s.mem := rfl

@[simp] theorem State.amapDone_mem (s : State) : (s.amapDone).mem = s.mem := by
  unfold State.amapDone
  dsimp only
  (repeat' split) <;> rfl

@[simp] theorem State.setPmig_mem (s : State) (e : Nat) (p : Pmig) : (s.setPmig e p).mem = s.mem := rfl

@[simp] theorem State.scanAtoms_mem (ag : Agent) (n pa : Nat) (s : State) : (State.scanAtoms ag n pa s).1.mem = s.mem := by
  induction n generalizing pa s with
  | zero => rfl
  | succ n ih =>
    unfold State.scanAtoms
    dsimp only
    split <;> simp [ih]

@[simp] theorem State.hlEvent_mem (s : State) (e bit : Nat) : (s.hlEvent e bit).mem = s.mem := rfl
@[simp] theorem State.dropSectors_mem (s : State) (p : Nat → Bool) : (s.dropSectors p).mem = s.mem := rfl
@[simp] theorem State.setRmap_mem (s : State) (k : Nat) (r : Rmap) : (s.setRmap k r).mem = s.mem := rfl

@[simp] theorem State.mapout_mem (s : State) (stack die : Nat) : (s.mapout stack die).mem = s.mem := by
  unfold State.mapout
  dsimp only
  (repeat' split) <;> rfl

@[simp] theorem State.scrubAtom_mem (s : State) (a addr : Nat) : (s.scrubAtom a addr).mem = s.mem := by simp [State.scrubAtom]
@[simp] theorem State.setPhy_mem (s : State) (stack ch : Nat) (p : Phy) : (s.setPhy stack ch p).mem = s.mem := rfl

@[simp] theorem State.scrubSector_mem (s : State) (stack ch n : Nat) : (s.scrubSector stack ch n).mem = s.mem := by
  unfold State.scrubSector
  dsimp only
  (repeat' split) <;> simp [State.foldl_mem]

@[simp] theorem State.scrubSectors_mem (stack ch m n : Nat) (s : State) : (State.scrubSectors stack ch m n s).mem = s.mem := by
  induction m generalizing n s with
  | zero => rfl
  | succ m ih => rw [State.scrubSectors, ih, State.scrubSector_mem]

@[simp] theorem State.scrub_mem (s : State) (stack ch : Nat) : (s.scrub stack ch).mem = s.mem := by
  unfold State.scrub
  dsimp only
  (repeat' split) <;> simp

@[simp] theorem State.setElog_mem (s : State) (b : Nat) (l : Elog) : (s.setElog b l).mem = s.mem := rfl

@[simp] theorem State.patDone_mem (s : State) (stack ch lanes nbad : Nat) : (s.patDone stack ch lanes nbad).mem = s.mem := by
  unfold State.patDone
  dsimp only
  (repeat' split) <;> rfl

/-! ## Speculation -/

@[simp] theorem State.enqTask_mem (s : State) (lid level u : Nat) (k : Task) : (s.enqTask lid level u k).mem = s.mem := by
  refine (State.onVclu_mem ..).trans (State.foldl_mem (fun a l => ?_) _ _)
  simp only [apply_ite State.mem, State.onDom_mem, ite_self]

@[simp] theorem State.doneTask_mem (s : State) : (s.doneTask).mem = s.mem := by
  unfold State.doneTask
  dsimp only
  (repeat' split) <;> simp

@[simp] theorem State.takeTask_mem (s : State) (a : BitVec 6) (x l u : Nat) (k : Task) :
    (s.takeTask a x l u k).mem = s.mem := by
  simp [State.takeTask]

/-! ## The scheduler -/

@[simp] theorem State.readTail_mem (s : State) (q : Nat) : (s.readTail q).mem = s.mem := by
  unfold State.readTail
  split <;> rfl

@[simp] theorem State.schedRead_mem (s : State) (q : Nat) : (s.schedRead q).mem = s.mem := by
  simp only [State.schedRead, apply_ite State.mem, State.homeRead_mem, ite_self]

@[simp] theorem State.noteHead_mem (s : State) (n : Nat) : (s.noteHead n).mem = s.mem := rfl
@[simp] theorem State.tdiError_mem (s : State) (e : Nat) : (s.tdiError e).mem = s.mem := rfl

@[simp] theorem State.tdiCheck_mem (s : State) (broken : Port → Bool) : (s.tdiCheck broken).mem = s.mem := by
  refine State.foldl_mem (fun a e => ?_) _ _
  simp only [apply_ite State.mem, State.tdiError_mem, ite_self]

@[simp] theorem State.qschCtl_mem (s : State) (e v : Nat) : (s.qschCtl e v).mem = s.mem := by
  unfold State.qschCtl
  dsimp only
  (repeat' split) <;> rfl

/-! ## Token queues -/

@[simp] theorem State.putTq_mem (s : State) (core : Nat) (q : Tq) : (s.putTq core q).mem = s.mem := rfl

@[simp] theorem State.activate_mem (s : State) (core off : Nat) : (s.activate core off).1.mem = s.mem := by
  unfold State.activate
  dsimp only
  (repeat' split) <;> rfl

@[simp] theorem State.answer_mem (s : State) (kind : Nat) (home : Option (Nat × Nat)) (q : Option Tq) (status : Nat) :
    (s.answer kind home q status).mem = s.mem := rfl

@[simp] theorem State.deactivate_mem (s : State) (core off : Nat) : (s.deactivate core off).1.mem = s.mem := by
  unfold State.deactivate
  dsimp only
  (repeat' split) <;> rfl

@[simp] theorem State.decLost_mem (s : State) (d : CDec) : (s.decLost d).mem = s.mem := by
  unfold State.decLost
  split <;> simp

/-! ## Placement and launches -/

theorem State.declData_mem {s t : State} {w : Who} {o : Obj} {ioff n : Nat} {read : Bool} {bs : List Byte}
    (h : s.declData w o ioff n read = some (t, bs)) : t.mem = s.mem := by
  unfold State.declData at h
  split at h
  · cases h; rfl
  split at h
  · cases h
  split at h
  · cases h; rfl
  split at h
  · next e => cases h; exact State.mem_of_pair e (State.engRead_mem ..)
  · next e => cases h; exact State.mem_of_pair e (State.engRead_mem ..)

theorem State.declDom_mem {s t : State} {lid : Nat} {d : Nat × List Word} (h : s.declDom lid d = some t) : t.mem = s.mem := by
  unfold State.declDom at h
  dsimp only at h
  split at h
  · cases h; exact State.formDom_mem ..
  · cases h

@[simp] theorem State.stallAt_mem (s : State) (n q why : Nat) : (s.stallAt n q why).mem = s.mem := rfl
@[simp] theorem State.again_mem (s : State) : (s.again).mem = s.mem := rfl

@[simp] theorem State.endArrs_mem (s : State) (lid : Nat) : (s.endArrs lid).mem = s.mem := by
  refine State.foldl_mem (fun a i => ?_) _ _
  simp only [apply_ite State.mem, ite_self]

@[simp] theorem State.freeClu_mem (s : State) (p : Nat) : (s.freeClu p).mem = s.mem := by
  refine (State.foldl_mem (fun a i => ?_) _ _).trans (State.setClu_mem ..)
  exact (State.foldl_mem (fun d x => State.setThread_mem ..) _ _).trans (State.setCore_mem ..)

@[simp] theorem State.charge_mem (s : State) : (s.charge).mem = s.mem := by
  refine State.foldl_mem (fun a x => ?_) _ _
  (repeat' split) <;> simp

/-! ## Pre-emption -/

@[simp] theorem State.restCtx_mem (s : State) (c : Nat) (va : Word) (time : Nat) : (s.restCtx c va time).1.mem = s.mem := by
  unfold State.restCtx
  split
  case h_1 h => exact State.mem_of_pair h (State.engRead_mem ..)
  case h_2 h => dsimp only; split <;> exact (State.setThread_mem ..).trans (State.mem_of_pair h (State.engRead_mem ..))

@[simp] theorem State.setKstat_mem (s : State) (bit : Nat) (v : Bool) : (s.setKstat bit v).mem = s.mem := rfl

@[simp] theorem State.setEntry_mem (s : State) (lid v : Nat) (g : BitVec 16 → BitVec 16) : (s.setEntry lid v g).mem = s.mem := by
  simp [State.setEntry, State.foldl_mem]

@[simp] theorem State.askStop_mem (s : State) (c : Nat) : (s.askStop c).mem = s.mem := by
  unfold State.askStop
  dsimp only
  (repeat' split) <;> rfl

@[simp] theorem State.preempt_mem (s : State) (pcl : Nat) (core : Option Nat) : (s.preempt pcl core).mem = s.mem := by
  unfold State.preempt
  generalize ctxsOf = cs
  dsimp only
  (repeat' split) <;> simp [State.foldl_mem]

@[simp] theorem State.abortAll_mem (s : State) (cs : List Nat) : (s.abortAll cs).mem = s.mem := by
  refine State.foldl_mem (fun a c => ?_) _ _
  simp only [apply_ite State.mem, State.abortNow_mem, ite_self]

@[simp] theorem State.readMsgs_mem (s : State) (pcl : Nat) (base : Word) (n : Nat) (ms : List NetMsg) :
    (s.readMsgs pcl base n ms).1.mem = s.mem := by
  induction ms generalizing s n with
  | nil => rfl
  | cons m ms ih =>
    unfold State.readMsgs
    split
    case h_1 h => exact State.mem_of_pair h (State.engRead_mem ..)
    case h_2 h =>
      split
      case h_1 h' => exact State.mem_of_pair h' ((ih _ _).trans (State.mem_of_pair h (State.engRead_mem ..)))
      case h_2 h' => exact State.mem_of_pair h' ((ih _ _).trans (State.mem_of_pair h (State.engRead_mem ..)))

@[simp] theorem State.moveRecs_mem (s : State) (recs : List Nat) (old new : Nat) : (s.moveRecs recs old new).mem = s.mem := rfl

@[simp] theorem State.reload_mem (s : State) (h : Nat) (x : Saved) (pcl : Nat) : (s.reload h x pcl).mem = s.mem := by
  refine (State.foldl_mem (fun a t => State.setThread_mem ..) _ _).trans
    ((State.foldl_mem (fun a c => State.setCore_mem ..) _ _).trans ?_)
  simp only [State.setClu_mem, State.setLaunch_mem]

@[simp] theorem State.release_mem (s : State) (x : Saved) (msgs : List NetMsg) (pcl : Nat) : (s.release x msgs pcl).mem = s.mem := by
  simp [State.release, State.foldl_mem]

@[simp] theorem State.killCtx_mem (s : State) (c : Nat) : (s.killCtx c).mem = s.mem := by
  unfold State.killCtx
  dsimp only
  (repeat' split) <;> simp [State.foldl_mem]

/-! ## Traps -/

theorem State.trapReturn_mem {s t : State} (h : s.trapReturn = some t) : t.mem = s.mem := by
  unfold State.trapReturn at h
  dsimp only at h
  split at h
  · cases h; rfl
  split at h
  · cases h; rfl
  · cases h

/-! ## Hosts, power and reset -/

@[simp] theorem State.setPort_mem (s : State) (e : Nat) (p : Port) : (s.setPort e p).mem = s.mem := rfl
@[simp] theorem State.portOut_mem (s : State) (e code : Nat) (bs : List Byte) : (s.portOut e code bs).mem = s.mem := rfl

@[simp] theorem State.turnAway_mem (s : State) (e : Nat) (r : BusReq) : (s.turnAway e r).mem = s.mem := by
  unfold State.turnAway
  split <;> rfl

@[simp] theorem State.hlClear_mem (s : State) (e v : Nat) : (s.hlClear e v).mem = s.mem := rfl
@[simp] theorem State.retained_mem (s : State) : (s.retained).mem = s.mem := rfl

@[simp] theorem State.enterTurn_mem (s : State) : (s.enterTurn).mem = s.mem := by
  unfold State.enterTurn
  dsimp only
  (repeat' split) <;> simp [State.foldl_mem]

@[simp] theorem State.retainReq_mem (s : State) : (s.retainReq).mem = s.mem := by
  unfold State.retainReq
  dsimp only
  (repeat' split) <;> simp

@[simp] theorem State.fireAlarm_mem (s : State) (c : Nat) : (s.fireAlarm c).mem = s.mem := by
  unfold State.fireAlarm execAlarmFire
  dsimp only
  (repeat' split) <;> simp

@[simp] theorem State.resumeEnd_mem (s : State) : (s.resumeEnd).mem = s.mem := by
  unfold State.resumeEnd
  dsimp only
  (repeat' split) <;> simp [State.foldl_mem]

@[simp] theorem State.busRead_mem (s : State) (addr n : Nat) : (s.busRead addr n).1.mem = s.mem := by simp [State.busRead]
@[simp] theorem State.ideFail_mem (s : State) (e n : Nat) : (s.ideFail e n).mem = s.mem := rfl
@[simp] theorem State.peerAnswer_mem (s : State) (code : Nat) (bs : List Byte) : (s.peerAnswer code bs).mem = s.mem := rfl

@[simp] theorem State.meters_mem (s : State) : s.meters.mem = s.mem :=
  (s.sameStore_metersOf (List.range 4096)).1

@[simp] theorem State.amapWrite_mem (s : State) (o v full : Nat) : (s.amapWrite o v full).mem = s.mem := by
  unfold State.amapWrite
  dsimp only
  (repeat' split) <;> rfl

@[simp] theorem State.pmigWrite_mem (s : State) (e o v : Nat) : (s.pmigWrite e o v).mem = s.mem := by
  unfold State.pmigWrite
  dsimp only
  (repeat' split) <;> rfl

@[simp] theorem State.egovWrite_mem (s : State) (o v : Nat) : (s.egovWrite o v).mem = s.mem := by
  unfold State.egovWrite
  dsimp only
  (repeat' split) <;> rfl

@[simp] theorem State.elogWrite_mem (s : State) (b o v full : Nat) : (s.elogWrite b o v full).mem = s.mem := by
  unfold State.elogWrite
  dsimp only
  (repeat' split) <;> rfl

/-! ## The steward -/

@[simp] theorem State.thawThread_mem (s : State) (c : Nat) : (s.thawThread c).mem = s.mem := by
  unfold State.thawThread
  split <;> rfl

@[simp] theorem State.killHost_mem (s : State) (e : Nat) : (s.killHost e).mem = s.mem := by
  simp [State.killHost, State.foldl_mem]

/-! ## Rings -/

@[simp] theorem State.sendReq_mem (s : State) (p : Nat) (q : Req) : (s.sendReq p q).mem = s.mem := by
  unfold State.sendReq
  dsimp only
  (repeat' split) <;> rfl

@[simp] theorem State.sendWhile_mem (s : State) (p r n d : Nat) : (s.sendWhile p r n d).1.mem = s.mem := by
  induction n generalizing s d with
  | zero => rfl
  | succ n ih =>
    unfold State.sendWhile
    (repeat' split) <;> simp [ih]

@[simp] theorem State.setDeficit_mem (s : State) (p r d : Nat) : (s.setDeficit p r d).mem = s.mem := rfl

@[simp] theorem State.visitRing_mem (s : State) (p r : Nat) : (s.visitRing p r).mem = s.mem := by
  unfold State.visitRing
  split <;> simp

@[simp] theorem State.visitRings_mem (s : State) (p n : Nat) : (s.visitRings p n).mem = s.mem := by
  induction n generalizing s with
  | zero => rfl
  | succ n ih =>
    unfold State.visitRings
    simp [ih]

@[simp] theorem State.arbitrate_mem (s : State) (p : Nat) : (s.arbitrate p).mem = s.mem := by simp [State.arbitrate]

@[simp] theorem State.serveSlice_mem (s : State) (k : Nat) : (s.serveSlice k).mem = s.mem := by
  unfold State.serveSlice
  split <;> rfl

/-! ## Turns -/

@[simp] theorem State.noteMiss_mem (s : State) (m : Miss) : (s.noteMiss m).mem = s.mem := by
  unfold State.noteMiss
  split <;> rfl

@[simp] theorem State.noteMisses_mem (s : State) : (s.noteMisses).mem = s.mem := by
  simp [State.noteMisses, State.foldl_mem]

@[simp] theorem State.noteIssue_mem (s : State) (c : Nat) : (s.noteIssue c).mem = s.mem := rfl
@[simp] theorem State.fetched_mem (s : State) (c : Nat) (pc : Word) (words : List Half) : (s.fetched c pc words).mem = s.mem := rfl

end Sys2Proof.Machine

/-! # Instructions and their parts that leave memory untouched -/
namespace Sys2Proof.Machine

/-! ## What an instruction comes to keeps a memory -/

/-- Every state in what an instruction comes to has memory m. -/
def Res.Keeps (r : Res) (m : List Host.Cell) : Prop :=
  match r with
  | .ok s => s.mem = m
  | .stop _ p => ∀ t, p = some t → t.mem = m

/-- Every state in what a part of an instruction comes to has memory m. -/
def Got.Keeps {α : Type} (r : Got α) (m : List Host.Cell) : Prop :=
  match r with
  | .ok s _ => s.mem = m
  | .stop _ p => ∀ t, p = some t → t.mem = m

section Keeps
variable {α β : Type} {m : List Host.Cell}

@[simp] theorem Res.keeps_ok {s : State} : (Res.ok s).Keeps m ↔ s.mem = m := .rfl
@[simp] theorem Res.keeps_stop_none {e : Stop} : (Res.stop e none).Keeps m := fun t h => absurd h.symm (Option.some_ne_none t)
@[simp] theorem Res.keeps_stop_some {e : Stop} {s : State} : (Res.stop e (some s)).Keeps m ↔ s.mem = m :=
  ⟨fun h => h s rfl, fun h _ e => Option.some.inj e ▸ h⟩
@[simp] theorem Got.keeps_ok {s : State} {a : α} : (Got.ok s a).Keeps m ↔ s.mem = m := .rfl
@[simp] theorem Got.keeps_stop_none {e : Stop} : (Got.stop e none : Got α).Keeps m := fun t h => absurd h.symm (Option.some_ne_none t)
@[simp] theorem Got.keeps_stop_some {e : Stop} {s : State} : (Got.stop e (some s) : Got α).Keeps m ↔ s.mem = m :=
  ⟨fun h => h s rfl, fun h _ e => Option.some.inj e ▸ h⟩

theorem Res.Keeps.bind {r : Res} {k : State → Res} (hr : r.Keeps m) (hk : ∀ t, t.mem = m → (k t).Keeps m) : (r.bind k).Keeps m := by
  cases r with
  | ok s => exact hk s hr
  | stop e p => exact hr

theorem Got.Keeps.bind {r : Got α} {k : State → α → Got β} (hr : r.Keeps m) (hk : ∀ t a, t.mem = m → (k t a).Keeps m) :
    (r.bind k).Keeps m := by
  cases r with
  | ok s a => exact hk s a hr
  | stop e p => exact hr

theorem Got.Keeps.res {r : Got α} {k : State → α → Res} (hr : r.Keeps m) (hk : ∀ t a, t.mem = m → (k t a).Keeps m) :
    (r.res k).Keeps m := by
  cases r with
  | ok s a => exact hk s a hr
  | stop e p => exact hr

theorem Got.Keeps.keep {r : Got α} {s : State} (hr : r.Keeps m) (h : s.mem = m) : (r.keep s).Keeps m := by
  unfold Got.keep
  split
  · exact hr
  · exact hr
  next e p _ =>
    cases p with
    | none => simpa using h
    | some t => simpa using hr t rfl

theorem orStop_keeps {x : Except Stop α} {k : α → Res} (hk : ∀ a, (k a).Keeps m) : (orStop x k).Keeps m := by
  cases x with
  | ok a => exact hk a
  | error e => exact Res.keeps_stop_none

theorem Res.Keeps.keepWin {r : Res} (hr : r.Keeps m) (w : Win) : (r.keepWin w).Keeps m := by
  unfold Res.keepWin
  split
  · exact hr
  · simpa using hr
  · exact hr

/-! ## Loads, stores and the window -/

section Parts
variable {s : State}

@[simp] theorem State.loadAs_keeps (h : s.mem = m) (ag c : Nat) (va : Word) (l : Loc) (n cls code : Nat) :
    (s.loadAs ag c va l n cls code).Keeps m := by
  unfold State.loadAs
  generalize (if ag = 4 then 3 else pathOf c va l) = path
  dsimp only
  split
  · simp [h]
  split
  · simp
  split
  · simp
  next t bad v e => split <;> simp [h, State.homeLoad_mem e]

@[simp] theorem State.loadNow_keeps (h : s.mem = m) (c : Nat) (va : Word) (l : Loc) (n cls code : Nat) :
    (s.loadNow c va l n cls code).Keeps m :=
  State.loadAs_keeps h ..

theorem State.afterRelease_keeps {rel : Bool} {k : State → Res} (hk : (k s).Keeps m) : (s.afterRelease rel k).Keeps m := by
  unfold State.afterRelease
  split
  · simp
  · exact hk

theorem State.afterDrain_keeps {k : State → Res} (hk : (k s).Keeps m) : (s.afterDrain k).Keeps m := by
  unfold State.afterDrain
  split
  · exact hk
  · simp

theorem State.afterStores_keeps {k : State → Res} (hk : (k s).Keeps m) : (s.afterStores k).Keeps m := by
  unfold State.afterStores
  split
  · simp
  · exact hk

@[simp] theorem State.load_keeps (h : s.mem = m) (f : Fld) (va : Word) (size ord : Nat) (sx : Bool) (win : Win) :
    (s.load f va size ord sx win).Keeps m :=
  State.afterRelease_keeps (orStop_keeps fun l => by simp [h])

@[simp] theorem State.store_keeps (h : s.mem = m) (f : Fld) (va : Word) (size ord v : Nat) (win : Win) :
    (s.store f va size ord v win).Keeps m := by
  refine State.afterRelease_keeps (orStop_keeps fun l => ?_)
  dsimp only
  (repeat' split) <;> simp [h]

@[simp] theorem State.vamoNext_keeps (h : s.mem = m) (base : Word) (b : Nat) (p : Pend) : (s.vamoNext base b p).Keeps m := by
  unfold State.vamoNext
  dsimp only
  (repeat' split) <;> simp [h]

@[simp] theorem State.spillStores_keeps (h : s.mem = m) (ws : List (Word × Word)) : (s.spillStores ws).Keeps m := by
  have buffered (l : List (Loc × Word × Word)) (e : Loc × Word × Word → SbEnt) :
      (l.foldl (fun a x => a.bufStore s.cur (e x)) s).mem = m :=
    (State.foldl_mem (fun _ _ => State.bufStore_mem ..) _ _).trans h
  have pushed (l : List (Loc × Word × Word)) :
      (l.foldl (fun a x => a.pushStore x.1 8 x.2.2.toNat 0 false (pathOf s.cur x.2.1 x.1)) s).mem = m :=
    (State.foldl_mem (fun _ _ => State.pushStore_mem ..) _ _).trans h
  unfold State.spillStores
  dsimp only
  (repeat' split) <;> simp [buffered, pushed]

@[simp] theorem State.settle_keeps (h : s.mem = m) (w : Win) (z cnt : Nat) : (s.settle w z cnt).Keeps m := by
  unfold State.settle
  dsimp only
  split
  · simp [h]
  split
  · simp
  split
  · simp
  · exact (State.spillStores_keeps h _).bind fun t ht => by simp [ht]

@[simp] theorem State.resize_keeps (h : s.mem = m) (n : Nat) : (s.resize n).Keeps m := State.settle_keeps h ..

@[simp] theorem State.nameRegs_keeps (h : s.mem = m) (rs : List Nat) : (s.nameRegs rs).Keeps m := by
  unfold State.nameRegs
  dsimp only
  split <;> simp [h]

@[simp] theorem State.recvtEnds_keeps (h : s.mem = m) (p : Park) : (s.recvtEnds p).Keeps m :=
  (State.nameRegs_keeps h _).bind fun t ht => by simp [ht]

@[simp] theorem State.callTo_keeps (h : s.mem = m) (k : Nat) (target : Word) : (s.callTo k target).Keeps m :=
  (State.settle_keeps h ..).bind fun t ht => by simp [ht]

theorem State.checkEntry_keeps {t : Word} {k : State → Res} (hk : (k s).Keeps m) : (s.checkEntry t k).Keeps m := by
  unfold State.checkEntry
  split
  · simp
  split
  · simp
  split
  · simp
  split
  · simp
  · exact hk

@[simp] theorem State.retTo_keeps (h : s.mem = m) (w : Win) (u : Link) (rest : List Link) : (s.retTo w u rest).Keeps m := by
  unfold State.retTo
  split
  · simp
  · exact (State.settle_keeps h ..).bind fun t ht => by simp [ht]

@[simp] theorem State.waitVec_keeps : s.waitVec.Keeps m := by
  unfold State.waitVec
  split <;> simp

theorem State.afterVec_keeps {k : State → Res} (hk : (k s).Keeps m) : (s.afterVec k).Keeps m := by
  unfold State.afterVec
  split
  · simp
  · exact hk

@[simp] theorem State.endThread_keeps (h : s.mem = m) : s.endThread.Keeps m := by
  unfold State.endThread
  split
  · simp
  · refine State.afterVec_keeps ?_
    (repeat' split) <;> simp [h]

@[simp] theorem State.refillLoad_keeps (h : s.mem = m) (va : Word) : (s.refillLoad va).Keeps m := by
  unfold State.refillLoad
  split <;> simp [h]

@[simp] theorem State.refillRegs_keeps (h : s.mem = m) (va : Word) (l : Nat) (ring : SMap Word) (n : Nat) :
    (s.refillRegs va l ring n).Keeps m := by
  induction n generalizing s va l ring with
  | zero => exact h
  | succ n ih => exact (State.refillLoad_keeps h va).bind fun t v ht => ih ht ..

@[simp] theorem State.refill_keeps (h : s.mem = m) : s.refill.Keeps m := by
  refine (State.refillLoad_keeps h _).res fun t ret ht => (State.refillLoad_keeps ht _).res fun t lw ht => ?_
  dsimp only
  split
  · simp
  · exact (State.refillRegs_keeps ht ..).res fun t ring ht => State.retTo_keeps ht ..

@[simp] theorem State.blockOn_keeps (h : s.mem = m) (q : Nat) (push : Bool) : (s.blockOn q push).Keeps m := by
  unfold State.blockOn
  split <;> simp [h]

@[simp] theorem State.loadPieces_keeps (h : s.mem = m) (ag c cls : Nat) (tv : Word) (ps : List (Word × Nat)) :
    (State.loadPieces ag c cls tv ps s).Keeps m := by
  induction ps generalizing s with
  | nil => exact h
  | cons p ps ih =>
    unfold State.loadPieces
    split
    · simp
    next l _ =>
      have read := State.loadAs_keeps h ag c p.1 l p.2 cls 0
      split
      next e => rw [e] at read; exact read
      next e => rw [e] at read; exact read
      next e =>
        rw [e] at read
        exact (ih read).bind fun t bs ht => ht

@[simp] theorem State.loadObjAs_keeps (h : s.mem = m) (ag cls : Nat) (va : Word) (n al : Nat) : (s.loadObjAs ag cls va n al).Keeps m := by
  unfold State.loadObjAs
  (repeat' split) <;> simp [h]

@[simp] theorem State.loadObj_keeps (h : s.mem = m) (va : Word) (n al : Nat) : (s.loadObj va n al).Keeps m := State.loadObjAs_keeps h ..

end Parts
end Keeps
end Sys2Proof.Machine

/-! # Streams, messages and the rest of an instruction leave memory untouched -/
namespace Sys2Proof.Machine

section Streams
variable {m : List Host.Cell} {s : State}

/-! ## Reading a stream -/

theorem State.withIns_keeps (h : s.mem = m) {r : Strm} {k : Strm → Strm → Res} (hk : ∀ a b, (k a b).Keeps m) :
    (s.withIns r k).Keeps m := by
  unfold State.withIns
  dsimp only
  split
  · exact hk ..
  · simp [h]

theorem State.moveReg_keeps (h : s.mem = m) {n : Nat} {g : State → Strm → Got Strm} (hg : (g s (s.sr n)).Keeps m) :
    (s.moveReg n g).Keeps m :=
  (hg.keep h).res fun t r ht => by simp [ht]

@[simp] theorem State.fibre_keeps (h : s.mem = m) (r : Strm) : (s.fibre r).Keeps m := by
  unfold State.fibre
  split
  · exact (State.loadObjAs_keeps h ..).bind fun t d ht => by split <;> simp [ht]
  · exact h

@[simp] theorem State.entry_keeps (h : s.mem = m) (r : Strm) (addr n : Nat) : (s.entry r addr n).Keeps m := by
  unfold State.entry
  dsimp only
  (repeat' split) <;> simp [h]

@[simp] theorem State.nextBit_keeps (h : s.mem = m) (r : Strm) (x : Lev) (base n b : Nat) : (State.nextBit r x base n b s).Keeps m := by
  induction n generalizing b s with
  | zero => exact h
  | succ n ih =>
    refine (State.entry_keeps h ..).bind fun t w ht => ?_
    dsimp only
    split
    · exact ih ht _
    · split <;> simp [ht]

@[simp] theorem State.bitFrom_keeps (h : s.mem = m) (r : Strm) (x : Lev) (b : Nat) : (s.bitFrom r x b).Keeps m := State.nextBit_keeps h ..

@[simp] theorem State.crdEntry_keeps (h : s.mem = m) (r : Strm) (x : Lev) (q : Nat) : (s.crdEntry r x q).Keeps m := by
  unfold State.crdEntry
  split <;> simp [h]

@[simp] theorem State.consume_keeps (h : s.mem = m) (r : Strm) (d : List Byte) (q c a aux : Nat) (prev : Option (Nat × Nat)) :
    (s.consume r d q c a aux prev).Keeps m := by
  unfold State.consume
  dsimp only
  split
  · simp
  split
  · exact h
  split
  · exact h
  split
  · simp
  · refine (State.crdEntry_keeps h ..).bind fun t sc ht => (State.crdEntry_keeps ht ..).bind fun t sp ht => ?_
    (repeat' split) <;> simp [ht]

@[simp] theorem State.bitWalk_keeps (h : s.mem = m) (r : Strm) (d : List Byte) (key : Nat) (prev : Option (Nat × Nat))
    (fuel n q b : Nat) :
    (State.bitWalk r d key prev fuel n q b s).Keeps m := by
  induction fuel generalizing n q b s with
  | zero => exact h
  | succ fuel ih =>
    refine (State.bitFrom_keeps h ..).bind fun t o ht => ?_
    (repeat' split) <;> simp [ht, ih]

@[simp] theorem State.coord_keeps (h : s.mem = m) (r : Strm) (x : Lev) (q : Nat) : (s.coord r x q).Keeps m := by
  unfold State.coord
  split
  · exact h
  · exact (State.crdEntry_keeps h ..).bind fun t c ht => ht

@[simp] theorem State.advanceBy_keeps (h : s.mem = m) (r : Strm) (n : Nat) : (s.advanceBy r n).Keeps m := by
  unfold State.advanceBy
  split
  · exact h
  refine (State.fibre_keeps h r).bind fun t d ht => ?_
  dsimp only
  split
  · exact State.bitWalk_keeps ht ..
  split
  · exact ht
  · exact (State.coord_keeps ht ..).bind fun t c ht => State.consume_keeps ht ..

@[simp] theorem State.probe_keeps (h : s.mem = m) (r : Strm) (x : Lev) (q : Nat) : (s.probe r x q).Keeps m := by
  unfold State.probe
  split
  · simp
  · refine (State.crdEntry_keeps h ..).bind fun t c ht => ?_
    split <;> simp [ht]

@[simp] theorem State.gallopUp_keeps (h : s.mem = m) (r : Strm) (x : Lev) (key fuel i lo : Nat) :
    (State.gallopUp r x key fuel i lo s).Keeps m := by
  induction fuel generalizing i lo s with
  | zero => exact h
  | succ fuel ih =>
    unfold State.gallopUp
    dsimp only
    split
    · exact h
    · refine (State.probe_keeps h ..).bind fun t c ht => ?_
      split <;> simp [ht, ih]

@[simp] theorem State.gallopIn_keeps (h : s.mem = m) (r : Strm) (x : Lev) (key fuel lo hi c : Nat) :
    (State.gallopIn r x key fuel lo hi c s).Keeps m := by
  induction fuel generalizing lo hi c s with
  | zero => exact h
  | succ fuel ih =>
    unfold State.gallopIn
    dsimp only
    split
    · exact h
    · refine (State.probe_keeps h ..).bind fun t c ht => ?_
      split <;> simp [ht, ih]

@[simp] theorem State.gallop_keeps (h : s.mem = m) (r : Strm) (key : Nat) : (s.gallop r key).Keeps m := by
  unfold State.gallop
  split
  · exact h
  refine (State.fibre_keeps h r).bind fun t d ht => ?_
  dsimp only
  split
  · exact State.bitWalk_keeps ht ..
  · split <;> simp [ht]
  · refine (State.gallopUp_keeps ht ..).bind fun t g ht => (State.gallopIn_keeps ht ..).bind fun t i ht => ?_
    split <;> simp [ht]

/-! ## The combinators -/

@[simp] theorem State.settleComb_keeps (h : s.mem = m) (n k : Nat) : (State.settleComb n k s).Keeps m := by
  induction k generalizing s with
  | zero => exact h
  | succ k ih =>
    unfold State.settleComb
    dsimp only
    split
    · simp [h]
    refine State.withIns_keeps h fun a b => ?_
    split
    · simp [h]
    split
    · exact (State.moveReg_keeps (by simp [h]) (by simp [h])).bind fun t ht => ih ht
    · exact (State.moveReg_keeps (by simp [h]) (by simp [h])).bind fun t ht => ih ht

@[simp] theorem State.settleReg_keeps (h : s.mem = m) (n : Nat) : (s.settleReg n).Keeps m := State.settleComb_keeps h ..

@[simp] theorem State.phaseOne_keeps (h : s.mem = m) (n : Nat) : (s.phaseOne n).Keeps m :=
  State.withIns_keeps h fun _ _ => (State.moveReg_keeps h (by simp [h])).bind fun t ht => by simp [ht]

@[simp] theorem State.pendWork_keeps (h : s.mem = m) (n : Nat) : (s.pendWork n).Keeps m := by
  unfold State.pendWork
  dsimp only
  (repeat' split) <;> simp [h]

@[simp] theorem State.pendAll_keeps (h : s.mem = m) (ns : List Nat) : (State.pendAll ns s).Keeps m := by
  induction ns generalizing s with
  | nil => exact h
  | cons n ns ih => exact (State.pendWork_keeps h n).bind fun t ht => ih ht

@[simp] theorem State.worked_mem (s : State) (work : Bool) (rs : List Nat) : (s.worked work rs).mem = s.mem := by
  have kept : (if work then State.pendAll rs s else .ok s).Keeps s.mem := by
    split <;> simp
  unfold State.worked
  split
  next t e => rw [e] at kept; exact kept
  · rfl

theorem Res.Keeps.forgetting {r : Res} (hr : r.Keeps m) (h : s.mem = m) (rs : List Nat) : (r.forgetting s rs).Keeps m := by
  unfold Res.forgetting
  split
  · exact hr
  · exact hr
  next e p _ =>
    cases p with
    | none => simp [h]
    | some t => simpa using hr t rfl

theorem State.irrevocable_keeps {b : Bool} {k : State → Res} (hk : (k s).Keeps m) : (s.irrevocable b k).Keeps m := by
  unfold State.irrevocable
  split
  · simp
  · exact hk

@[simp] theorem State.fibreEnds_keeps (h : s.mem = m) (r : Strm) (x : Lev) : (s.fibreEnds r x).Keeps m := by
  unfold State.fibreEnds
  dsimp only
  split
  · exact h
  · exact h
  · refine (State.entry_keeps h ..).bind fun t st ht => (State.entry_keeps ht ..).bind fun t en ht => ?_
    split <;> simp [ht]

@[simp] theorem State.openRead_keeps (h : s.mem = m) (r : Strm) (d : List Byte) : (s.openRead r d).Keeps m := by
  refine (State.fibreEnds_keeps h ..).bind fun t e ht => ?_
  dsimp only
  split
  · exact State.bitWalk_keeps ht ..
  split
  · exact ht
  · exact (State.coord_keeps ht ..).bind fun t c ht => State.consume_keeps ht ..

@[simp] theorem State.sopen_keeps (h : s.mem = m) (n : Nat) (ow p : Word) (cls : Nat) : (s.sopen n ow p cls).Keeps m := by
  refine (State.loadObjAs_keeps h ..).res fun t d ht => ?_
  dsimp only
  split
  · simp
  split
  · exact (State.openRead_keeps ht ..).res fun t r ht => by simp [ht]
  · exact (State.entry_keeps ht ..).res fun t v ht => by simp [ht]

@[simp] theorem State.openBelow_keeps (h : s.mem = m) (n : Nat) (r : Strm) (cls : Nat) : (s.openBelow n r cls).Keeps m := by
  refine (State.fibre_keeps h r).res fun t d ht => ?_
  dsimp only
  split
  · simp
  · exact (State.openRead_keeps ht ..).res fun t r ht => by simp [ht]

@[simp] theorem State.nextComb_keeps (h : s.mem = m) (n : Nat) : (s.nextComb n).Keeps m := by
  unfold State.nextComb
  dsimp only
  split
  · simp [h]
  refine State.withIns_keeps h fun a b => ?_
  split
  · exact h
  · refine Res.Keeps.bind ?_ fun t ht => ?_
    · split
      · exact State.moveReg_keeps h (by simp [h])
      · exact h
    · split <;> simp [ht]

theorem State.query_keeps (h : s.mem = m) {n : Nat} {one : Strm → Word} {two : Nat → Strm → Strm → Word} {k : Word → Res}
    (hk : ∀ v, (k v).Keeps m) : (s.query n one two k).Keeps m := by
  unfold State.query
  dsimp only
  split
  · exact State.withIns_keeps h fun _ _ => hk _
  · exact hk _

theorem State.liveIns_keeps (h : s.mem = m) {n : Nat} {k : List Strm → Res} (hk : ∀ l, (k l).Keeps m) : (s.liveIns n k).Keeps m := by
  unfold State.liveIns
  dsimp only
  split
  · exact State.withIns_keeps h fun _ _ => hk _
  · exact hk _

@[simp] theorem State.liveVals_keeps (h : s.mem = m) (kind cls : Nat) (rs : List Strm) : (State.liveVals kind cls rs s).Keeps m := by
  induction rs generalizing s with
  | nil => exact h
  | cons r rs ih =>
    unfold State.liveVals
    split
    · exact (ih h).bind fun t l ht => ht
    refine (State.fibre_keeps h r).bind fun t d ht => ?_
    dsimp only
    split
    · exact (ih ht).bind fun t l ht => ht
    split
    · simp
    split
    · simp
    · exact (State.loadAs_keeps ht ..).bind fun t v ht => (ih ht).bind fun t l ht => ht

@[simp] theorem State.batch_keeps (h : s.mem = m) (d : List Byte) (fuel k : Nat) (r : Strm) (out : List Word) :
    (State.batch d fuel k r out s).Keeps m := by
  induction fuel generalizing k r out s with
  | zero => exact h
  | succ fuel ih =>
    have moved := State.advanceBy_keeps h r 1
    unfold State.batch
    split
    · exact h
    split
    next e => rw [e] at moved; exact ih moved ..
    · simp
    next p _ e =>
      rw [e] at moved
      split
      · cases p with
        | none => exact h
        | some t => exact moved t rfl
      · exact moved

theorem State.outReg_keeps (h : s.mem = m) {n : Nat} {k : State → Strm → List Byte → Res}
    (hk : ∀ t r d, t.mem = m → (k t r d).Keeps m) : (s.outReg n k).Keeps m := by
  unfold State.outReg
  dsimp only
  split
  · simp
  · exact (State.fibre_keeps h _).res fun t d ht => hk t _ d ht

theorem State.strmStore_keeps (h : s.mem = m) {va : Word} {n v cls : Nat} {k : State → Loc → Res}
    (hk : ∀ t l, t.mem = m → (k t l).Keeps m) :
    (s.strmStore va n v cls k).Keeps m := by
  refine orStop_keeps fun l => ?_
  split
  · simp
  · exact hk _ _ (by simp [h])

/-! ## Lookahead -/

@[simp] theorem State.lookRead_mem (s : State) (c n : Nat) (r : Strm) (k a bytes : Nat) (rec : Bool) :
    (s.lookRead c n r k a bytes rec).mem = s.mem := by
  unfold State.lookRead
  dsimp only
  split
  · rfl
  · simp [apply_ite State.mem]
  · simp [apply_ite State.mem]
  · simp [apply_ite State.mem]
  · simp [apply_ite State.mem]
  next l _ =>
    have read := State.loadAs_keeps (rfl : s.mem = s.mem) 4 c (BitVec.ofNat 64 a) l bytes r.cls 0
    split
    · rfl
    next p _ e =>
      rw [e] at read
      cases p with
      | none => simp [apply_ite State.mem]
      | some t => simpa [apply_ite State.mem] using read t rfl
    next e => rw [e] at read; simpa using read

@[simp] theorem State.lookTurn_mem (s : State) (c n k a bytes : Nat) (rec : Bool) : (s.lookTurn c n k a bytes rec).mem = s.mem := by
  unfold State.lookTurn
  (repeat' split) <;> simp

/-! ## Messages, domains, registers and translations -/

@[simp] theorem State.sendBody_keeps (h : s.mem = m) (d p0 p1 : Word) : (s.sendBody d p0 p1).Keeps m := by
  unfold State.sendBody
  dsimp only
  (repeat' split) <;> simp [h]

@[simp] theorem State.parkOn_keeps (h : s.mem = m) (p : Park) : (s.parkOn p).Keeps m := by simp [State.parkOn, h]

theorem State.arrive_keeps (h : s.mem = m) {level kind : Nat} {k : State → Res} (hk : ∀ t, t.mem = m → (k t).Keeps m) :
    (s.arrive level kind k).Keeps m := by
  unfold State.arrive
  split
  · simp
  · exact State.afterRelease_keeps (hk _ (by simp [h]))

theorem State.formReq_keeps (h : s.mem = m) {done : State} (hd : done.mem = m) (a : BitVec 6) (status : Nat) :
    (s.formReq a status done).Keeps m := by
  unfold State.formReq
  split
  · simp
  · simp [apply_ite State.mem, h, hd]

theorem State.withReg_keeps {n : Nat} {k : State → Word → Res} (hk : ∀ v, (k s v).Keeps m) : (s.withReg n k).Keeps m := by
  unfold State.withReg
  split
  · simp
  split
  · simp
  split
  · exact State.afterVec_keeps (hk _)
  · exact hk _

@[simp] theorem State.invalidate_keeps (h : s.mem = m) (asid : Option Nat) (near : Nat → Bool) (hit : TlbEnt → Bool) :
    (s.invalidate asid near hit).Keeps m := by
  refine State.afterRelease_keeps ?_
  split <;> simp [h]

end Streams
end Sys2Proof.Machine


/-! # What writes memory keeps it canonical -/
namespace Sys2Proof.Machine

/-! ## Canonical memory -/

theorem State.foldl_wf {α : Type} {f : State → α → State}
    (hf : ∀ a x, Memory.wf a.mem = true → Memory.wf (f a x).mem = true) (l : List α) {s : State} (h : Memory.wf s.mem = true) : Memory.wf (l.foldl f s).mem = true :=
  List.foldlRecOn l f (motive := fun b => Memory.wf b.mem = true) h fun a ha x _ => hf a x ha

theorem State.wf_of_pair {α : Type} {p : State × α} {t : State} {a : α} (h : p = (t, a)) (hp : Memory.wf p.1.mem = true) :
    Memory.wf t.mem = true := by
  rw [h] at hp
  exact hp

theorem State.ite_wf {p : Prop} [Decidable p] {a b : State} (ha : Memory.wf a.mem = true) (hb : Memory.wf b.mem = true) :
    Memory.wf (if p then a else b).mem = true := by
  split
  · exact ha
  · exact hb

@[simp] theorem State.wf_writeAt {s : State} (h : Memory.wf s.mem = true) (l : Loc) (bs : List Byte) :
    Memory.wf (s.writeAt l bs).mem = true :=
  s.writeAt_wf l bs h

@[simp] theorem State.wf_homeWrite {s : State} (h : Memory.wf s.mem = true) (w : Writer) (l : Loc) (bs : List Byte) (cls : Nat) :
    Memory.wf (s.homeWrite w l bs cls).mem = true :=
  s.homeWrite_wf w l bs cls h

@[simp] theorem State.wf_writeUnit {s : State} (h : Memory.wf s.mem = true) (w : Writer) (u : UnitW) (cls : Nat) :
    Memory.wf (s.writeUnit w u cls).mem = true :=
  s.writeUnit_wf w u cls h

/-- Every state in what an instruction comes to has a canonical memory. -/
def Res.Wf (r : Res) : Prop :=
  match r with
  | .ok s => Memory.wf s.mem = true
  | .stop _ p => ∀ t, p = some t → Memory.wf t.mem = true

@[simp] theorem Res.wf_ok {s : State} : (Res.ok s).Wf ↔ Memory.wf s.mem = true := .rfl
@[simp] theorem Res.wf_stop_none {e : Stop} : (Res.stop e none).Wf := fun t h => absurd h.symm (Option.some_ne_none t)

@[simp] theorem Res.wf_stop_some {e : Stop} {s : State} : (Res.stop e (some s)).Wf ↔ Memory.wf s.mem = true :=
  ⟨fun h => h s rfl, fun h _ e => Option.some.inj e ▸ h⟩

theorem Res.Keeps.wf {r : Res} {m : List Host.Cell} (hr : r.Keeps m) (h : Memory.wf m = true) : r.Wf := by
  cases r with
  | ok s => exact (congrArg Memory.wf hr).trans h
  | stop e p => exact fun t ht => (congrArg Memory.wf (hr t ht)).trans h

theorem Res.Wf.bind {r : Res} {k : State → Res} (hr : r.Wf) (hk : ∀ t, Memory.wf t.mem = true → (k t).Wf) : (r.bind k).Wf := by
  cases r with
  | ok s => exact hk s hr
  | stop e p => exact hr

theorem Res.Wf.keepWin {r : Res} (hr : r.Wf) (w : Win) : (r.keepWin w).Wf := by
  unfold Res.keepWin
  split
  · exact hr
  · simpa using hr
  · exact hr

/-- The state that a stop leaves, taken from s. -/
theorem Res.Wf.getD {s : State} {e : Stop} {p : Option State} (hr : (Res.stop e p).Wf) (h : Memory.wf s.mem = true) :
    Memory.wf (p.getD s).mem = true := by
  cases p with
  | none => exact h
  | some t => exact hr t rfl

/-! ## The state and its registers -/

@[simp] theorem State.ringPut_wf {s : State} (h : Memory.wf s.mem = true) (e : Word × Word) :
    Memory.wf (s.ringPut e).mem = true := by
  simp [State.ringPut, h]

@[simp] theorem State.drainEvents_wf {s : State} (h : Memory.wf s.mem = true) (n : Nat) :
    Memory.wf (State.drainEvents n s).mem = true := by
  induction n generalizing s with
  | zero => exact h
  | succ n ih =>
    unfold State.drainEvents
    (repeat' split) <;> simp [h, ih]

@[simp] theorem State.post_wf {s : State} (h : Memory.wf s.mem = true) (code slot queue arg : Nat) :
    Memory.wf (s.post code slot queue arg).mem = true := by
  simp [State.post, h]

@[simp] theorem State.makeRec_wf {s : State} (h : Memory.wf s.mem = true) (r : SRec) : Memory.wf (s.makeRec r).mem = true := by
  unfold State.makeRec
  split <;> simp [h]

@[simp] theorem State.freeRecord_wf {s : State} (h : Memory.wf s.mem = true) (k : Nat) : Memory.wf (s.freeRecord k).mem = true := by
  unfold State.freeRecord
  dsimp only
  (repeat' split) <;> simp [h]

@[simp] theorem State.freezeThread_wf {s : State} (h : Memory.wf s.mem = true) (c : Nat) (cause pc val addr : Word)
    (seqno : Option (BitVec 12)) :
    Memory.wf (s.freezeThread c cause pc val addr seqno).mem = true := by
  simp [State.freezeThread, h]

@[simp] theorem State.takeTrap_wf {s : State} (h : Memory.wf s.mem = true) (c cause : Nat) (cw pc val : Word)
    (seqno : Option (BitVec 12)) :
    Memory.wf (s.takeTrap c cause cw pc val seqno).mem = true := by
  unfold State.takeTrap
  dsimp only
  (repeat' split) <;> simp [h]

/-! ## Operands and homes -/

@[simp] theorem State.stopped_wf {s0 s : State} (h0 : Memory.wf s0.mem = true) (h : Memory.wf s.mem = true) (e : Stop) :
    Memory.wf (s0.stopped e s).mem = true := by
  unfold State.stopped
  dsimp only
  (repeat' split) <;> simp [h, h0]

@[simp] theorem State.storeNow_wf {s : State} (h : Memory.wf s.mem = true) (c : Nat) (l : Loc) (n v cls : Nat) :
    Memory.wf (s.storeNow c l n v cls).mem = true := by
  simp [State.storeNow, h]

/-! ## The vector sequencer -/

@[simp] theorem State.qdeadNow_wf {s : State} (h : Memory.wf s.mem = true) (c : Nat) : Memory.wf (s.qdeadNow c).mem = true := by
  unfold State.qdeadNow
  dsimp only
  (repeat' split) <;> simp [h]

@[simp] theorem State.vecStep_wf {s : State} (h : Memory.wf s.mem = true) (c : Nat) (e : SeqEnt) :
    Memory.wf (s.vecStep c e).mem = true := by
  unfold State.vecStep
  dsimp only
  (repeat' split) <;> simp [h]

@[simp] theorem State.vecTake_wf {s : State} (h : Memory.wf s.mem = true) (c : Nat) (e : SeqEnt) :
    Memory.wf (s.vecTake c e).mem = true := by
  simp [State.vecTake, h]

/-! ## The copy engine -/

@[simp] theorem State.copyFail_wf {s : State} (h : Memory.wf s.mem = true) (pcl : Nat) (k : Cmd) (e : EngErr) :
    Memory.wf (s.copyFail pcl k e).mem = true := by
  unfold State.copyFail
  split <;> simp [h]

@[simp] theorem State.copyStart_wf {s : State} (h : Memory.wf s.mem = true) (pcl : Nat) (k : Cmd) :
    Memory.wf (s.copyStart pcl k).mem = true := by
  unfold State.copyStart
  dsimp only
  (repeat' split) <;> simp [h]

@[simp] theorem State.copyWrite_wf {s : State} (h : Memory.wf s.mem = true) (pcl : Nat) (k : Cmd) (n : Nat) :
    Memory.wf (s.copyWrite pcl k n).mem = true := by
  unfold State.copyWrite
  (repeat' split) <;> simp [h]

@[simp] theorem State.copyTurn_wf {s : State} (h : Memory.wf s.mem = true) (pcl slot n : Nat) :
    Memory.wf (s.copyTurn pcl slot n).mem = true := by
  unfold State.copyTurn
  (repeat' split) <;> simp [h]

/-! ## Events of memory -/

@[simp] theorem State.failPend_wf {s : State} (h : Memory.wf s.mem = true) (c : Nat) (p : Pend) (e : Stop) :
    Memory.wf (s.failPend c p e).mem = true := by
  simp [State.failPend, h]

@[simp] theorem State.loadReturn_wf {s : State} (h : Memory.wf s.mem = true) (c lease : Nat) :
    Memory.wf (s.loadReturn c lease).mem = true := by
  unfold State.loadReturn
  split
  · exact h
  dsimp only
  split
  · exact h
  split
  · simp [h]
  split
  · exact h
  split
  · exact h
  next e => (repeat' split) <;> simp [h, State.homeLoad_mem e]

@[simp] theorem State.storeHome_wf {s : State} (h : Memory.wf s.mem = true) (k p n : Nat) : Memory.wf (s.storeHome k p n).mem = true := by
  unfold State.storeHome
  dsimp only
  (repeat' split) <;> simp [h]

@[simp] theorem State.doAmo_wf {s : State} (h : Memory.wf s.mem = true) (c : Nat) (p : Pend) (old : Nat) :
    Memory.wf (s.doAmo c p old).mem = true := by
  have next {t : State} (ht : Memory.wf t.mem = true) : ((t.vamoNext p.rh p.d p).keepWin p.win).Wf :=
    ((State.vamoNext_keeps rfl ..).wf ht).keepWin _
  unfold State.doAmo
  dsimp only
  split
  · simp [h]
  split
  next e =>
    refine Res.wf_ok.1 (e.subst (motive := Res.Wf) (next ?_))
    simp [h]
  next e =>
    refine State.stopped_wf ?_ ?_ _ <;> refine Res.Wf.getD (e.subst (motive := Res.Wf) (next ?_)) ?_ <;> simp [h]

@[simp] theorem State.grantRead_wf {s : State} (h : Memory.wf s.mem = true) (c : Nat) (p : Pend) :
    Memory.wf (s.grantRead c p).mem = true := by
  unfold State.grantRead
  dsimp only
  (repeat' split) <;> simp [h]

@[simp] theorem State.grant_wf {s : State} (h : Memory.wf s.mem = true) (c : Nat) : Memory.wf (s.grant c).mem = true := by
  unfold State.grant
  dsimp only
  (repeat' split) <;> simp [h]

@[simp] theorem State.drain_wf {s : State} (h : Memory.wf s.mem = true) (c : Nat) : Memory.wf (s.drain c).mem = true := by
  unfold State.drain
  dsimp only
  (repeat' split) <;> simp [h]

@[simp] theorem State.fetchFails_wf {s : State} (h : Memory.wf s.mem = true) (c : Nat) (e : Stop) :
    Memory.wf (s.fetchFails c e).mem = true := by
  simp [State.fetchFails, h]

@[simp] theorem State.fetchArrive_wf {s : State} (h : Memory.wf s.mem = true) (c : Nat) : Memory.wf (s.fetchArrive c).mem = true := by
  unfold State.fetchArrive
  dsimp only
  (repeat' split) <;> simp [h]

/-! ## The matrix engine -/

/-- The function is unfolded as a constant: the kernel then never has two matches on `engTarget` to compare. -/
@[simp] theorem State.drainGroup_wf {s : State} (h : Memory.wf s.mem = true) (pcl half n : Nat) (g : Group) :
    Memory.wf (s.drainGroup pcl half n g).mem = true := by
  have written (w : Writer) (us : List UnitW) : Memory.wf (us.foldl (fun (a : State) u => a.writeUnit w u 0) s).mem = true :=
    State.foldl_wf (fun _ _ ha => State.wf_writeUnit ha ..) us h
  generalize hf : @State.drainGroup = f
  delta State.drainGroup at hf
  subst hf
  generalize @State.engTarget = target
  as_aux_lemma =>
    dsimp only
    split
    · exact h
    · exact State.ite_wf h ((congrArg Memory.wf (State.setGrp_mem ..)).trans (written ..))

@[simp] theorem State.jobFail_wf {s : State} (h : Memory.wf s.mem = true) (pcl half n : Nat) (g : Group) (j : Job) (e : JobErr) :
    Memory.wf (s.jobFail pcl half n g j e).mem = true := by
  unfold State.jobFail
  split <;> simp [h]

@[simp] theorem State.solveStart_wf {s : State} (h : Memory.wf s.mem = true) (pcl half n : Nat) (g : Group) (j : Job) :
    Memory.wf (s.solveStart pcl half n g j).mem = true := by
  unfold State.solveStart
  split
  · exact State.jobFail_wf h ..
  split
  · exact State.jobFail_wf h ..
  · exact State.jobFail_wf h ..
  · rw [State.setGrp_mem, State.ownRest_mem]
    exact h

@[simp] theorem State.solveTurn_wf {s : State} (h : Memory.wf s.mem = true) (pcl half n : Nat) (g : Group) (j : Job) (r : Run) :
    Memory.wf (s.solveTurn pcl half n g j r).mem = true := by
  unfold State.solveTurn
  dsimp only
  (repeat' split) <;> simp [h]

@[simp] theorem State.jobStart_wf {s : State} (h : Memory.wf s.mem = true) (pcl half n : Nat) (g : Group) (j : Job) :
    Memory.wf (s.jobStart pcl half n g j).mem = true := by
  have ran : Memory.wf (s.jobRun pcl j g.ctx).1.mem = true := by rw [State.jobRun_mem]; exact h
  unfold State.jobStart
  split
  next e => exact State.jobFail_wf (State.wf_of_pair e ran) ..
  next e => split <;> simp [State.wf_of_pair e ran]

@[simp] theorem State.jobTurn_wf {s : State} (h : Memory.wf s.mem = true) (pcl half n : Nat) (g : Group) (j : Job) :
    Memory.wf (s.jobTurn pcl half n g j).mem = true := by
  unfold State.jobTurn
  (repeat' split) <;> simp [h]

@[simp] theorem State.jobWrite_wf {s : State} (h : Memory.wf s.mem = true) (pcl half slot n : Nat) :
    Memory.wf (s.jobWrite pcl half slot n).mem = true := by
  unfold State.jobWrite
  (repeat' split) <;> simp [h]

@[simp] theorem State.vecTurn_wf {s : State} (h : Memory.wf s.mem = true) (c : Nat) : Memory.wf (s.vecTurn c).mem = true := by
  unfold State.vecTurn
  (repeat' split) <;> simp [h]

/-! ## DRAM -/

@[simp] theorem State.rawWrite8_wf {s : State} (h : Memory.wf s.mem = true) (pa v : Nat) : Memory.wf (s.rawWrite8 pa v).mem = true := by
  unfold State.rawWrite8
  dsimp only
  split
  · simp [h]
  · exact memWrite_wf _ _ _ h

@[simp] theorem State.copySector_wf {s : State} (h : Memory.wf s.mem = true) (k t f i : Nat) :
    Memory.wf (s.copySector k t f i).1.mem = true := by
  unfold State.copySector
  dsimp only
  split
  · simp [h]
  · refine memWrite_wf _ _ _ ?_
    rw [State.foldl_mem (fun _ _ => State.storeAtom_mem ..), State.scanAtoms_mem]
    exact h

@[simp] theorem State.copySectors_wf {s : State} (h : Memory.wf s.mem = true) (k t f : Nat) (is : List Nat) :
    Memory.wf (State.copySectors k t f is s).1.mem = true := by
  induction is generalizing s with
  | nil => exact h
  | cons i is ih =>
    unfold State.copySectors
    dsimp only
    split <;> simp [h, ih]

@[simp] theorem State.migrFail_wf {s : State} (h : Memory.wf s.mem = true) (e k t f : Nat) :
    Memory.wf (s.migrFail e k t f).mem = true := by
  simp [State.migrFail, h]

@[simp] theorem State.migrDone_wf {s : State} (h : Memory.wf s.mem = true) (e k t f : Nat) :
    Memory.wf (s.migrDone e k t f).mem = true := by
  simp [State.migrDone, h]

@[simp] theorem State.migrStart_wf {s : State} (h : Memory.wf s.mem = true) (e k t : Nat) : Memory.wf (s.migrStart e k t).mem = true := by
  unfold State.migrStart
  dsimp only
  (repeat' split) <;> simp [h]

@[simp] theorem State.migrStep_wf {s : State} (h : Memory.wf s.mem = true) (e k t : Nat) (m : Mov) :
    Memory.wf (s.migrStep e k t m).mem = true := by
  unfold State.migrStep
  dsimp only
  (repeat' split) <;> simp [h]

@[simp] theorem State.migrate_wf {s : State} (h : Memory.wf s.mem = true) (e : Nat) : Memory.wf (s.migrate e).mem = true := by
  unfold State.migrate
  dsimp only
  (repeat' split) <;> simp [h]

@[simp] theorem State.loopAtom_wf {s : State} (h : Memory.wf s.mem = true) (a : Nat) : Memory.wf (s.loopAtom a).mem = true := by
  unfold State.loopAtom
  dsimp only
  split
  · exact h
  · exact memWrite_wf _ _ _ h

@[simp] theorem State.loopRun_wf {s : State} (h : Memory.wf s.mem = true) (stack ch pc : Nat) :
    Memory.wf (s.loopRun stack ch pc).mem = true :=
  State.foldl_wf (fun a l ha => State.loopAtom_wf ha l) _ (by exact h)

@[simp] theorem State.patGo_wf {s : State} (h : Memory.wf s.mem = true) (stack ch v : Nat) :
    Memory.wf (s.patGo stack ch v).mem = true := by
  unfold State.patGo
  dsimp only
  (repeat' split) <;> simp [h]

end Sys2Proof.Machine


/-! # The scheduler keeps memory canonical -/
namespace Sys2Proof.Machine

/-! ## The scheduler -/

@[simp] theorem State.schedWrite_wf {s : State} (h : Memory.wf s.mem = true) (pa : Nat) (bs : List Byte) :
    Memory.wf (s.schedWrite pa bs).mem = true := by
  simp [State.schedWrite, h]

@[simp] theorem State.setDflag_wf {s : State} (h : Memory.wf s.mem = true) (q b : Nat) (v : Bool) :
    Memory.wf (s.setDflag q b v).mem = true := by
  simp [State.setDflag, h]

@[simp] theorem State.semAdd_wf {s : State} (h : Memory.wf s.mem = true) (pa : Nat) :
    Memory.wf (s.semAdd pa).mem = true := by
  simp [State.semAdd, h]

@[simp] theorem State.refuse_wf {s : State} (h : Memory.wf s.mem = true) (n q reason : Nat) :
    Memory.wf (s.refuse n q reason).mem = true := by
  unfold State.refuse
  extract_lets x pa r s1 s2
  have written : Memory.wf s1.mem = true := State.schedWrite_wf (State.schedWrite_wf (State.schedWrite_wf h ..) ..) ..
  have signalled : Memory.wf s2.mem = true := by
    simp only [s2]
    (repeat' split) <;> simp [written]
  simp [signalled]

@[simp] theorem State.qsCtl_wf {s : State} (h : Memory.wf s.mem = true) (n v : Nat) : Memory.wf (s.qsCtl n v).mem = true := by
  unfold State.qsCtl
  dsimp only
  (repeat' split) <;> simp [h]

@[simp] theorem State.evHead_wf {s : State} (h : Memory.wf s.mem = true) (v : Nat) :
    Memory.wf (s.evHead v).mem = true := by
  simp [State.evHead, h]

@[simp] theorem State.overrun_wf {s : State} (h : Memory.wf s.mem = true) (n kind : Nat) : Memory.wf (s.overrun n kind).mem = true := by
  unfold State.overrun
  dsimp only
  (repeat' split) <;> simp [h]

@[simp] theorem State.postStalls_wf {s : State} (h : Memory.wf s.mem = true) (xs : List Stalled) :
    Memory.wf (State.postStalls xs s).mem = true := by
  induction xs generalizing s with
  | nil => exact h
  | cons x xs ih =>
    unfold State.postStalls
    refine ih ?_
    split <;> simp [h]

@[simp] theorem State.dispstall_wf {s : State} (h : Memory.wf s.mem = true) : Memory.wf (s.dispstall).mem = true := by
  unfold State.dispstall
  split <;> simp [h]

/-! ## Placement and launches -/

@[simp] theorem State.fillCore_wf {s : State} (h : Memory.wf s.mem = true) (l : Launch) (lid v p k : Nat) (o : Obj) (kvec : Word) :
    Memory.wf (s.fillCore l lid v p k o kvec).mem = true := by
  have set (t : State) (f : Nat → Nat) (g : Nat → Thread) :
      ((List.range 4).foldl (fun (a : State) x => a.setThread (f x) (g x)) t).mem = t.mem :=
    State.foldl_mem (fun _ _ => State.setThread_mem ..) _ _
  unfold State.fillCore
  dsimp only
  split <;> simp [h, set]

@[simp] theorem State.placeOn_wf {s : State} (h : Memory.wf s.mem = true) (lid : Nat) (l : Launch) (o : Obj) (pcls : List Nat) :
    Memory.wf (s.placeOn lid l o pcls).mem = true := by
  unfold State.placeOn
  dsimp only
  rw [State.formFixed_mem]
  refine State.foldl_wf (fun a x ha => ?_) _ (by simp [h])
  exact State.foldl_wf (fun b k hb => State.fillCore_wf hb ..) _ (by simp [ha])

theorem State.declQueue_wf {s t : State} (h : Memory.wf s.mem = true) {lid : Nat} {l : Launch} {o : Obj} {read : Bool} {b : List Byte}
    (e : s.declQueue lid l o read b = some t) : Memory.wf t.mem = true := by
  unfold State.declQueue at e
  dsimp only at e
  split at e
  · cases e
  split at e
  · cases e
  next s1 bs hd =>
    split at e
    · cases e
    split at e
    · cases e
    · cases e
      have read := State.declData_mem hd
      simp [read, h]

theorem State.declare_wf {s t : State} (h : Memory.wf s.mem = true) {lid : Nat} {l : Launch} {o : Obj} {read : Bool}
    (e : s.declare lid l o read = some t) : Memory.wf t.mem = true := by
  have queues : ∀ t, o.queues.foldl (fun (a : Option State) b => a.bind fun x => x.declQueue lid l o read b) (some s) = some t →
      Memory.wf t.mem = true := by
    refine List.foldlRecOn o.queues _ (motive := fun (a : Option State) => ∀ t, a = some t → Memory.wf t.mem = true)
      (fun t e => Option.some.inj e ▸ h) fun a ha b _ t e => ?_
    obtain ⟨x, hx, e⟩ := Option.bind_eq_some_iff.1 e
    exact State.declQueue_wf (ha x hx) e
  refine List.foldlRecOn o.domains _ (motive := fun (a : Option State) => ∀ t, a = some t → Memory.wf t.mem = true)
    queues (fun a ha b _ t e => ?_) t e
  obtain ⟨x, hx, e⟩ := Option.bind_eq_some_iff.1 e
  exact (congrArg Memory.wf (State.declDom_mem e)).trans (ha x hx)

@[simp] theorem State.declared_wf {s : State} (h : Memory.wf s.mem = true) (lid : Nat) (l : Launch) (o : Obj) :
    Memory.wf ((s.declare lid l o true).getD s).mem = true := by
  cases e : s.declare lid l o true with
  | none => exact h
  | some t => exact State.declare_wf h e

@[simp] theorem State.dispatch_wf {s : State} (h : Memory.wf s.mem = true) (n q lid i : Nat) (o : Obj) (pcls : List Nat) :
    Memory.wf (s.dispatch n q lid i o pcls).mem = true := by
  unfold State.dispatch
  generalize mkLaunch = launch
  dsimp only
  rw [State.noteHead_mem]
  refine State.declared_wf (State.placeOn_wf ?_ ..) ..
  rw [State.setSlot_mem]
  refine State.schedWrite_wf (State.schedWrite_wf ?_ ..) ..
  exact h

@[simp] theorem State.retire_wf {s : State} (h : Memory.wf s.mem = true) (lid : Nat) : Memory.wf (s.retire lid).mem = true := by
  have freed (ps : SMap Nat) (t : State) : (ps.foldl (fun (a : State) (x : Nat × Nat) => a.freeClu x.2) t).mem = t.mem :=
    State.foldl_mem (fun _ _ => State.freeClu_mem ..) _ _
  have written (t : State) (ht : t.mem = s.mem) (a b : Nat) (x y : List Byte) :
      Memory.wf ((t.schedWrite a x).schedWrite b y).mem = true :=
    State.schedWrite_wf (State.schedWrite_wf ((congrArg Memory.wf ht).trans h) ..) ..
  unfold State.retire
  dsimp only
  split
  · exact h
  split
  · split <;> simp [freed, written]
  · simp [freed, written]

@[simp] theorem State.checkHeads_wf {s : State} (h : Memory.wf s.mem = true) (n q k : Nat) :
    Memory.wf (State.checkHeads n q k s).mem = true := by
  induction k generalizing s with
  | zero => exact h
  | succ k ih =>
    unfold State.checkHeads
    dsimp only
    (repeat' split) <;> simp [h, ih]

@[simp] theorem State.reach_wf {s : State} (h : Memory.wf s.mem = true) (n q : Nat) :
    Memory.wf (s.reach n q).mem = true := by
  simp [State.reach, h]

@[simp] theorem State.examine_wf {s0 : State} (h : Memory.wf s0.mem = true) (n q : Nat) : Memory.wf (s0.examine n q).mem = true := by
  unfold State.examine
  dsimp only
  (repeat' split) <;> simp [h]

@[simp] theorem State.examineSlot_wf {s : State} (h : Memory.wf s.mem = true) (n : Nat) : Memory.wf (s.examineSlot n).mem = true := by
  unfold State.examineSlot
  dsimp only
  (repeat' split) <;> simp [h]

@[simp] theorem State.examineQueue_wf {s : State} (h : Memory.wf s.mem = true) (q : Nat) : Memory.wf (s.examineQueue q).mem = true := by
  refine State.foldl_wf (fun a n ha => ?_) _ h
  dsimp only
  split <;> simp [ha]

@[simp] theorem State.doorbell_wf {s0 : State} (h : Memory.wf s0.mem = true) (q : Nat) : Memory.wf (s0.doorbell q).mem = true := by
  unfold State.doorbell
  dsimp only
  (repeat' split) <;> simp [h]

@[simp] theorem State.replenish_wf {s : State} (h : Memory.wf s.mem = true) (n : Nat) : Memory.wf (s.replenish n).mem = true := by
  unfold State.replenish
  dsimp only
  (repeat' split) <;> simp [h]

@[simp] theorem State.lend_wf {s : State} (h : Memory.wf s.mem = true) (n : Nat) : Memory.wf (s.lend n).mem = true := by
  unfold State.lend
  split
  · exact State.reach_wf (by exact h) ..
  · exact h

@[simp] theorem State.markSlot_wf {s : State} (h : Memory.wf s.mem = true) (n : Nat) : Memory.wf (s.markSlot n).mem = true := by
  have noted : Memory.wf (s.noteHead n).mem = true := by simp [h]
  unfold State.markSlot
  generalize s.noteHead n = t at noted
  dsimp only
  split
  · (repeat' split) <;> simp [noted]
  split
  · exact State.lend_wf (State.post_wf (State.setDflag_wf (by exact noted) ..) ..) n
  · exact noted

@[simp] theorem State.decideOnce_wf {s : State} (h : Memory.wf s.mem = true) : Memory.wf (s.decideOnce).mem = true := by
  unfold State.decideOnce
  dsimp only
  (repeat' split) <;> simp [h]

@[simp] theorem State.append_wf {s : State} (h : Memory.wf s.mem = true) (q : Nat) (b : List Byte) :
    Memory.wf (s.append q b).mem = true := by
  simp [State.append, h]

@[simp] theorem State.reachQueue_wf {s : State} (h : Memory.wf s.mem = true) (q : Nat) : Memory.wf (s.reachQueue q).mem = true := by
  refine State.foldl_wf (fun a n ha => ?_) _ h
  dsimp only
  split <;> simp [ha]

end Sys2Proof.Machine


/-! # Pre-emption, hosts and registers keep memory canonical -/
namespace Sys2Proof.Machine

/-! ## Pre-emption -/

theorem State.handlerWrite_wf {s t : State} (h : Memory.wf s.mem = true) {w : Who} {va : Word} {bs : List Byte}
    (e : s.handlerWrite w va bs = .ok t) : Memory.wf t.mem = true := by
  unfold State.handlerWrite at e
  split at e
  · cases e
  split at e
  · cases e
  · cases e
    exact State.foldl_wf (fun a u ha => State.wf_writeUnit ha ..) _ h

theorem State.saveCtx_wf {s t : State} (h : Memory.wf s.mem = true) {c : Nat} {va : Word} (e : s.saveCtx c va = .ok t) :
    Memory.wf t.mem = true := by
  unfold State.saveCtx at e
  dsimp only at e
  split at e
  · cases e
  next s1 h1 =>
    have low := State.handlerWrite_wf h h1
    split at e
    · cases e
    next s2 h2 =>
      have images : Memory.wf s2.mem = true := by
        split at h2
        · exact State.handlerWrite_wf low h2
        · cases h2; exact low
      split at e
      · cases e
      next s3 h3 =>
        cases e
        simp [State.handlerWrite_wf images h3]

@[simp] theorem State.handlerRec_wf {s : State} (h : Memory.wf s.mem = true) (core : Nat) (cause va : Word) :
    Memory.wf (s.handlerRec core cause va).mem = true := by
  simp [State.handlerRec, h]

@[simp] theorem State.freezeHandler_wf {s : State} (h : Memory.wf s.mem = true) (core acc : Nat) (e : EngErr) :
    Memory.wf (s.freezeHandler core acc e).mem = true := by
  unfold State.freezeHandler
  split <;> simp [h]

@[simp] theorem State.saveCtxs_wf {s : State} (h : Memory.wf s.mem = true) (base : Word) (cs : List Nat) :
    Memory.wf (s.saveCtxs base cs).1.mem = true := by
  induction cs generalizing s with
  | nil => exact h
  | cons c cs ih =>
    unfold State.saveCtxs
    split
    · exact ih h
    split
    next e => exact ih (State.saveCtx_wf h e)
    · exact h

/-- A group that is frozen or waits keeps its place in the drained state. -/
def State.keepPlace (pcl h : Nat) (p : Nat × Group) (d : State) : State :=
  match d.grp pcl h p.1 with
  | some g => if p.2.frozen || p.2.wait then d.setGrp pcl h p.1 { g with place := p.2.place, drained := false, ctx := p.2.ctx } else d
  | none => d

/-- One group of a half is drained (R331). -/
def State.drainOne (pcl h : Nat) (b : State) (p : Nat × Group) : State :=
  if p.2.place.isNone then b else State.keepPlace pcl h p (b.drainGroup pcl h p.1 p.2)

theorem State.drainAll_eq (s : State) (pcl : Nat) : s.drainAll pcl =
    [0, 1].foldl (fun (a : State) h => ((a.clu pcl).eng h).groups.foldl (State.drainOne pcl h) a) s := by
  delta State.drainAll State.drainOne
  generalize @State.drainGroup = drain
  as_aux_lemma => rfl

theorem State.keepPlace_wf {d : State} (hd : Memory.wf d.mem = true) (pcl h : Nat) (p : Nat × Group) :
    Memory.wf (State.keepPlace pcl h p d).mem = true := by
  unfold State.keepPlace
  (repeat' split) <;> simp [hd]

theorem State.drainOne_wf {b : State} (h : Memory.wf b.mem = true) (pcl half : Nat) (p : Nat × Group) :
    Memory.wf (State.drainOne pcl half b p).mem = true := by
  unfold State.drainOne
  split
  · exact h
  · exact State.keepPlace_wf (State.drainGroup_wf h ..) ..

@[simp] theorem State.drainAll_wf {s : State} (h : Memory.wf s.mem = true) (pcl : Nat) : Memory.wf (s.drainAll pcl).mem = true := by
  rw [State.drainAll_eq]
  exact State.foldl_wf (fun a k ha => State.foldl_wf (fun b p hb => State.drainOne_wf hb ..) _ ha) _ h

@[simp] theorem State.writeAll_wf {s : State} (h : Memory.wf s.mem = true) (w : Who) (ps : List (Word × List Byte)) :
    Memory.wf (s.writeAll w ps).1.mem = true := by
  induction ps generalizing s with
  | nil => exact h
  | cons p ps ih =>
    unfold State.writeAll
    split
    next e => exact ih (State.handlerWrite_wf h e)
    · exact h

@[simp] theorem State.keepSaved_wf {s2 : State} (h : Memory.wf s2.mem = true) (pcl lid v : Nat) (msgs : List NetMsg) :
    Memory.wf (s2.keepSaved pcl lid v msgs).mem = true := by
  simp [State.keepSaved, h]

theorem State.keepIf_wf {r : State × Option EngErr} (h : Memory.wf r.1.mem = true) (pcl lid v : Nat) (msgs : List NetMsg) :
    Memory.wf (State.keepIf r pcl lid v msgs).1.mem = true := by
  unfold State.keepIf
  split
  · exact h
  · exact State.keepSaved_wf h ..

@[simp] theorem State.finishSave_wf {s : State} (h : Memory.wf s.mem = true) (pcl lid v : Nat) :
    Memory.wf (s.finishSave pcl lid v).1.mem = true := by
  have drained := State.drainAll_wf h pcl
  unfold State.finishSave
  generalize s.drainAll pcl = t at drained ⊢
  exact State.keepIf_wf (State.writeAll_wf drained ..) ..

@[simp] theorem State.saveTurn_wf {s : State} (h : Memory.wf s.mem = true) (pcl : Nat) : Memory.wf (s.saveTurn pcl).mem = true := by
  have saved := @State.saveCtxs_wf
  have finished := @State.finishSave_wf
  have aborted (cs : List Nat) : Memory.wf (s.abortAll cs).mem = true := by simp [h]
  unfold State.saveTurn
  generalize @State.saveCtxs = save at saved ⊢
  generalize @State.finishSave = finish at finished ⊢
  generalize @State.freeHandle = handle
  generalize @State.abortAll = abort at aborted ⊢
  as_aux_lemma =>
    dsimp only
    split
    · exact h
    split
    · exact h
    generalize (if (s.clu pcl).saving = true then none else (s.clu pcl).savingCore) = core
    have stopped := aborted (ctxsOf pcl core)
    generalize abort s (ctxsOf pcl core) = t at stopped ⊢
    refine State.ite_wf stopped (State.ite_wf stopped ?_)
    split
    next e => exact State.freezeHandler_wf (State.wf_of_pair e (saved stopped ..)) ..
    next e =>
      have all := State.wf_of_pair e (saved stopped ..)
      split
      · split
        next e => exact State.freezeHandler_wf (State.wf_of_pair e (finished all ..)) ..
        next e => exact State.wf_of_pair e (finished all ..)
      · exact State.post_wf (by exact all) ..

@[simp] theorem State.restCtxs_wf {s : State} (h : Memory.wf s.mem = true) (base : Word) (time : Nat) (cs : List Nat) :
    Memory.wf (s.restCtxs base time cs).1.mem = true := by
  induction cs generalizing s with
  | nil => exact h
  | cons c cs ih =>
    have read (va : Word) := State.restCtx_mem s c va time
    unfold State.restCtxs
    dsimp only
    split
    · exact ih h
    split
    next e => exact ih (by rw [State.mem_of_pair e (read _)]; exact h)
    next e => exact ih (State.handlerRec_wf (by rw [State.mem_of_pair e (read _)]; exact h) ..)
    next e => dsimp only; rw [State.mem_of_pair e (read _)]; exact h

@[simp] theorem State.restSlices_wf {s : State} (h : Memory.wf s.mem = true) (pcl : Nat) (base : Word) (ks : List Nat) :
    Memory.wf (s.restSlices pcl base ks).1.mem = true := by
  induction ks generalizing s with
  | nil => exact h
  | cons k ks ih =>
    unfold State.restSlices
    split
    next e => exact ih (State.wf_writeAt (by rw [State.mem_of_pair e (State.engRead_mem ..)]; exact h) ..)
    next e => dsimp only; rw [State.mem_of_pair e (State.engRead_mem ..)]; exact h

@[simp] theorem State.endRestore_wf {s : State} (hs : Memory.wf s.mem = true) (h : Nat) : Memory.wf (s.endRestore h).mem = true :=
  State.post_wf (by exact hs) ..

@[simp] theorem State.restTurn_wf {s : State} (hs : Memory.wf s.mem = true) (h pcl : Nat) : Memory.wf (s.restTurn h pcl).mem = true := by
  have reloaded (x : Saved) : Memory.wf (s.reload h x pcl).mem = true := by simp [hs]
  have sliced := @State.restSlices_wf
  have restored := @State.restCtxs_wf
  have read := @State.readMsgs_mem
  unfold State.restTurn
  generalize @State.reload = reload at reloaded ⊢
  generalize @State.restSlices = slices at sliced ⊢
  generalize @State.restCtxs = ctxs at restored ⊢
  generalize @State.readMsgs = msgs at read ⊢
  as_aux_lemma =>
    dsimp only
    split
    · exact hs
    split
    · split
      · exact hs
      split
      next e => exact State.endRestore_wf (State.wf_of_pair e (restored hs ..)) _
      next e => exact State.freezeHandler_wf (State.wf_of_pair e (restored hs ..)) ..
    split
    · exact hs
    split
    · exact State.freezeHandler_wf hs ..
    next e =>
      have all := State.wf_of_pair e (sliced (reloaded _) ..)
      split
      · exact State.freezeHandler_wf hs ..
      next e =>
        have all := State.wf_of_pair e (restored all ..)
        split
        · exact State.freezeHandler_wf hs ..
        next e =>
          refine State.endRestore_wf ?_ _
          rw [State.release_mem, State.moveRecs_mem, State.mem_of_pair e (read ..)]
          exact all

@[simp] theorem State.restoreReq_wf {s : State} (hs : Memory.wf s.mem = true) (h pcl : Nat) :
    Memory.wf (s.restoreReq h pcl).mem = true := by
  unfold State.restoreReq
  dsimp only
  split
  · exact hs
  split
  · exact hs
  · exact State.restTurn_wf (by exact hs) ..

/-! ## Traps -/

@[simp] theorem State.raiseLate_wf {s : State} (h : Memory.wf s.mem = true) (c : Nat) (l : Late) (rest : List Late) :
    Memory.wf (s.raiseLate c l rest).mem = true := by
  unfold State.raiseLate
  dsimp only
  (repeat' split) <;> simp [h]

@[simp] theorem State.takeAsync_wf {s : State} (h : Memory.wf s.mem = true) (c : Nat) : Memory.wf (s.takeAsync c).mem = true := by
  unfold State.takeAsync
  dsimp only
  (repeat' split) <;> simp [h]

/-! ## Hosts, power and reset -/

@[simp] theorem State.hlDoorbell_wf {s : State} (h : Memory.wf s.mem = true) (v : Nat) :
    Memory.wf (s.hlDoorbell v).mem = true := by
  simp [State.hlDoorbell, h]

@[simp] theorem State.clearPromise_wf {s : State} (h : Memory.wf s.mem = true) (x : Saved) (ctx : Nat) :
    Memory.wf (s.clearPromise x ctx).mem = true := by
  unfold State.clearPromise
  dsimp only
  split
  next e => exact State.handlerWrite_wf h e
  · exact h

theorem State.promisesCleared_wf {s : State} (h : Memory.wf s.mem = true) : Memory.wf s.promisesCleared.mem = true := by
  refine State.foldl_wf (fun a p ha => State.foldl_wf (fun b t hb => ?_) _ ha) _ h
  split
  · exact hb
  · exact State.clearPromise_wf hb ..

theorem State.resumed_mem (s : State) : s.resumed.mem = s.promisesCleared.mem := by
  unfold State.resumed
  generalize s.promisesCleared = t
  rfl

@[simp] theorem State.resumeStart_wf {s : State} (h : Memory.wf s.mem = true) : Memory.wf s.resumeStart.mem = true := by
  have resumed := (congrArg Memory.wf s.resumed_mem).trans (State.promisesCleared_wf h)
  rw [State.resumeStart_eq]
  generalize s.resumed = t at resumed ⊢
  generalize slotNos = ns
  exact State.post_wf (State.foldl_wf (f := fun (a : State) k => a.replenish k) (fun a k ha => State.replenish_wf ha k) ns resumed) ..

@[simp] theorem State.resumeTurn_wf {s : State} (h : Memory.wf s.mem = true) : Memory.wf (s.resumeTurn).mem = true := by
  unfold State.resumeTurn
  dsimp only
  (repeat' split) <;> simp [h]

@[simp] theorem State.bar0Write_wf {s : State} (h : Memory.wf s.mem = true) (e o v : Nat) : Memory.wf (s.bar0Write e o v).mem = true := by
  unfold State.bar0Write
  (repeat' split) <;> simp [h]

@[simp] theorem State.bar0_wf {s : State} (h : Memory.wf s.mem = true) (e : Nat) (r : BusReq) : Memory.wf (s.bar0 e r).mem = true := by
  unfold State.bar0
  dsimp only
  (repeat' split) <;> simp [h]

@[simp] theorem State.busPerform_wf {s : State} (h : Memory.wf s.mem = true) (r : BusReq) : Memory.wf (s.busPerform r).1.mem = true := by
  unfold State.busPerform
  dsimp only
  (repeat' split) <;> simp [h]

@[simp] theorem State.freezeHost_wf {s : State} (h : Memory.wf s.mem = true) (e : Nat) (r : BusReq) :
    Memory.wf (s.freezeHost e r).mem = true := by
  simp [State.freezeHost, h]

theorem State.serve_wf {s t : State} (h : Memory.wf s.mem = true) {e : Nat} {r : BusReq} (hs : s.serve e r = some t) :
    Memory.wf t.mem = true := by
  unfold State.serve at hs
  dsimp only at hs
  split at hs
  · cases hs; simp [h]
  split at hs
  · cases hs; simp [h]
  split at hs
  · cases hs; simp [h]
  split at hs
  · cases hs; simp [h]
  split at hs
  · cases hs; simp [h]
  split at hs
  · cases hs; simp [h]
  split at hs
  · cases hs
  · cases hs
    split <;> simp [h]

@[simp] theorem State.drainPort_wf {s : State} (h : Memory.wf s.mem = true) (e n : Nat) :
    Memory.wf (State.drainPort e n s).mem = true := by
  induction n generalizing s with
  | zero => exact h
  | succ n ih =>
    unfold State.drainPort
    dsimp only
    split
    · exact h
    split
    · exact h
    split
    next hs => exact ih (State.serve_wf (by simp [h]) hs)
    · exact h

@[simp] theorem State.arriveReq_wf {s : State} (h : Memory.wf s.mem = true) (e : Nat) (r : BusReq) :
    Memory.wf (s.arriveReq e r).mem = true := by
  have drained : Memory.wf (State.drainPort e (s.port e).held.length s).mem = true := State.drainPort_wf h ..
  unfold State.arriveReq
  dsimp only
  split
  · simp [h]
  cases hs : (State.drainPort e (s.port e).held.length s).serve e r with
  | none => simp [h]
  | some t => exact State.serve_wf drained hs

@[simp] theorem State.freezeCut_wf {s : State} (h : Memory.wf s.mem = true) (c acc : Nat) (va : Word) :
    Memory.wf (s.freezeCut c acc va).mem = true := by
  unfold State.freezeCut
  dsimp only
  (repeat' split) <;> simp [h]

@[simp] theorem State.freezeStuck_wf {s : State} (h : Memory.wf s.mem = true) : Memory.wf s.freezeStuck.mem = true := by
  unfold State.freezeStuck
  dsimp only
  refine State.foldl_wf (fun a x ha => ?_) _ (State.foldl_wf (fun a x ha => ?_) _ (State.foldl_wf (fun a p ha => ?_) _ h))
  · split
    · exact State.copyFail_wf (by exact ha) ..
    · exact ha
  · exact State.freezeCut_wf (by exact ha) ..
  · (repeat' split) <;> simp [ha]

@[simp] theorem State.boot_wf {s : State} (h : Memory.wf s.mem = true) : Memory.wf s.boot.mem = true := by
  have same : s.configured.mem = s.mem := rfl
  have one (firmware : List Byte) (a : State) (c : Nat) (ha : Memory.wf a.mem = true) : Memory.wf (State.bootOne firmware a c).mem = true :=
    State.wf_writeAt ha ..
  rw [State.boot_eq]
  generalize (List.range 32768).map Config.firmware = firmware
  generalize s.configured = t at same ⊢
  exact State.foldl_wf (one firmware) stewards ((congrArg Memory.wf same).trans h)

@[simp] theorem State.qschWrite_wf {s : State} (h : Memory.wf s.mem = true) (e o v full : Nat) :
    Memory.wf (s.qschWrite e o v full).mem = true := by
  unfold State.qschWrite
  refine State.ite_wf (by simp [h]) (State.ite_wf (by simp [h]) (State.ite_wf (State.doorbell_wf h _) (State.ite_wf h (State.ite_wf h
    (State.ite_wf h (State.ite_wf (State.evHead_wf h _) (State.ite_wf h (State.ite_wf ?_ h))))))))
  dsimp only
  split <;> simp [h]

@[simp] theorem State.kctlReply_wf {s : State} (h : Memory.wf s.mem = true) (k fail : Nat) :
    Memory.wf (s.kctlReply k fail).mem = true := by
  unfold State.kctlReply
  dsimp only
  (repeat' split) <;> simp [h]

/-! ## Pre-emption -/

theorem execRestoreDiscard_wf {s t : State} (h : Memory.wf s.mem = true) {n : Nat} (e : execRestoreDiscard n s = .next t) :
    Memory.wf t.mem = true := by
  unfold execRestoreDiscard at e
  dsimp only at e
  split at e
  · cases e; simp [h]
  split at e
  · cases e; simp [h]
  split at e
  · rw [← Host.Outcome.next.inj e]
    refine State.foldl_wf (fun a c ha => ?_) _ (by simpa using h)
    split <;> simp [ha]
  · rw [← Host.Outcome.next.inj e]
    refine State.foldl_wf (fun a c ha => State.freeRecord_wf ha c) _ ?_
    rw [State.foldl_mem (fun _ _ => State.departed_mem ..)]
    simp [h]

/-! ## Hosts, power and reset -/

@[simp] theorem State.kctlWrite_wf {s : State} (h : Memory.wf s.mem = true) (o v full : Nat) :
    Memory.wf (s.kctlWrite o v full).mem = true := by
  unfold State.kctlWrite
  split
  · exact h
  split
  · split <;> simp [h]
  split
  · split
    · exact h
    split
    · split
      next e => exact execRestoreDiscard_wf h e
      · exact h
    · simp [h]
  split <;> simp [h]

@[simp] theorem State.phyWrite_wf {s : State} (h : Memory.wf s.mem = true) (stack ch o v full : Nat) :
    Memory.wf (s.phyWrite stack ch o v full).mem = true := by
  unfold State.phyWrite
  dsimp only
  (repeat' split) <;> simp [h]

@[simp] theorem State.regWrite_wf {s : State} (h : Memory.wf s.mem = true) (b : Block) (o v full : Nat) :
    Memory.wf (s.regWrite b o v full).mem = true := by
  unfold State.regWrite
  (repeat' split) <;> simp [h]

/-! ## The steward -/

@[simp] theorem State.freeMaster_wf {s : State} (h : Memory.wf s.mem = true) (p : Word → Bool) :
    Memory.wf (s.freeMaster p).mem = true := by
  unfold State.freeMaster
  dsimp only
  (repeat' split) <;> simp [h]

@[simp] theorem State.thawProt_wf {s : State} (h : Memory.wf s.mem = true) (c : Nat) :
    Memory.wf (s.thawProt c).mem = true := by
  simp [State.thawProt, h]

@[simp] theorem State.thawHost_wf {s : State} (h : Memory.wf s.mem = true) (e : Nat) : Memory.wf (s.thawHost e).mem = true := by
  unfold State.thawHost
  dsimp only
  (repeat' split) <;> simp [h]

@[simp] theorem State.thaw_wf {s : State} (h : Memory.wf s.mem = true) (id mode : Word) : Memory.wf (s.thaw id mode).1.mem = true := by
  unfold State.thaw
  dsimp only
  (repeat' split) <;> simp [h]

@[simp] theorem State.kill_wf {s : State} (h : Memory.wf s.mem = true) (id : Word) : Memory.wf (s.kill id).1.mem = true := by
  unfold State.kill
  dsimp only
  (repeat' split) <;> simp [h]

/-- Events waiting in the scheduler's buffer are drained. -/
def State.eventsDrained (s : State) : State :=
  if s.sched.evbuf.isEmpty then s else State.drainEvents s.sched.evbuf.length s

/-- The clock goes on by one cycle. -/
def State.clockOn (q : State) : State :=
  { q with gtime := (q.gtime + 1) % 2 ^ 64, waited := false,
           cores := q.cores.map fun (p : Nat × Core) => (p.1, { p.2 with issued := false, vissued := false }) }

/-- The requests held at both ports are drained. -/
def State.portsDrained (s : State) : State :=
  [0, 1].foldl (fun (a : State) e => State.drainPort e (a.port e).held.length a) s

theorem State.eventsDrained_wf {s : State} (h : Memory.wf s.mem = true) : Memory.wf s.eventsDrained.mem = true :=
  State.ite_wf h (State.drainEvents_wf h _)

theorem State.portsDrained_wf {s : State} (h : Memory.wf s.mem = true) : Memory.wf s.portsDrained.mem = true :=
  State.foldl_wf (f := fun (a : State) e => State.drainPort e (a.port e).held.length a) (fun _ _ ha => State.drainPort_wf ha ..) _ h

theorem State.tick_retained (s : State) (hr : s.outer.retain.on = true) : s.tick.mem = s.mem := by
  unfold State.tick
  dsimp only
  rw [if_pos hr]
  split <;> rfl

theorem State.tick_running (s : State) (hr : s.outer.retain.on = false) :
    s.tick.mem = s.countErrs.charge.eventsDrained.noteLeaseWaits.clockOn.noteMisses.portsDrained.mem := by
  delta State.tick State.clockOn State.eventsDrained State.portsDrained
  generalize @State.drainPort = port
  generalize @State.turns = turns
  generalize @State.noteMisses = misses
  generalize @State.noteLeaseWaits = waits
  generalize @State.charge = charge
  generalize @State.countErrs = errs
  generalize @State.drainEvents = events
  dsimp only
  rw [hr]
  rfl

/-! ## Turns -/

@[simp] theorem State.tick_wf {s : State} (h : Memory.wf s.mem = true) : Memory.wf s.tick.mem = true := by
  cases hr : s.outer.retain.on with
  | true => exact (congrArg Memory.wf (s.tick_retained hr)).trans h
  | false =>
    have clocked (q : State) : q.clockOn.mem = q.mem := rfl
    rw [State.tick_running s hr]
    refine State.portsDrained_wf ?_
    rw [State.noteMisses_mem, clocked, State.noteLeaseWaits_mem]
    exact State.eventsDrained_wf (by simpa using h)

end Sys2Proof.Machine

/-! # The way to issue keeps memory canonical -/
namespace Sys2Proof.Machine

/-! ## The way to issue -/

/-- The next state, where there is one, has a canonical memory. -/
structure LeavesWf (o : Host.Outcome State Fault Refusal) : Prop where
  wf : ∀ t, o = .next t → Memory.wf t.mem = true

section Issue
variable {s : State}

@[simp] theorem leavesWf_next : LeavesWf (.next s) ↔ Memory.wf s.mem = true :=
  ⟨fun h => h.wf s rfl, fun h => ⟨fun _ e => Host.Outcome.next.inj e ▸ h⟩⟩

theorem finish_wf (h : Memory.wf s.mem = true) {r : Res} (hr : r.Wf) : LeavesWf (finish s r) := by
  cases r with
  | ok t => exact leavesWf_next.2 hr
  | stop e p => exact leavesWf_next.2 (State.stopped_wf h (hr.getD h) ..)

theorem issueRes_wf (h : Memory.wf s.mem = true) {k : Kind} {f : Fld} {body : State → Res}
    (hb : ∀ t, Memory.wf t.mem = true → (body t).Wf) : (issueRes k f s body).Wf := by
  unfold issueRes
  dsimp only
  split
  · exact Res.wf_stop_none
  split
  · exact Res.wf_stop_none
  split
  · exact Res.wf_stop_none
  split
  · simp [h]
  split
  · exact Res.wf_stop_none
  · exact ((((s.setT s.t.countHold).nameRegs_keeps (by simp) _).wf h).bind hb).keepWin _

/-- An instruction whose body keeps memory canonical does so. -/
theorem issue_wf (h : Memory.wf s.mem = true) {k : Kind} {f : Fld} {body : State → Res}
    (hb : ∀ t, Memory.wf t.mem = true → (body t).Wf) : LeavesWf (issue k f s body) :=
  finish_wf h (issueRes_wf h hb)

/-- An instruction whose body leaves memory untouched keeps it canonical. -/
theorem issue_keeps (h : Memory.wf s.mem = true) {k : Kind} {f : Fld} {body : State → Res}
    (hb : ∀ m t, t.mem = m → (body t).Keeps m) : LeavesWf (issue k f s body) :=
  issue_wf h fun t ht => (hb _ t rfl).wf ht

end Issue
end Sys2Proof.Machine

/-! # Every instruction keeps memory canonical -/
namespace Sys2Proof.Machine

theorem Res.Wf.forgetting {r : Res} {s : State} (hr : r.Wf) (h : Memory.wf s.mem = true) (rs : List Nat) : (r.forgetting s rs).Wf := by
  unfold Res.forgetting
  split
  · exact hr
  · exact hr
  · exact Res.wf_stop_some.2 (by simpa using hr.getD h)

theorem Got.Keeps.res_wf {α : Type} {r : Got α} {k : State → α → Res} {m : List Host.Cell} (hr : r.Keeps m) (h : Memory.wf m = true)
    (hk : ∀ t a, Memory.wf t.mem = true → (k t a).Wf) : (r.res k).Wf := by
  cases r with
  | ok s a => exact hk s a ((congrArg Memory.wf hr).trans h)
  | stop e p => exact fun t ht => (congrArg Memory.wf (hr t ht)).trans h

/-! ## Streams -/

theorem State.strmGate_wf {s : State} (h : Memory.wf s.mem = true) {k : State → Res} (hk : ∀ t, Memory.wf t.mem = true → (k t).Wf) :
    (s.strmGate k).Wf := by
  unfold State.strmGate
  dsimp only
  split
  · exact hk _ h
  split
  · simp [h]
  split
  · split
    next e => simp [State.loadImages_mem e, h]
    · simp
  · exact hk _ (by simp [h])

/-- A stream instruction whose body leaves memory untouched keeps it canonical. -/
theorem strmIssue_keeps {s : State} (h : Memory.wf s.mem = true) {irrev : Bool} {names : List (BitVec 6)} {regs : List Nat} {work : Bool}
    {f : Fld} {body : State → Res} (hb : ∀ m t, t.mem = m → (body t).Keeps m) :
    LeavesWf (strmIssue irrev names regs work f s body) := by
  refine issue_wf h fun t ht => State.strmGate_wf ht fun u hu => ?_
  refine Res.Wf.forgetting (Res.Keeps.wf (m := u.mem) (Res.Keeps.bind ?_ (hb _)) hu) (by simpa using h) _
  split <;> simp

/-! ## Scalar instructions -/

theorem aluOp_wf {s : State} (h : Memory.wf s.mem = true) (op : Word → Word → Word) (f : Fld) : LeavesWf (aluOp op f s) :=
  issue_keeps h fun m t ht => by simp [ht]

theorem mulOp_wf {s : State} (h : Memory.wf s.mem = true) (op : Word → Word → Word) (f : Fld) : LeavesWf (mulOp op f s) :=
  issue_keeps h fun m t ht => by simp [ht]

theorem immOp_wf {s : State} (h : Memory.wf s.mem = true) (op : Word → Word → Word) (n : Word) (f : Fld) : LeavesWf (immOp op n f s) :=
  issue_keeps h fun m t ht => by simp [ht]

@[simp] theorem execMuli_wf {s : State} (h : Memory.wf s.mem = true) (f : Fld) : LeavesWf (execMuli f s) :=
  issue_keeps h fun m t ht => by simp [ht]

theorem divOp_wf {s : State} (h : Memory.wf s.mem = true) (op : Word → Word → Word) (f : Fld) : LeavesWf (divOp op f s) :=
  issue_keeps h fun m t ht => by simp [ht]

theorem cmpOp_wf {s : State} (h : Memory.wf s.mem = true) (cond : Word → Word → Bool) (f : Fld) : LeavesWf (cmpOp cond f s) :=
  issue_keeps h fun m t ht => by simp [ht]

theorem cmpImmOp_wf {s : State} (h : Memory.wf s.mem = true) (cond : Word → Word → Bool) (n : Word) (f : Fld) :
    LeavesWf (cmpImmOp cond n f s) :=
  issue_keeps h fun m t ht => by simp [ht]

theorem predOp_wf {s : State} (h : Memory.wf s.mem = true) (op : Bool → Bool → Bool) (f : Fld) : LeavesWf (predOp op f s) :=
  issue_keeps h fun m t ht => by simp [ht]

@[simp] theorem execPsel_wf {s : State} (h : Memory.wf s.mem = true) (f : Fld) : LeavesWf (execPsel f s) :=
  issue_keeps h fun m t ht => by simp [ht]

@[simp] theorem execPrdw_wf {s : State} (h : Memory.wf s.mem = true) (f : Fld) : LeavesWf (execPrdw f s) :=
  issue_keeps h fun m t ht => by simp [ht]

@[simp] theorem execPwrw_wf {s : State} (h : Memory.wf s.mem = true) (f : Fld) : LeavesWf (execPwrw f s) :=
  issue_keeps h fun m t ht => by simp [ht]

/-! ## Memory instructions -/

@[simp] theorem execLd_wf {s : State} (h : Memory.wf s.mem = true) (f : Fld) : LeavesWf (execLd f s) :=
  issue_keeps h fun m t ht => by simp [ht]

@[simp] theorem execSt_wf {s : State} (h : Memory.wf s.mem = true) (f : Fld) : LeavesWf (execSt f s) :=
  issue_keeps h fun m t ht => by simp [ht]

/-! ## Scalar instructions -/

@[simp] theorem execCmov_wf {s : State} (h : Memory.wf s.mem = true) (f : Fld) : LeavesWf (execCmov f s) :=
  issue_keeps h fun m t ht => by
    (repeat' split) <;> simp [ht]

/-! ## Control flow -/

@[simp] theorem execCall_wf {s : State} (h : Memory.wf s.mem = true) (f : Fld) : LeavesWf (execCall f s) :=
  issue_keeps h fun m t ht => by simp [ht]

@[simp] theorem execBr_wf {s : State} (h : Memory.wf s.mem = true) (f : Fld) : LeavesWf (execBr f s) :=
  issue_keeps h fun m t ht => by
    (repeat' split) <;> simp [ht]

@[simp] theorem execBrn_wf {s : State} (h : Memory.wf s.mem = true) (f : Fld) : LeavesWf (execBrn f s) :=
  issue_keeps h fun m t ht => by
    (repeat' split) <;> simp [ht]

@[simp] theorem execNop_wf {s : State} (h : Memory.wf s.mem = true) (f : Fld) : LeavesWf (execNop f s) :=
  issue_keeps h fun m t ht => by simp [ht]

@[simp] theorem execJmpr_wf {s : State} (h : Memory.wf s.mem = true) (f : Fld) : LeavesWf (execJmpr f s) :=
  issue_keeps h fun m t ht => State.checkEntry_keeps (by simp [ht])

@[simp] theorem execCallr_wf {s : State} (h : Memory.wf s.mem = true) (f : Fld) : LeavesWf (execCallr f s) :=
  issue_keeps h fun m t ht => State.checkEntry_keeps (by simp [ht])

@[simp] theorem execRet_wf {s : State} (h : Memory.wf s.mem = true) (f : Fld) : LeavesWf (execRet f s) :=
  issue_keeps h fun m t ht => by
    (repeat' split) <;> simp [ht]

@[simp] theorem execLpc_wf {s : State} (h : Memory.wf s.mem = true) (f : Fld) : LeavesWf (execLpc f s) :=
  issue_keeps h fun m t ht => by simp [ht]

@[simp] theorem execYield_wf {s : State} (h : Memory.wf s.mem = true) (f : Fld) : LeavesWf (execYield f s) :=
  issue_keeps h fun m t ht => by simp [ht]

@[simp] theorem execQput_wf {s : State} (h : Memory.wf s.mem = true) (f : Fld) : LeavesWf (execQput f s) :=
  issue_keeps h fun m t ht => by
    dsimp only
    (repeat' split) <;> simp [ht]

@[simp] theorem execQget_wf {s : State} (h : Memory.wf s.mem = true) (f : Fld) : LeavesWf (execQget f s) :=
  issue_keeps h fun m t ht => by
    dsimp only
    (repeat' split) <;> simp [ht]

@[simp] theorem execEntry_wf {s : State} (h : Memory.wf s.mem = true) (f : Fld) : LeavesWf (execEntry f s) :=
  issue_keeps h fun m t ht => (State.resize_keeps ht _).bind fun u hu => by simp [hu]

@[simp] theorem execVwait_wf {s : State} (h : Memory.wf s.mem = true) (f : Fld) : LeavesWf (execVwait f s) :=
  issue_keeps h fun m t ht => State.afterVec_keeps (by simp [ht])

@[simp] theorem execGtime_wf {s : State} (h : Memory.wf s.mem = true) (f : Fld) : LeavesWf (execGtime f s) :=
  issue_keeps h fun m t ht => by simp [ht]

@[simp] theorem execTid_wf {s : State} (h : Memory.wf s.mem = true) (f : Fld) : LeavesWf (execTid f s) :=
  issue_keeps h fun m t ht => by simp [ht]

/-! ## The vector sequencer -/

theorem dispatchVec_wf {s : State} (h : Memory.wf s.mem = true) (id : Nat) (f : Fld) : LeavesWf (dispatchVec id f s) := by
  unfold dispatchVec
  dsimp only
  split
  · refine issue_keeps h fun m t ht => ?_
    (repeat' split) <;> simp [ht]
  · refine finish_wf h (Res.Keeps.wf (m := s.mem) ?_ h)
    (repeat' split) <;> simp

@[simp] theorem execVloop_wf {s : State} (h : Memory.wf s.mem = true) (f : Fld) : LeavesWf (execVloop f s) :=
  issue_keeps h fun m t ht => orStop_keeps fun _ => by
    split <;> simp [ht]

/-! ## Memory instructions -/

@[simp] theorem execLdr_wf {s : State} (h : Memory.wf s.mem = true) (f : Fld) : LeavesWf (execLdr f s) :=
  issue_keeps h fun m t ht => by simp [ht]

@[simp] theorem execStr_wf {s : State} (h : Memory.wf s.mem = true) (f : Fld) : LeavesWf (execStr f s) :=
  issue_keeps h fun m t ht => by simp [ht]

@[simp] theorem execLdi_wf {s : State} (h : Memory.wf s.mem = true) (f : Fld) : LeavesWf (execLdi f s) :=
  issue_keeps h fun m t ht => by simp [ht]

@[simp] theorem execSti_wf {s : State} (h : Memory.wf s.mem = true) (f : Fld) : LeavesWf (execSti f s) :=
  issue_keeps h fun m t ht => by simp [ht]

@[simp] theorem execArsv_wf {s : State} (h : Memory.wf s.mem = true) (f : Fld) : LeavesWf (execArsv f s) :=
  issue_keeps h fun m t ht => State.afterRelease_keeps <| State.afterDrain_keeps <| orStop_keeps fun l => by
    split <;> simp [ht]

@[simp] theorem execArel_wf {s : State} (h : Memory.wf s.mem = true) (f : Fld) : LeavesWf (execArel f s) :=
  issue_keeps h fun m t ht => by
    dsimp only
    split
    · simp
    split
    · simp
    · refine State.afterRelease_keeps (State.afterDrain_keeps ?_)
      split <;> simp [ht]

theorem amo_wf {s : State} (h : Memory.wf s.mem = true) (fn : Nat) (f : Fld) : LeavesWf (amo fn f s) :=
  issue_keeps h fun m t ht => State.afterRelease_keeps <| State.afterDrain_keeps <| orStop_keeps fun l => by simp [ht]

theorem vamo_wf {s : State} (h : Memory.wf s.mem = true) (fn : Nat) (f : Fld) : LeavesWf (vamo fn f s) :=
  issue_keeps h fun _ _ ht => State.afterVec_keeps <| State.afterRelease_keeps <| State.afterDrain_keeps <| State.vamoNext_keeps ht ..

@[simp] theorem execFenceCore_wf {s : State} (h : Memory.wf s.mem = true) (f : Fld) : LeavesWf (execFenceCore f s) :=
  issue_keeps h fun m t ht => by
    (repeat' split) <;> simp [ht]

theorem wideFence_wf {s : State} (h : Memory.wf s.mem = true) (f : Fld) : LeavesWf (wideFence f s) :=
  issue_keeps h fun m t ht => State.afterRelease_keeps (by simp [ht])

@[simp] theorem execFenceLoop_wf {s : State} (h : Memory.wf s.mem = true) (f : Fld) : LeavesWf (execFenceLoop f s) :=
  issue_keeps h fun m t ht => by
    (repeat' split) <;> simp [ht]

@[simp] theorem execPref_wf {s : State} (h : Memory.wf s.mem = true) (f : Fld) : LeavesWf (execPref f s) :=
  issue_keeps h fun m t ht => by
    dsimp only
    (repeat' split) <;> simp [ht]

@[simp] theorem execCwb_wf {s : State} (h : Memory.wf s.mem = true) (f : Fld) : LeavesWf (execCwb f s) :=
  issue_keeps h fun m t ht => by
    dsimp only
    (repeat' split) <;> simp [ht]

@[simp] theorem execCinv_wf {s : State} (h : Memory.wf s.mem = true) (f : Fld) : LeavesWf (execCinv f s) :=
  issue_keeps h fun m t ht => by
    (repeat' split) <;> simp [ht]

@[simp] theorem execPin_wf {s : State} (h : Memory.wf s.mem = true) (f : Fld) : LeavesWf (execPin f s) :=
  issue_keeps h fun m t ht => by
    dsimp only
    (repeat' split) <;> simp [ht]

@[simp] theorem execUnpin_wf {s : State} (h : Memory.wf s.mem = true) (f : Fld) : LeavesWf (execUnpin f s) :=
  issue_keeps h fun m t ht => by
    dsimp only
    (repeat' split) <;> simp [ht]

@[simp] theorem execLsync_wf {s : State} (h : Memory.wf s.mem = true) (f : Fld) : LeavesWf (execLsync f s) :=
  issue_keeps h fun m t ht => by simp [ht]

@[simp] theorem execMigr_wf {s : State} (h : Memory.wf s.mem = true) (f : Fld) : LeavesWf (execMigr f s) :=
  issue_keeps h fun m t ht => by
    dsimp only
    (repeat' split) <;> simp [ht]

/-! ## The copy engine -/

theorem copy_wf {s : State} (h : Memory.wf s.mem = true) (fn : Nat) (f : Fld) : LeavesWf (copy fn f s) :=
  issue_keeps h fun m t ht => State.afterStores_keeps <| by
    dsimp only
    split
    · simp
    refine (State.loadObj_keeps ht ..).res fun u raw hu => ?_
    split
    · simp [hu]
    refine (State.loadObj_keeps hu ..).res fun v obj hv => ?_
    split
    · simp [hv]
    · split <;> simp [hv]

@[simp] theorem execCfree_wf {s : State} (h : Memory.wf s.mem = true) (f : Fld) : LeavesWf (execCfree f s) :=
  issue_keeps h fun m t ht => by
    split
    · simp
    · refine State.afterRelease_keeps ?_
      dsimp only
      split <;> simp [ht]

/-! ## Token queues -/

@[simp] theorem execQinit_wf {s : State} (h : Memory.wf s.mem = true) (f : Fld) : LeavesWf (execQinit f s) :=
  issue_keeps h fun m t ht => orStop_keeps fun o => by
    dsimp only
    (repeat' split) <;> simp [ht]

theorem tqOp_wf {s : State} (h : Memory.wf s.mem = true) (kind : Nat) (rel : Bool) (op : TqOp) (f : Fld) :
    LeavesWf (tqOp kind rel op f s) :=
  issue_keeps h fun m t ht => State.afterRelease_keeps <| orStop_keeps fun o => by
    (repeat' split) <;> simp [ht]

@[simp] theorem execQexpect_wf {s : State} (h : Memory.wf s.mem = true) (f : Fld) : LeavesWf (execQexpect f s) :=
  issue_keeps h fun m t ht => orStop_keeps fun o => by
    dsimp only
    (repeat' split) <;> simp [ht]

@[simp] theorem execQstat_wf {s : State} (h : Memory.wf s.mem = true) (f : Fld) : LeavesWf (execQstat f s) :=
  issue_keeps h fun m t ht => orStop_keeps fun o => by simp [ht]

/-! ## Streams -/

@[simp] theorem execSopen_wf {s : State} (h : Memory.wf s.mem = true) (f : Fld) : LeavesWf (execSopen f s) :=
  strmIssue_keeps h fun _ _ ht => State.irrevocable_keeps <| State.afterRelease_keeps <| State.sopen_keeps ht ..

@[simp] theorem execSclose_wf {s : State} (h : Memory.wf s.mem = true) (f : Fld) : LeavesWf (execSclose f s) :=
  strmIssue_keeps h fun m t ht => State.irrevocable_keeps (by simp [ht])

@[simp] theorem execSsave_wf {s : State} (h : Memory.wf s.mem = true) (f : Fld) : LeavesWf (execSsave f s) :=
  strmIssue_keeps h fun m t ht => orStop_keeps fun l => by
    split <;> simp [ht]

@[simp] theorem execSload_wf {s : State} (h : Memory.wf s.mem = true) (f : Fld) : LeavesWf (execSload f s) :=
  strmIssue_keeps h fun m t ht => State.afterRelease_keeps <| (State.loadObjAs_keeps ht ..).res fun u b hu => by
    split <;> simp [hu]

@[simp] theorem execSchild_wf {s : State} (h : Memory.wf s.mem = true) (f : Fld) : LeavesWf (execSchild f s) :=
  strmIssue_keeps h fun m t ht => State.afterRelease_keeps <| by
    dsimp only
    split
    · refine State.withIns_keeps ht fun a b => ?_
      split <;> simp [ht]
    · split <;> simp [ht]

theorem combine_wf {s : State} (h : Memory.wf s.mem = true) (mode : Nat) (f : Fld) : LeavesWf (combine mode f s) :=
  strmIssue_keeps h fun m t ht => State.withIns_keeps ht fun _ _ => (State.settleReg_keeps (by simp [ht]) _).bind fun u hu => by simp [hu]

@[simp] theorem execSnext_wf {s : State} (h : Memory.wf s.mem = true) (f : Fld) : LeavesWf (execSnext f s) :=
  strmIssue_keeps h fun m t ht => Res.Keeps.bind (by
    split
    · exact ht
    · exact State.moveReg_keeps ht (State.advanceBy_keeps ht ..)
    · simp
    · exact State.nextComb_keeps ht _) fun u hu => by simp [hu]

@[simp] theorem execScrd_wf {s : State} (h : Memory.wf s.mem = true) (f : Fld) : LeavesWf (execScrd f s) :=
  strmIssue_keeps h fun m t ht => State.query_keeps ht fun v => by simp [ht]

@[simp] theorem execSpos_wf {s : State} (h : Memory.wf s.mem = true) (f : Fld) : LeavesWf (execSpos f s) :=
  strmIssue_keeps h fun m t ht => State.query_keeps ht fun v => by simp [ht]

@[simp] theorem execSskip_wf {s : State} (h : Memory.wf s.mem = true) (f : Fld) : LeavesWf (execSskip f s) :=
  strmIssue_keeps h fun m t ht => Res.Keeps.bind (by
    split
    · exact ht
    · exact State.moveReg_keeps ht (State.gallop_keeps ht ..)
    · simp
    · exact State.withIns_keeps ht fun _ _ => (State.moveReg_keeps ht (State.gallop_keeps ht ..)).bind fun u hu =>
        (State.moveReg_keeps hu (State.gallop_keeps hu ..)).bind fun v hv => State.settleReg_keeps hv _) fun u hu => by simp [hu]

@[simp] theorem execSskipn_wf {s : State} (h : Memory.wf s.mem = true) (f : Fld) : LeavesWf (execSskipn f s) :=
  strmIssue_keeps h fun m t ht => Res.Keeps.bind (by
    split
    · exact ht
    · split
      · exact ht
      · exact State.moveReg_keeps ht (State.advanceBy_keeps ht ..)
    · simp) fun u hu => by simp [hu]

theorem pushLive_wf {s : State} (h : Memory.wf s.mem = true) (kind : Nat) (f : Fld) : LeavesWf (pushLive kind f s) :=
  strmIssue_keeps h fun m t ht => State.liveIns_keeps ht fun rs => by
    split
    · simp [ht]
    · exact (State.liveVals_keeps ht ..).res fun u l hu => by simp [hu]

@[simp] theorem execSdone_wf {s : State} (h : Memory.wf s.mem = true) (f : Fld) : LeavesWf (execSdone f s) :=
  strmIssue_keeps h fun m t ht => State.query_keeps ht fun v => by simp [ht]

@[simp] theorem execSlen_wf {s : State} (h : Memory.wf s.mem = true) (f : Fld) : LeavesWf (execSlen f s) :=
  strmIssue_keeps h fun m t ht => State.query_keeps ht fun v => by simp [ht]

@[simp] theorem execSbatch_wf {s : State} (h : Memory.wf s.mem = true) (f : Fld) : LeavesWf (execSbatch f s) :=
  strmIssue_keeps h fun m t ht => by
    dsimp only
    split
    · simp [ht]
    split
    · simp [ht]
    split
    · simp [ht]
    · exact (State.fibre_keeps ht _).res fun u d hu => (State.batch_keeps hu ..).res fun v o hv => by simp [hv]

@[simp] theorem execSapp_wf {s : State} (h : Memory.wf s.mem = true) (f : Fld) : LeavesWf (execSapp f s) :=
  strmIssue_keeps h fun m t ht => State.outReg_keeps ht fun u r d hu => by
    dsimp only
    split
    · simp
    split
    · simp
    split
    · simp
    · exact State.strmStore_keeps hu fun v l hv => by simp [hv]

@[simp] theorem execSappv_wf {s : State} (h : Memory.wf s.mem = true) (f : Fld) : LeavesWf (execSappv f s) :=
  strmIssue_keeps h fun m t ht => State.outReg_keeps ht fun u r d hu => by
    dsimp only
    split
    · simp
    · exact State.strmStore_keeps hu fun v l hv => by simp [hv]

@[simp] theorem execSseal_wf {s : State} (h : Memory.wf s.mem = true) (f : Fld) : LeavesWf (execSseal f s) :=
  strmIssue_keeps h fun m t ht => State.outReg_keeps ht fun u r d hu => by
    dsimp only
    split
    · simp
    · exact State.strmStore_keeps hu fun v l hv => by simp [hv]

/-! ## The matrix engine -/

@[simp] theorem execMconv_wf {s : State} (h : Memory.wf s.mem = true) (f : Fld) : LeavesWf (execMconv f s) :=
  issue_keeps h fun m t ht => by simp [ht]

@[simp] theorem execMleave_wf {s : State} (h : Memory.wf s.mem = true) (f : Fld) : LeavesWf (execMleave f s) :=
  issue_keeps h fun m t ht => by
    (repeat' split) <;> simp [ht]

theorem dispatchJob_wf {s : State} (h : Memory.wf s.mem = true) (names : List (BitVec 6)) (f : Fld) : LeavesWf (dispatchJob names f s) :=
  issue_keeps h fun m t ht => by
    split
    · simp
    · exact State.afterStores_keeps (by simp [ht])

@[simp] theorem execMstat_wf {s : State} (h : Memory.wf s.mem = true) (f : Fld) : LeavesWf (execMstat f s) :=
  issue_keeps h fun m t ht => by
    (repeat' split) <;> simp [ht]

@[simp] theorem execMplog_wf {s : State} (h : Memory.wf s.mem = true) (f : Fld) : LeavesWf (execMplog f s) :=
  issue_keeps h fun m t ht => by
    dsimp only
    (repeat' split) <;> simp [ht]

/-! ## Messages -/

@[simp] theorem execSend_wf {s : State} (h : Memory.wf s.mem = true) (f : Fld) : LeavesWf (execSend f s) :=
  issue_keeps h fun m t ht => by simp [ht]

@[simp] theorem execRecv_wf {s : State} (h : Memory.wf s.mem = true) (f : Fld) : LeavesWf (execRecv f s) :=
  issue_keeps h fun m t ht => by
    (repeat' split) <;> simp [ht]

@[simp] theorem execRecvt_wf {s : State} (h : Memory.wf s.mem = true) (f : Fld) : LeavesWf (execRecvt f s) :=
  issue_keeps h fun m t ht => by
    (repeat' split) <;> simp [ht]

@[simp] theorem execMpeek_wf {s : State} (h : Memory.wf s.mem = true) (f : Fld) : LeavesWf (execMpeek f s) :=
  issue_keeps h fun m t ht => by
    (repeat' split) <;> simp [ht]

@[simp] theorem execAlarm_wf {s : State} (h : Memory.wf s.mem = true) (f : Fld) : LeavesWf (execAlarm f s) :=
  issue_keeps h fun m t ht => by
    dsimp only
    (repeat' split) <;> simp [ht]

@[simp] theorem execMcount_wf {s : State} (h : Memory.wf s.mem = true) (f : Fld) : LeavesWf (execMcount f s) :=
  issue_keeps h fun m t ht => by simp [ht]

@[simp] theorem execSends_wf {s : State} (h : Memory.wf s.mem = true) (f : Fld) : LeavesWf (execSends f s) :=
  issue_keeps h fun m t ht => by
    dsimp only
    (repeat' split) <;> simp [ht]

@[simp] theorem execSlotrd_wf {s : State} (h : Memory.wf s.mem = true) (f : Fld) : LeavesWf (execSlotrd f s) :=
  issue_keeps h fun m t ht => by simp [ht]

/-! ## Domains -/

theorem dsync_wf {s : State} (h : Memory.wf s.mem = true) (wait : Bool) (f : Fld) : LeavesWf (dsync wait f s) :=
  issue_keeps h fun m t ht => by
    dsimp only
    split
    · simp
    split
    · simp
    · exact State.arrive_keeps ht fun u hu => by simp [hu]

@[simp] theorem execDphase_wf {s : State} (h : Memory.wf s.mem = true) (f : Fld) : LeavesWf (execDphase f s) :=
  issue_keeps h fun m t ht => by simp [ht]

@[simp] theorem execDcomm_wf {s : State} (h : Memory.wf s.mem = true) (f : Fld) : LeavesWf (execDcomm f s) :=
  issue_keeps h fun m t ht => by
    dsimp only
    split
    · simp [ht]
    · exact State.arrive_keeps ht fun u hu => by simp [hu]

@[simp] theorem execDprobe_wf {s : State} (h : Memory.wf s.mem = true) (f : Fld) : LeavesWf (execDprobe f s) :=
  issue_keeps h fun m t ht => by simp [ht]

@[simp] theorem execDlevel_wf {s : State} (h : Memory.wf s.mem = true) (f : Fld) : LeavesWf (execDlevel f s) :=
  issue_keeps h fun m t ht => by
    dsimp only
    split
    · simp [ht]
    · simp [ht]
    · split
      · simp
      · exact (State.loadObj_keeps ht ..).res fun u b hu => State.formReq_keeps hu (by simp [hu]) ..
    · split
      · simp
      · exact State.formReq_keeps ht (by simp [ht]) ..

/-! ## Placement and launches -/

@[simp] theorem execLaunch_wf {s : State} (h : Memory.wf s.mem = true) (f : Fld) : LeavesWf (execLaunch f s) :=
  issue_wf h fun t ht => by
    unfold State.afterRelease
    split
    · simp
    · refine Got.Keeps.res_wf (State.loadObj_keeps rfl ..) ht fun u b hu => ?_
      dsimp only
      (repeat' split) <;> simp [hu]

/-! ## Speculation -/

@[simp] theorem execTenq_wf {s : State} (h : Memory.wf s.mem = true) (f : Fld) : LeavesWf (execTenq f s) :=
  issue_keeps h fun m t ht => by
    dsimp only
    (repeat' split) <;> simp [ht]

@[simp] theorem execTnext_wf {s : State} (h : Memory.wf s.mem = true) (f : Fld) : LeavesWf (execTnext f s) :=
  issue_keeps h fun m t ht => by
    dsimp only
    (repeat' split) <;> simp [ht]

@[simp] theorem execTdone_wf {s : State} (h : Memory.wf s.mem = true) (f : Fld) : LeavesWf (execTdone f s) :=
  issue_keeps h fun m t ht => by
    (repeat' split) <;> simp [ht]

@[simp] theorem execTabort_wf {s : State} (h : Memory.wf s.mem = true) (f : Fld) : LeavesWf (execTabort f s) :=
  issue_keeps h fun m t ht => by
    (repeat' split) <;> simp [ht]

@[simp] theorem execVtrd_wf {s : State} (h : Memory.wf s.mem = true) (f : Fld) : LeavesWf (execVtrd f s) :=
  issue_keeps h fun m t ht => by simp [ht]

@[simp] theorem execGvtrd_wf {s : State} (h : Memory.wf s.mem = true) (f : Fld) : LeavesWf (execGvtrd f s) :=
  issue_keeps h fun m t ht => by simp [ht]

@[simp] theorem execSpoff_wf {s : State} (h : Memory.wf s.mem = true) (f : Fld) : LeavesWf (execSpoff f s) :=
  issue_keeps h fun m t ht => by simp [ht]

@[simp] theorem execSpon_wf {s : State} (h : Memory.wf s.mem = true) (f : Fld) : LeavesWf (execSpon f s) :=
  issue_keeps h fun m t ht => by simp [ht]

/-! ## Traps -/

@[simp] theorem execTrap_wf {s : State} (h : Memory.wf s.mem = true) (f : Fld) : LeavesWf (execTrap f s) :=
  issue_keeps h fun _ _ _ => by simp

@[simp] theorem execEret_wf {s : State} (h : Memory.wf s.mem = true) (f : Fld) : LeavesWf (execEret f s) :=
  issue_keeps h fun m t ht => by
    split
    next e => simp [State.trapReturn_mem e, ht]
    · simp

@[simp] theorem execRdsr_wf {s : State} (h : Memory.wf s.mem = true) (f : Fld) : LeavesWf (execRdsr f s) :=
  issue_keeps h fun m t ht => State.withReg_keeps fun v => by simp [ht]

@[simp] theorem execWrsr_wf {s : State} (h : Memory.wf s.mem = true) (f : Fld) : LeavesWf (execWrsr f s) :=
  issue_keeps h fun m t ht => State.withReg_keeps fun v => by simp [ht]

@[simp] theorem execTlbinv_wf {s : State} (h : Memory.wf s.mem = true) (f : Fld) : LeavesWf (execTlbinv f s) :=
  issue_keeps h fun m t ht => by simp [ht]

@[simp] theorem execTlbinva_wf {s : State} (h : Memory.wf s.mem = true) (f : Fld) : LeavesWf (execTlbinva f s) :=
  issue_keeps h fun m t ht => by simp [ht]

/-! ## Pre-emption -/

@[simp] theorem execCtxsave_wf {s : State} (h : Memory.wf s.mem = true) (f : Fld) : LeavesWf (execCtxsave f s) :=
  issue_wf h fun t ht => by
    dsimp only
    split
    · simp
    split
    next e => simp [State.saveCtx_wf ht e]
    · simp

@[simp] theorem execCtxrest_wf {s : State} (h : Memory.wf s.mem = true) (f : Fld) : LeavesWf (execCtxrest f s) :=
  issue_wf h fun t ht => by
    have read {u : State} {x : Except EngErr Bool} {c : Nat} {va : Word} {time : Nat} (e : t.restCtx c va time = (u, x)) :
        Memory.wf u.mem = true :=
      State.wf_of_pair e (by simpa using ht)
    dsimp only
    split
    · simp
    split
    next e => simp [read e]
    next e => simp [read e]
    next e => simp [read e]

/-! ## Traps -/

@[simp] theorem execRingrd_wf {s : State} (h : Memory.wf s.mem = true) (f : Fld) : LeavesWf (execRingrd f s) :=
  issue_keeps h fun m t ht => by simp [ht]

/-! ## The steward -/

@[simp] theorem execThaw_wf {s : State} (h : Memory.wf s.mem = true) (f : Fld) : LeavesWf (execThaw f s) :=
  issue_wf h fun t ht => by simp [ht]

/-! ## Traps -/

@[simp] theorem execEbrk_wf {s : State} (h : Memory.wf s.mem = true) (f : Fld) : LeavesWf (execEbrk f s) :=
  issue_keeps h fun _ _ _ => by simp

/-! ## The steward -/

@[simp] theorem execKill_wf {s : State} (h : Memory.wf s.mem = true) (f : Fld) : LeavesWf (execKill f s) :=
  issue_wf h fun t ht => by simp [ht]

end Sys2Proof.Machine

/-! # Every event keeps memory canonical -/
namespace Sys2Proof.Machine

/-! ## Messages -/

@[simp] theorem execAlarmFire_wf {s : State} (h : Memory.wf s.mem = true) (pid : Nat) : LeavesWf (execAlarmFire pid s) := by
  refine leavesWf_next.2 ?_
  (repeat' split) <;> simp [h]

/-! ## Placement and launches -/

@[simp] theorem execQschDoorbell_wf {s : State} (h : Memory.wf s.mem = true) (_e q : Nat) : LeavesWf (execQschDoorbell _e q s) :=
  leavesWf_next.2 (by simp [h])

/-! ## The scheduler -/

@[simp] theorem execQschCtlWrite_wf {s : State} (h : Memory.wf s.mem = true) (e v : Nat) : LeavesWf (execQschCtlWrite e v s) :=
  leavesWf_next.2 (by simp [h])

@[simp] theorem execQsCtlWrite_wf {s : State} (h : Memory.wf s.mem = true) (_e slot v : Nat) : LeavesWf (execQsCtlWrite _e slot v s) :=
  leavesWf_next.2 (by simp [h])

@[simp] theorem execQschEvheadWrite_wf {s : State} (h : Memory.wf s.mem = true) (_e v : Nat) : LeavesWf (execQschEvheadWrite _e v s) :=
  leavesWf_next.2 (by simp [h])

/-! ## Placement and launches -/

@[simp] theorem execReplenish_wf {s : State} (h : Memory.wf s.mem = true) (slot : Nat) : LeavesWf (execReplenish slot s) :=
  leavesWf_next.2 (by simp [h])

/-! ## The scheduler -/

@[simp] theorem execOverrun_wf {s : State} (h : Memory.wf s.mem = true) (slot kind : Nat) : LeavesWf (execOverrun slot kind s) :=
  leavesWf_next.2 (by simp [h])

/-! ## Placement and launches -/

@[simp] theorem execHeadReexamine_wf {s : State} (h : Memory.wf s.mem = true) (slot : Nat) : LeavesWf (execHeadReexamine slot s) := by
  refine leavesWf_next.2 ?_
  (repeat' split) <;> simp [h]

@[simp] theorem execBlockMark_wf {s : State} (h : Memory.wf s.mem = true) (slot : Nat) : LeavesWf (execBlockMark slot s) :=
  leavesWf_next.2 (by simp [h])

@[simp] theorem execDispatchDecision_wf {s : State} (h : Memory.wf s.mem = true) : LeavesWf (execDispatchDecision s) :=
  leavesWf_next.2 (by simp [h])

/-! ## The scheduler -/

@[simp] theorem execDispstall_wf {s : State} (h : Memory.wf s.mem = true) : LeavesWf (execDispstall s) :=
  leavesWf_next.2 (by simp [h])

/-! ## Placement and launches -/

@[simp] theorem execLaunchStart_wf {s : State} (h : Memory.wf s.mem = true) (l : Nat) : LeavesWf (execLaunchStart l s) := by
  refine leavesWf_next.2 ?_
  (repeat' split) <;> simp [h]

@[simp] theorem execRetire_wf {s : State} (h : Memory.wf s.mem = true) (l : Nat) : LeavesWf (execRetire l s) :=
  leavesWf_next.2 (by simp [h])

/-! ## Events of memory -/

@[simp] theorem execFetchBlockArrival_wf {s : State} (h : Memory.wf s.mem = true) (pid : Nat) : LeavesWf (execFetchBlockArrival pid s) :=
  leavesWf_next.2 (by simp [h])

@[simp] theorem execLoadDataReturn_wf {s : State} (h : Memory.wf s.mem = true) (pid lease : Nat) :
    LeavesWf (execLoadDataReturn pid lease s) := by
  refine leavesWf_next.2 ?_
  (repeat' split) <;> simp [h]

@[simp] theorem execStoreAtHome_wf {s : State} (h : Memory.wf s.mem = true) (core path n : Nat) :
    LeavesWf (execStoreAtHome core path n s) :=
  leavesWf_next.2 (by simp [h])

@[simp] theorem execReservationGrant_wf {s : State} (h : Memory.wf s.mem = true) (pid : Nat) : LeavesWf (execReservationGrant pid s) :=
  leavesWf_next.2 (by simp [h])

/-! ## Traps -/

@[simp] theorem execAsyncTrapTake_wf {s : State} (h : Memory.wf s.mem = true) (pid : Nat) : LeavesWf (execAsyncTrapTake pid s) :=
  leavesWf_next.2 (by simp [h])

/-! ## The matrix engine -/

@[simp] theorem execVectorIssue_wf {s : State} (h : Memory.wf s.mem = true) (pid : Nat) : LeavesWf (execVectorIssue pid s) := by
  unfold execVectorIssue
  dsimp only
  refine leavesWf_next.2 ?_
  (repeat' split) <;> simp [h]

/-! ## Events of memory -/

@[simp] theorem execPageWalk_wf {s : State} (h : Memory.wf s.mem = true) (pcl asid va : Nat) : LeavesWf (execPageWalk pcl asid va s) := by
  unfold execPageWalk
  dsimp only
  split
  · exact leavesWf_next.2 (by simpa using h)
  · exact leavesWf_next.2 h
  · exact leavesWf_next.2 h

/-! ## Messages -/

@[simp] theorem execMessageDeliver_wf {s : State} (h : Memory.wf s.mem = true) (n : Nat) : LeavesWf (execMessageDeliver n s) :=
  leavesWf_next.2 (by simp [h])

@[simp] theorem execMessageAdmit_wf {s : State} (h : Memory.wf s.mem = true) (pid : Nat) : LeavesWf (execMessageAdmit pid s) :=
  leavesWf_next.2 (by simp [h])

@[simp] theorem execRecvtTimeout_wf {s : State} (h : Memory.wf s.mem = true) (pid : Nat) : LeavesWf (execRecvtTimeout pid s) := by
  have ends (p : Park) : ((({ s with cur := pid } : State).recvtEnds p).keepWin (s.thread pid).win).Wf :=
    ((State.recvtEnds_keeps rfl p).keepWin _).wf h
  unfold execRecvtTimeout
  dsimp only
  refine leavesWf_next.2 ?_
  split
  next p _ =>
    split
    · refine State.ite_wf ?_ h
      have all := ends p
      split
      next e => rw [e] at all; exact all
      · exact h
      next e => rw [e] at all; exact State.stopped_wf (by exact h) (all.getD (by exact h)) _
    · exact h
  · exact h

/-! ## Domains -/

@[simp] theorem execCircuitComplete_wf {s : State} (h : Memory.wf s.mem = true) (l level leader : Nat) :
    LeavesWf (execCircuitComplete l level leader s) :=
  leavesWf_next.2 (by simp [h])

/-! ## Speculation -/

@[simp] theorem execSpecAbort_wf {s : State} (h : Memory.wf s.mem = true) (pid : Nat) : LeavesWf (execSpecAbort pid s) := by
  refine leavesWf_next.2 ?_
  (repeat' split) <;> simp [h]

/-! ## Events of memory -/

@[simp] theorem execStoreDrain_wf {s : State} (h : Memory.wf s.mem = true) (pid : Nat) : LeavesWf (execStoreDrain pid s) :=
  leavesWf_next.2 (by simp [h])

/-! ## The copy engine -/

@[simp] theorem execCopyComplete_wf {s : State} (h : Memory.wf s.mem = true) (pcl slot : Nat) :
    LeavesWf (execCopyComplete pcl slot s) := by
  unfold execCopyComplete
  dsimp only
  refine leavesWf_next.2 ?_
  (repeat' split) <;> simp [h]

/-! ## Token queues -/

@[simp] theorem execCountedDecrement_wf {s : State} (h : Memory.wf s.mem = true) (n : Nat) : LeavesWf (execCountedDecrement n s) := by
  unfold execCountedDecrement
  dsimp only
  refine leavesWf_next.2 ?_
  (repeat' split) <;> simp [h]

/-! ## The copy engine -/

@[simp] theorem execAllfree_wf {s : State} (h : Memory.wf s.mem = true) (pcl tag : Nat) : LeavesWf (execAllfree pcl tag s) := by
  refine leavesWf_next.2 ?_
  (repeat' split) <;> simp [h]

/-! ## Streams -/

@[simp] theorem execStreamLookahead_wf {s : State} (h : Memory.wf s.mem = true) (pid r : Nat) :
    LeavesWf (execStreamLookahead pid r s) := by
  refine leavesWf_next.2 ?_
  (repeat' split) <;> simp [h]

@[simp] theorem execStreamContextDrain_wf {s : State} (h : Memory.wf s.mem = true) (pid : Nat) :
    LeavesWf (execStreamContextDrain pid s) := by
  unfold execStreamContextDrain
  dsimp only
  refine leavesWf_next.2 (State.ite_wf h ?_)
  split
  · exact h
  · refine State.ite_wf h ?_
    have written (w : Writer) (us : List UnitW) : Memory.wf (us.foldl (fun (a : State) u => a.writeUnit w u 0) s).mem = true :=
      State.foldl_wf (fun a u ha => State.wf_writeUnit ha ..) us h
    simp [written]

/-! ## The matrix engine -/

@[simp] theorem execMatrixJobComplete_wf {s : State} (h : Memory.wf s.mem = true) (pcl half slot : Nat) :
    LeavesWf (execMatrixJobComplete pcl half slot s) := by
  refine leavesWf_next.2 ?_
  (repeat' split) <;> simp [h]

@[simp] theorem execMatrixContextDrain_wf {s : State} (h : Memory.wf s.mem = true) (pcl half slot : Nat) :
    LeavesWf (execMatrixContextDrain pcl half slot s) := by
  unfold execMatrixContextDrain
  dsimp only
  refine leavesWf_next.2 ?_
  (repeat' split) <;> simp [h]

/-! ## Pre-emption -/

@[simp] theorem execPreemptCluster_wf {s : State} (h : Memory.wf s.mem = true) (pcl : Nat) : LeavesWf (execPreemptCluster pcl s) :=
  leavesWf_next.2 (by simp [h])

@[simp] theorem execPreemptCore_wf {s : State} (h : Memory.wf s.mem = true) (pcl core : Nat) : LeavesWf (execPreemptCore pcl core s) :=
  leavesWf_next.2 (by simp [h])

@[simp] theorem execClusterSaved_wf {s : State} (h : Memory.wf s.mem = true) (pcl : Nat) : LeavesWf (execClusterSaved pcl s) :=
  leavesWf_next.2 (by simp [h])

@[simp] theorem execRestore_wf {s : State} (hs : Memory.wf s.mem = true) (h pcl : Nat) : LeavesWf (execRestore h pcl s) :=
  leavesWf_next.2 (State.ite_wf (State.restTurn_wf hs ..) (State.restoreReq_wf hs ..))

@[simp] theorem execRestoreDiscard_leavesWf {s : State} (hs : Memory.wf s.mem = true) (h : Nat) : LeavesWf (execRestoreDiscard h s) :=
  ⟨fun _ e => execRestoreDiscard_wf hs e⟩

/-! ## Hosts, power and reset -/

@[simp] theorem execKctlReply_wf {s : State} (h : Memory.wf s.mem = true) (k fail : Nat) : LeavesWf (execKctlReply k fail s) :=
  leavesWf_next.2 (by simp [h])

/-! ## DRAM -/

@[simp] theorem execAmapCommit_wf {s : State} (h : Memory.wf s.mem = true) : LeavesWf (execAmapCommit s) :=
  leavesWf_next.2 (by simp [h])

@[simp] theorem execAmapCommitDone_wf {s : State} (h : Memory.wf s.mem = true) : LeavesWf (execAmapCommitDone s) :=
  leavesWf_next.2 (by simp [h])

@[simp] theorem execMigration_wf {s : State} (h : Memory.wf s.mem = true) (e : Nat) : LeavesWf (execMigration e s) :=
  leavesWf_next.2 (by simp [h])

@[simp] theorem execRmapMapout_wf {s : State} (h : Memory.wf s.mem = true) (stack die : Nat) : LeavesWf (execRmapMapout stack die s) :=
  leavesWf_next.2 (by simp [h])

@[simp] theorem execPatrolScrub_wf {s : State} (h : Memory.wf s.mem = true) (stack ch : Nat) : LeavesWf (execPatrolScrub stack ch s) :=
  leavesWf_next.2 (by simp [h])

@[simp] theorem execElogClr_wf {s : State} (h : Memory.wf s.mem = true) (blk : Nat) : LeavesWf (execElogClr blk s) :=
  leavesWf_next.2 (by simp [h])

@[simp] theorem execHphyPatGo_wf {s : State} (h : Memory.wf s.mem = true) (stack ch v : Nat) : LeavesWf (execHphyPatGo stack ch v s) :=
  leavesWf_next.2 (by simp [h])

@[simp] theorem execHphyPatDone_wf {s : State} (h : Memory.wf s.mem = true) (stack ch lanes nbad : Nat) :
    LeavesWf (execHphyPatDone stack ch lanes nbad s) :=
  leavesWf_next.2 (by simp [h])

@[simp] theorem execHphyLrepWrite_wf {s : State} (h : Memory.wf s.mem = true) (stack ch v : Nat) :
    LeavesWf (execHphyLrepWrite stack ch v s) := by
  refine leavesWf_next.2 ?_
  (repeat' split) <;> simp [h]

/-! ## Hosts, power and reset -/

@[simp] theorem execHlDoorbell_wf {s : State} (h : Memory.wf s.mem = true) (e q : Nat) : LeavesWf (execHlDoorbell e q s) :=
  leavesWf_next.2 (by simp [h])

@[simp] theorem execHlEventClear_wf {s : State} (h : Memory.wf s.mem = true) (e v : Nat) : LeavesWf (execHlEventClear e v s) :=
  leavesWf_next.2 (by simp [h])

@[simp] theorem execRetainEnter_wf {s : State} (h : Memory.wf s.mem = true) : LeavesWf (execRetainEnter s) :=
  leavesWf_next.2 (by simp [h])

@[simp] theorem execPowerWarning_wf {s : State} (h : Memory.wf s.mem = true) : LeavesWf (execPowerWarning s) :=
  leavesWf_next.2 (by simp [h])

@[simp] theorem execRetainResume_wf {s : State} (h : Memory.wf s.mem = true) : LeavesWf (execRetainResume s) :=
  leavesWf_next.2 (by simp [h])

@[simp] theorem execPowerWarningClear_wf {s : State} (h : Memory.wf s.mem = true) : LeavesWf (execPowerWarningClear s) :=
  leavesWf_next.2 (by simp [h])

@[simp] theorem execPowerLoss_wf {s : State} (h : Memory.wf s.mem = true) : LeavesWf (execPowerLoss s) :=
  leavesWf_next.2 (State.ite_wf State.reset_mem_wf h)

@[simp] theorem execReset_wf (s : State) (steps : Nat) : LeavesWf (execReset steps s) := by
  unfold execReset
  dsimp only
  refine leavesWf_next.2 (State.ite_wf (State.boot_wf State.reset_mem_wf) ?_)
  rw [State.hlEvent_mem, State.hlEvent_mem]
  exact State.reset_mem_wf

@[simp] theorem execHostRequest_wf {s : State} (h : Memory.wf s.mem = true) (e : Nat) (r : BusReq) : LeavesWf (execHostRequest e r s) :=
  leavesWf_next.2 (by simp [h])

@[simp] theorem execLockInterface_wf {s : State} (h : Memory.wf s.mem = true) (e : Nat) : LeavesWf (execLockInterface e s) := by
  refine leavesWf_next.2 ?_
  (repeat' split) <;> simp [h]

@[simp] theorem execKeyInstall_wf {s : State} (h : Memory.wf s.mem = true) (e pcl slot owner sid key : Nat) :
    LeavesWf (execKeyInstall e pcl slot owner sid key s) := by
  refine leavesWf_next.2 ?_
  (repeat' split) <;> simp [h]

@[simp] theorem execGetMeasurements_wf {s : State} (h : Memory.wf s.mem = true) (e idx : Nat) :
    LeavesWf (execGetMeasurements e idx s) := by
  refine leavesWf_next.2 ?_
  (repeat' split) <;> simp [h]

@[simp] theorem execGetVersion_wf {s : State} (h : Memory.wf s.mem = true) (e : Nat) : LeavesWf (execGetVersion e s) :=
  leavesWf_next.2 (by simp [h])

@[simp] theorem execLinkdown_wf {s : State} (h : Memory.wf s.mem = true) (port : Nat) : LeavesWf (execLinkdown port s) := by
  refine leavesWf_next.2 ?_
  (repeat' split) <;> simp [h]

@[simp] theorem execUcieLinkDown_wf {s : State} (h : Memory.wf s.mem = true) (die : Nat) : LeavesWf (execUcieLinkDown die s) := by
  refine leavesWf_next.2 ?_
  (repeat' split) <;> simp [h]

@[simp] theorem execMeterUpdate_wf {s : State} (h : Memory.wf s.mem = true) : LeavesWf (execMeterUpdate s) :=
  leavesWf_next.2 (by simp [h])

@[simp] theorem execCreditReplenish_wf {s : State} (h : Memory.wf s.mem = true) : LeavesWf (execCreditReplenish s) := by
  refine leavesWf_next.2 ?_
  (repeat' split) <;> simp [h]

@[simp] theorem execRegisterWrite_wf {s : State} (h : Memory.wf s.mem = true) (pa size v : Nat) :
    LeavesWf (execRegisterWrite pa size v s) := by
  refine leavesWf_next.2 ?_
  (repeat' split) <;> simp [h]

/-! ## The matrix engine -/

@[simp] theorem execEngineUnitWrite_wf {s : State} (h : Memory.wf s.mem = true) (pcl eng slot n : Nat) :
    LeavesWf (execEngineUnitWrite pcl eng slot n s) := by
  refine leavesWf_next.2 ?_
  (repeat' split) <;> simp [h]

/-! ## DRAM -/

@[simp] theorem execHphyChctlWrite_wf {s : State} (h : Memory.wf s.mem = true) (stack ch v : Nat) :
    LeavesWf (execHphyChctlWrite stack ch v s) :=
  leavesWf_next.2 (by simp [h])

/-! ## Hosts, power and reset -/

@[simp] theorem execPeerRequest_wf {s : State} (h : Memory.wf s.mem = true) (peer : Nat) (r : BusReq) :
    LeavesWf (execPeerRequest peer r s) := by
  unfold execPeerRequest
  dsimp only
  refine leavesWf_next.2 ?_
  (repeat' split) <;> simp [h]

@[simp] theorem execStartInterfaceRequest_wf {s : State} (h : Memory.wf s.mem = true) (e : Nat) :
    LeavesWf (execStartInterfaceRequest e s) := by
  refine leavesWf_next.2 ?_
  (repeat' split) <;> simp [h]

@[simp] theorem execStopInterfaceRequest_wf {s : State} (h : Memory.wf s.mem = true) (e : Nat) :
    LeavesWf (execStopInterfaceRequest e s) := by
  refine leavesWf_next.2 ?_
  (repeat' split) <;> simp [h]

@[simp] theorem execIdeKeyProgramming_wf {s : State} (h : Memory.wf s.mem = true) (e stream : Nat) :
    LeavesWf (execIdeKeyProgramming e stream s) := by
  refine leavesWf_next.2 ?_
  (repeat' split) <;> simp [h]

@[simp] theorem execKeyExchange_wf {s : State} (h : Memory.wf s.mem = true) (e : Nat) : LeavesWf (execKeyExchange e s) := by
  refine leavesWf_next.2 ?_
  (repeat' split) <;> simp [h]

@[simp] theorem execNegotiateAlgorithms_wf {s : State} (h : Memory.wf s.mem = true) (e common : Nat) :
    LeavesWf (execNegotiateAlgorithms e common s) := by
  refine leavesWf_next.2 ?_
  (repeat' split) <;> simp [h]

@[simp] theorem execGetCertificate_wf {s : State} (h : Memory.wf s.mem = true) (e : Nat) : LeavesWf (execGetCertificate e s) := by
  refine leavesWf_next.2 ?_
  (repeat' split) <;> simp [h]

end Sys2Proof.Machine

/-! # Every step keeps memory canonical -/
namespace Sys2Proof.Machine

/-- An instruction or an event keeps memory canonical. -/
theorem exec_wf (i : Instr) {s : State} (h : Memory.wf s.mem = true) : LeavesWf (exec i s) := by
  delta exec
  cases i <;> dsimp only
  case add | sub | and | or | xor | shl | shr | sra | min | max | minu | maxu | mov | clz | ctz | popc | brev | sextb | sexth | sextw
      | zextb | zexth | zextw | abs | neg => exact aluOp_wf h ..
  case mul | mulh | mulhu => exact mulOp_wf h ..
  case addi | li | shli | shri | srai | andi | ori | xori => exact immOp_wf h ..
  case div | divu | rem | remu => exact divOp_wf h ..
  case eq | ne | lt | ge | ltu | geu | tst | tstn => exact cmpOp_wf h ..
  case eqi | nei | lti | gei | ltui | geui => exact cmpImmOp_wf h ..
  case pand | por | pxor | pnot | pmov | pset | pclr => exact predOp_wf h ..
  case vadd | vsub | vmul | vmulh | vmin | vmax | vand | vor | vxor | vshl | vshr | vsra | vabs | vneg | vmov | vavg | vfma | vfms | veq
      | vne | vlt | vge | vle | vgt | vunord | vord | vsel | vrcp | vrsq | vrcpr | vrsqr | vexp2 | vlog2 | vsqrt | vdiv | vfloor | vceil
      | vrndn | vtrunc | vclass | vcvt | vshuf | vbcast | vzipl | vziph | vuzpl | vuzph | vrsum | vrmin | vrmax | vdot | vsplat | vputq
      | vputqh | vgetq2 | vld | vld1 | vst | vst1 | vlde => exact dispatchVec_wf h ..
  case aadd | aand | aor | axor | amin | amax | aminu | amaxu | aswap | acas | afadd | afmin => exact amo_wf h ..
  case vamoAadd | vamoAand | vamoAor | vamoAxor | vamoAmin | vamoAmax | vamoAminu | vamoAmaxu | vamoAswap | vamoAcas | vamoAfadd
      | vamoAfmin => exact vamo_wf h ..
  case fenceCluster | fenceDie | fenceDevice | fenceSystem => exact wideFence_wf h ..
  case cfetch | cstore | csend | cmcast | cgath | cscat | cseal | copen => exact copy_wf h ..
  case qprod | qarrive | qcons | qretire | qdrop => exact tqOp_wf h ..
  case sisect | sunion => exact combine_wf h ..
  case svalq | scrdq | svld => exact pushLive_wf h ..
  case msave | mrest | mucode | msets | mma | mmas | mmax | mrec | mzero | mldt | mstt | mtrans | mcvt | mrsum | mcopy | mlup | mchol
      | mtrsm | mfxchk => exact dispatchJob_wf h ..
  case dsync | dsyncw => exact dsync_wf h ..
  all_goals simp [h]

theorem afterIssue_wf {c : Nat} {o : Host.Outcome State Fault Refusal} (ho : LeavesWf o) : LeavesWf (afterIssue c o) := by
  cases o with
  | next t =>
    have ht := leavesWf_next.1 ho
    exact leavesWf_next.2 (State.ite_wf ht (by simpa using ht))
  | _ => exact ho

section Turns
variable {s : State} (h : Memory.wf s.mem = true)
include h

theorem issueTurn_wf (c : Nat) : LeavesWf (issueTurn c s) := by
  unfold issueTurn
  dsimp only
  split
  · exact leavesWf_next.2 (State.stopped_wf (by simpa using h) (by simpa using h) _)
  · split
    · split
      · exact afterIssue_wf (exec_wf _ (by simpa using h))
      · exact leavesWf_next.2 h
    · exact afterIssue_wf (leavesWf_next.2 (State.stopped_wf (by simpa using h) (by simpa using h) _))

theorem runTurn_wf (c : Nat) : LeavesWf (runTurn c s) := by
  unfold runTurn
  split
  · exact leavesWf_next.2 (State.ite_wf (State.takeAsync_wf h c) h)
  · split
    · exact issueTurn_wf h c
    · exact leavesWf_next.2 h

theorem chooseTurn_wf (c : Nat) : LeavesWf (chooseTurn c s) := by
  unfold chooseTurn
  split
  · split
    · exact leavesWf_next.2 h
    · exact issueTurn_wf h c
  · exact runTurn_wf h c

theorem lateTurn_wf (q : List (Nat × List Nat)) : LeavesWf (lateTurn s q) := by
  unfold lateTurn
  split
  · exact runTurn_wf (by exact h) _
  · exact leavesWf_next.2 h
  · exact leavesWf_next.2 h

theorem serveSlice_wf (k : Nat) : Memory.wf (s.serveSlice k).mem = true := by
  unfold State.serveSlice
  split
  · exact h
  · exact h

theorem step_wf : LeavesWf (step s) := by
  unfold step
  split
  · exact leavesWf_next.2 (State.tick_wf h)
  · exact leavesWf_next.2 (State.tick_wf h)
  · split
    · exact leavesWf_next.2 h
    · exact exec_wf _ (by exact h)
  · exact runTurn_wf (by exact h) _
  · exact chooseTurn_wf (by exact h) _
  · exact lateTurn_wf (by exact h) _
  · exact leavesWf_next.2 (by simpa using h)
  · exact leavesWf_next.2 (serveSlice_wf (by exact h) _)
  · exact leavesWf_next.2 h

end Turns

/-- Settles O56: each turn of a cycle keeps memory canonical. -/
theorem memoryStaysCanonical : Obligations.MemoryStaysCanonical := by
  unfold Obligations.MemoryStaysCanonical
  exact fun s t h e => (step_wf h).wf t e

end Sys2Proof.Machine
